-- ==== Sys2Proof/Word.lean ====
section
/-!
DEFINITION. The word types of GW4 and the sparse map that every array of the machine is held in.

A sparse map is plain data: a list of key and value pairs with strictly rising keys in which no
entry holds the default value, so equal contents are equal lists.
-/
namespace Sys2Proof

/-- One byte (R2). -/
abbrev Byte := BitVec 8
/-- One general register (R87). -/
abbrev Word := BitVec 32
/-- A register pair, a 64-bit register of a BAR, or a granule of a transaction (R88, R306). -/
abbrev DWord := BitVec 64
/-- A virtual address as a program forms it (R185). -/
abbrev Addr := BitVec 64

/-- A sparse map from `Nat` keys; an unlisted key holds `default`. -/
abbrev FMap (β : Type) := List (Nat × β)

namespace FMap

/-- The value at key `k`. -/
def get {β : Type} [Inhabited β] : FMap β → Nat → β
  | [], _ => default
  | (k', v) :: t, k => if k' = k then v else get t k

/-- Drops every entry of key `k`. -/
def erase {β : Type} : FMap β → Nat → FMap β
  | [], _ => []
  | (k', v) :: t, k => if k' = k then erase t k else (k', v) :: erase t k

/-- Places an entry before the first larger key. -/
def insert {β : Type} : FMap β → Nat → β → FMap β
  | [], k, v => [(k, v)]
  | (k', v') :: t, k, v => if k < k' then (k, v) :: (k', v') :: t else (k', v') :: insert t k v

/-- Writes `v` at key `k`, keeping the canonical form. -/
def set {β : Type} [Inhabited β] [DecidableEq β] (m : FMap β) (k : Nat) (v : β) : FMap β :=
  if v = default then m.erase k else (m.erase k).insert k v

/-- Changes the value at key `k` by `f`. -/
def upd {β : Type} [Inhabited β] [DecidableEq β] (m : FMap β) (k : Nat) (f : β → β) : FMap β :=
  m.set k (f (m.get k))

/-- Keys strictly rise from above `lo`, and no entry holds the default. -/
def wfFrom {β : Type} [Inhabited β] [DecidableEq β] : Option Nat → FMap β → Bool
  | _, [] => true
  | none, (k, v) :: t => decide (v ≠ default) && wfFrom (some k) t
  | some lo, (k, v) :: t => decide (lo < k) && decide (v ≠ default) && wfFrom (some k) t

/-- The canonical form of a sparse map. -/
def wf {β : Type} [Inhabited β] [DecidableEq β] (m : FMap β) : Bool := wfFrom none m

/-- The keys listed, in rising order for a canonical map. -/
def keys {β : Type} (m : FMap β) : List Nat := m.map (·.1)

/-- Writes the values of a list at consecutive keys. -/
def setList {β : Type} [Inhabited β] [DecidableEq β] : FMap β → Nat → List β → FMap β
  | m, _, [] => m
  | m, k, v :: vs => setList (m.set k v) (k + 1) vs

/-- Reads `n` consecutive keys. -/
def getList {β : Type} [Inhabited β] (m : FMap β) (k : Nat) : Nat → List β
  | 0 => []
  | n + 1 => m.get k :: getList m (k + 1) n

/-- Drops the entries whose key fails `p`. -/
def keep {β : Type} (m : FMap β) (p : Nat → Bool) : FMap β := m.filter (fun e => p e.1)

end FMap

/-- The little-endian value of a list of bytes (R2). -/
def leValue : List Byte → Nat
  | [] => 0
  | b :: bs => b.toNat + 256 * leValue bs

/-- The `n` little-endian bytes of a value (R2). -/
def leBytes : Nat → Nat → List Byte
  | 0, _ => []
  | n + 1, v => BitVec.ofNat 8 v :: leBytes n (v / 256)

end Sys2Proof
end

