-- ==== Sys2Proof/Syntax.lean ====
section
/-!
DEFINITION. The instructions and events of GW4 as data: one constructor for each row of the opcode table.

The first 133 majors are instructions; each carries the fields of its words (Tables 6-2 and 6-3). The
other rows are the events of the device, each with what the outside or the choice of unit supplies.
-/
namespace Sys2Proof

/-- TY codes 0 to 14 (Table 6-3); code 15 is illegal. -/
inductive Ty where
  | b8 | b16 | b32 | b64 | s8 | z8 | s16 | z16 | s32 | z32 | s64 | z64 | f16 | bf16 | f32
  deriving DecidableEq, Repr

/-- SC codes 0 to 5 (Table 6-3); codes 6 and 7 are illegal. -/
inductive Scope where
  | none | core | cluster | device | domain | system
  deriving DecidableEq, Repr

/-- The guard GD (R84): negation and predicate index, 7 naming pt. -/
structure Guard where
  neg : Bool
  pred : BitVec 3
  deriving DecidableEq, Repr

/-- The extension (Table 6-1). -/
inductive Ext where
  | none
  | imm32 (v : Word)
  | imm64 (v : DWord)
  deriving DecidableEq, Repr

/-- The fields of an instruction's words below OP (Table 6-2); LEN is the form of `ext`. -/
structure Fields where
  g : Guard
  d : BitVec 7
  a : BitVec 7
  b : BitVec 7
  c : BitVec 7
  ew : BitVec 3
  fn : BitVec 8
  ty : Ty
  sc : Scope
  rm : BitVec 2
  x : BitVec 2
  ext : Ext
  deriving DecidableEq, Repr

/-- Why a fetched word is not an instruction (Table 6-6). -/
inductive DecodeFault where
  | illegal | fetchAlign
  deriving DecidableEq, Repr

/-- Fault causes (Table 19-1); TRAP and BRK included. -/
inductive Cause where
  | none | illegal | fetchAlign | align | page | perm | owner | privLimit | emptyReg | poison
  | peerFault | peerTimeout | bandWait | engReset | cardBad | layoutBad | nestBad | queueBad | trap | brk
  deriving DecidableEq, Repr

/-- What an invalidation of cluster TLB entries selects (R191, R192). -/
structure TlbSel where
  vmid : Option Nat
  asid : Option Nat
  /-- Virtual address bits [42:12] (R191). -/
  vpn : Option Nat
  deriving DecidableEq, Repr

/-- A write about to be performed at its point of performance (R282): one in flight inside the device,
or one of a host core, a PCIe or a CXL agent. -/
inductive HomeWrite where
  | inflight (id : Nat)
  | agent (pa : Nat) (bytes : List Byte)
  deriving DecidableEq, Repr

/-- What a scrubber finds in a sector (R271). -/
inductive SectorState where
  | good | corrected | uncorrectable
  deriving DecidableEq, Repr

/-- A 64-byte flit (Table 18-1). -/
structure Flit where
  crc : Word
  seq : BitVec 12
  ack : BitVec 12
  cls : BitVec 2
  poison : Bool
  nak : Bool
  kind : BitVec 4
  /-- The 56 bytes of the body. -/
  body : List Byte
  deriving DecidableEq, Repr

/-- An inbound packet: the transaction header and its data (Table 18-2). -/
structure PeerPacket where
  addr : DWord
  src : BitVec 16
  dst : BitVec 16
  tag : BitVec 16
  op : Byte
  size : Byte
  func : Byte
  sc : BitVec 3
  cls : BitVec 2
  hops : BitVec 3
  deadline : BitVec 16
  aux : Word
  /-- Check values of the sectors carried, zero when absent. -/
  chk0 : Word
  chk1 : Word
  data : List Byte
  /-- Its flits carry the poison mark (Table 18-1). -/
  poison : Bool := false
  deriving DecidableEq, Repr

/-- What one member of a collective sends: the values that all members must share and its elements
(R337, R339). Dense elements are binary32 words, sparse ones are index and value pairs. -/
structure Contribution where
  op : Nat
  span : Nat
  thresh : Nat
  count : Nat
  ranks : List Nat
  dense : List Word
  pairs : List (Nat × Word)
  deriving DecidableEq, Repr

/-- A firmware image (R361): the fields of its header, with the SM2 signature, and its body. -/
structure Image where
  version : Word
  svn : Word
  stMin : Nat
  stMax : Nat
  /-- SM3 digest of the body, as the header gives it. -/
  digest : Nat
  /-- The signature: the SM3 digest of the public key against which it verifies over this header; none where it
  verifies against no key. -/
  signer : Option Nat
  /-- The body, by its SM3 digest. -/
  body : Nat
  deriving DecidableEq, Repr, Inhabited

/-- What calibration finds (R370). -/
structure Calibration where
  pll : Bool
  hbm : Bool
  /-- The nine rank straps (R324). -/
  straps : BitVec 9
  deriving DecidableEq, Repr

/-- An SPDM request as it arrives (R367, R369): the port's mailbox it came by and its operands. -/
structure SpdmRequest where
  port : Nat
  slot : Nat
  /-- The algorithms offered: SM2 and SM3. -/
  sm2 : Bool
  sm3 : Bool
  nonce : Nat
  /-- The complex that was active before the last change of roles accepted it, and answers it now (R369). -/
  late : Bool
  deriving DecidableEq, Repr

/-- A test-port instruction (R371). -/
inductive JtagCode where
  | boundaryScan | idcode | other (code : Nat)
  deriving DecidableEq, Repr

/-- The instructions and events of GW4. -/
inductive Instr where
  /-- IADD (R121). -/
  | iadd (f : Fields)
  /-- ISUB (R121). -/
  | isub (f : Fields)
  /-- IMUL (R121). -/
  | imul (f : Fields)
  /-- IMAD (R121). -/
  | imad (f : Fields)
  /-- IDIV (R122). -/
  | idiv (f : Fields)
  /-- IREM (R122). -/
  | irem (f : Fields)
  /-- IMIN (R121). -/
  | imin (f : Fields)
  /-- IMAX (R121). -/
  | imax (f : Fields)
  /-- IABS (R121). -/
  | iabs (f : Fields)
  /-- LEA (R121). -/
  | lea (f : Fields)
  /-- SHL (R123). -/
  | shl (f : Fields)
  /-- SHR (R123). -/
  | shr (f : Fields)
  /-- ROT (R123). -/
  | rot (f : Fields)
  /-- LOP3 (R124). -/
  | lop3 (f : Fields)
  /-- BFX (R125). -/
  | bfx (f : Fields)
  /-- BFI (R125). -/
  | bfi (f : Fields)
  /-- POPC (R121). -/
  | popc (f : Fields)
  /-- CLZ (R121). -/
  | clz (f : Fields)
  /-- BREV (R121). -/
  | brev (f : Fields)
  /-- BYTEP (R126). -/
  | bytep (f : Fields)
  /-- SEL (R121). -/
  | sel (f : Fields)
  /-- MOV (R121). -/
  | mov (f : Fields)
  /-- MOVI (R121). -/
  | movi (f : Fields)
  /-- IADDC (R127). -/
  | iaddc (f : Fields)
  /-- IDP4 (R128). -/
  | idp4 (f : Fields)
  /-- ICMP (R130). -/
  | icmp (f : Fields)
  /-- FCMP (R130). -/
  | fcmp (f : Fields)
  /-- PLOP (R131). -/
  | plop (f : Fields)
  /-- P2G (R131). -/
  | p2g (f : Fields)
  /-- G2P (R131). -/
  | g2p (f : Fields)
  /-- VOTE (R133). -/
  | vote (f : Fields)
  /-- SHFL (R134). -/
  | shfl (f : Fields)
  /-- MATCH (R133). -/
  | matchLanes (f : Fields)
  /-- ELECT (R133). -/
  | elect (f : Fields)
  /-- BRED (R133). -/
  | bred (f : Fields)
  /-- BSCAN (R133). -/
  | bscan (f : Fields)
  /-- FBRED (R135). -/
  | fbred (f : Fields)
  /-- MELD (R116). -/
  | meld (f : Fields)
  /-- BARC (R136). -/
  | barc (f : Fields)
  /-- BANDWAIT_TIMEOUT (R114). -/
  | bandwaitTimeout (crew : Nat)
  /-- NOP (R92). -/
  | nop (f : Fields)
  /-- BRA (R138). -/
  | bra (f : Fields)
  /-- BRX (R138). -/
  | brx (f : Fields)
  /-- CALL (R138). -/
  | call (f : Fields)
  /-- RET (R138). -/
  | ret (f : Fields)
  /-- EXIT (R139). -/
  | exit (f : Fields)
  /-- YIELD (R140). -/
  | yield (f : Fields)
  /-- WAITA (R141). -/
  | waita (f : Fields)
  /-- WAITA_REREAD (R141). -/
  | waitaReread (crew tid : Nat)
  /-- SLEEP (R140). -/
  | sleep (f : Fields)
  /-- SLEEP_EXPIRE (R140). -/
  | sleepExpire (crew tid : Nat)
  /-- TRAP (R142). -/
  | trap (f : Fields)
  /-- BRK (R142). -/
  | brk (f : Fields)
  /-- GETS (R143). -/
  | gets (f : Fields)
  /-- SETS (R144). -/
  | sets (f : Fields)
  /-- DRAW (R147). -/
  | draw (f : Fields)
  /-- APPEND (R148). -/
  | append (f : Fields)
  /-- RETIRE (R139). -/
  | retire (f : Fields)
  /-- BNDSET (R149). -/
  | bndset (f : Fields)
  /-- NESTQ (R150). -/
  | nestq (f : Fields)
  /-- FADD (R176). -/
  | fadd (f : Fields)
  /-- FMUL (R176). -/
  | fmul (f : Fields)
  /-- FFMA (R176). -/
  | ffma (f : Fields)
  /-- FMIN (R177). -/
  | fmin (f : Fields)
  /-- FMAX (R177). -/
  | fmax (f : Fields)
  /-- FRCP (R178). -/
  | frcp (f : Fields)
  /-- FRSQ (R178). -/
  | frsq (f : Fields)
  /-- FSQRT (R176). -/
  | fsqrt (f : Fields)
  /-- FEXP2 (R178). -/
  | fexp2 (f : Fields)
  /-- FLOG2 (R178). -/
  | flog2 (f : Fields)
  /-- FSIN (R178). -/
  | fsin (f : Fields)
  /-- FCOS (R178). -/
  | fcos (f : Fields)
  /-- FTANH (R178). -/
  | ftanh (f : Fields)
  /-- FDIV (R176). -/
  | fdiv (f : Fields)
  /-- HADD2 (R182). -/
  | hadd2 (f : Fields)
  /-- HMUL2 (R182). -/
  | hmul2 (f : Fields)
  /-- HFMA2 (R182). -/
  | hfma2 (f : Fields)
  /-- HDOT2 (R183). -/
  | hdot2 (f : Fields)
  /-- FCLASS (R184). -/
  | fclass (f : Fields)
  /-- FRND (R176). -/
  | frnd (f : Fields)
  /-- CVTI (R167). -/
  | cvti (f : Fields)
  /-- CVTF (R168). -/
  | cvtf (f : Fields)
  /-- QT8 (R169). -/
  | qt8 (f : Fields)
  /-- QT6 (R169). -/
  | qt6 (f : Fields)
  /-- DQT8 (R170). -/
  | dqt8 (f : Fields)
  /-- DQT6 (R170). -/
  | dqt6 (f : Fields)
  /-- AMAX (R171). -/
  | amax (f : Fields)
  /-- FGETE (R172). -/
  | fgete (f : Fields)
  /-- PACK (R173). -/
  | pack (f : Fields)
  /-- UNPK (R173). -/
  | unpk (f : Fields)
  /-- LD (R204). -/
  | ld (f : Fields)
  /-- ST (R205). -/
  | st (f : Fields)
  /-- LDS (R204). -/
  | lds (f : Fields)
  /-- STS (R205). -/
  | sts (f : Fields)
  /-- LDP (R204). -/
  | ldp (f : Fields)
  /-- STP (R205). -/
  | stp (f : Fields)
  /-- LOAD_DATA_LANDS (R89). -/
  | loadDataLands (id : Nat)
  /-- STORE_ACKNOWLEDGED (R205). -/
  | storeAcknowledged (id : Nat)
  /-- ATOM (R212). -/
  | atom (f : Fields)
  /-- ACAS (R212). -/
  | acas (f : Fields)
  /-- RED (R212). -/
  | red (f : Fields)
  /-- FENCE (R293). -/
  | fence (f : Fields)
  /-- CINV (R294). -/
  | cinv (f : Fields)
  /-- CWB (R295). -/
  | cwb (f : Fields)
  /-- TXB (R304). -/
  | txb (f : Fields)
  /-- TXC (R309). -/
  | txc (f : Fields)
  /-- TXA (R315). -/
  | txa (f : Fields)
  /-- TXS (R317). -/
  | txs (f : Fields)
  /-- PREFM (R208). -/
  | prefm (f : Fields)
  /-- SPMK (R209). -/
  | spmk (f : Fields)
  /-- SPWT (R209). -/
  | spwt (f : Fields)
  /-- MMA (R229). -/
  | mma (f : Fields)
  /-- MMAS (R230). -/
  | mmas (f : Fields)
  /-- MRSC (R233). -/
  | mrsc (f : Fields)
  /-- ACCRD (R235). -/
  | accrd (f : Fields)
  /-- ACCWR (R235). -/
  | accwr (f : Fields)
  /-- ACCZ (R236). -/
  | accz (f : Fields)
  /-- WMARK (R237). -/
  | wmark (f : Fields)
  /-- MWAIT (R237). -/
  | mwait (f : Fields)
  /-- CPYT (R252). -/
  | cpyt (f : Fields)
  /-- CPYL (R253). -/
  | cpyl (f : Fields)
  /-- CPYM (R253). -/
  | cpym (f : Fields)
  /-- KICK (R254). -/
  | kick (f : Fields)
  /-- CWAIT (R255). -/
  | cwait (f : Fields)
  /-- BINIT (R257). -/
  | binit (f : Fields)
  /-- BARR (R257). -/
  | barr (f : Fields)
  /-- BWAIT (R257). -/
  | bwait (f : Fields)
  /-- COLL (R261). -/
  | coll (f : Fields)
  /-- FOPEN (R217). -/
  | fopen (f : Fields)
  /-- FADV (R217). -/
  | fadv (f : Fields)
  /-- FSEEK (R217). -/
  | fseek (f : Fields)
  /-- FTEST (R217). -/
  | ftest (f : Fields)
  /-- FGET (R217). -/
  | fget (f : Fields)
  /-- FCLOSE (R217). -/
  | fclose (f : Fields)
  /-- SOPEN (R218). -/
  | sopen (f : Fields)
  /-- SNEXT (R218). -/
  | snext (f : Fields)
  /-- STEST (R218). -/
  | stest (f : Fields)
  /-- SCLOSE (R218). -/
  | sclose (f : Fields)
  /-- ILLEGAL_FETCH (R94). -/
  | illegalFetch (cause : DecodeFault)
  /-- NOTIFY_WRITE (R40). -/
  | notifyWrite (fn off size : Nat) (value : DWord)
  /-- QCMD_ENABLE (R38). -/
  | qcmdEnable (fn queue : Nat)
  /-- QCMD_DISABLE (R38). -/
  | qcmdDisable (fn queue : Nat)
  /-- QCMD_RESERVED_OP (R39). -/
  | qcmdReservedOp (fn queue : Nat)
  /-- SLOT_READ (R41). -/
  | slotRead (fn queue : Nat)
  /-- PKT_NOP (R47). -/
  | pktNop (fn queue : Nat)
  /-- PKT_INSTALL (R47). -/
  | pktInstall (fn queue : Nat)
  /-- INSTALL_STALL_END (R47). -/
  | installStallEnd (fn queue : Nat)
  /-- PKT_APPEND (R47). -/
  | pktAppend (fn queue : Nat)
  /-- APPEND_STALL_END (R67). -/
  | appendStallEnd (fn queue : Nat)
  /-- PKT_COPY (R47). -/
  | pktCopy (fn queue : Nat)
  /-- PKT_SIGNAL (R47). -/
  | pktSignal (fn queue : Nat)
  /-- PKT_WAIT (R47). -/
  | pktWait (fn queue : Nat)
  /-- WAIT_REREAD (R47). -/
  | waitReread (fn queue : Nat)
  /-- PKT_FENCE (R47). -/
  | pktFence (fn queue : Nat)
  /-- PKT_LINK (R43). -/
  | pktLink (fn queue : Nat)
  /-- SEGMENT_STALL_END (R44). -/
  | segmentStallEnd (fn queue : Nat)
  /-- PKT_TIMESTAMP (R47). -/
  | pktTimestamp (fn queue : Nat)
  /-- PACKET_COMPLETE (R48). -/
  | packetComplete (fn queue idx : Nat)
  /-- RETIRE_EVENT (R54). -/
  | retireEvent (crew : Nat)
  /-- BNDSET_EVENT (R59). -/
  | bndsetEvent (crew tid : Nat)
  /-- ROW_OPEN (R53). -/
  | rowOpen (part : Nat)
  /-- POINT_RELEASE (R57). -/
  | pointRelease (part : Nat)
  /-- NEST_COMPLETION (R61). -/
  | nestCompletion (part nest : Nat)
  /-- COMPLETION_WRITE_ACK (R61). -/
  | completionWriteAck (part nest : Nat)
  /-- CREW_START (R64). -/
  | crewStart (core pick : Nat)
  /-- RESIDENT_CREW_START (R29). -/
  | residentCrewStart (core pick : Nat)
  /-- CREW_RESOURCES_FREED (R139). -/
  | crewResourcesFreed (crew : Nat)
  /-- WORLD_SWITCH (R50). -/
  | worldSwitch (part : Nat)
  /-- WORLD_SWITCH_DONE (R77). -/
  | worldSwitchDone (part : Nat)
  /-- VACANCY_EXIT (R78). -/
  | vacancyExit (part : Nat)
  /-- KITTY_IDLE (R72). -/
  | kittyIdle (cluster : Nat)
  /-- KITTY_LEND (R72). -/
  | kittyLend (part : Nat)
  /-- REVOCATION_DONE (R73). -/
  | revocationDone (cluster : Nat)
  /-- PREVOKE_WRITE (R73). -/
  | prevokeWrite (part : Nat) (value : BitVec 16)
  /-- CLUSTER_FAIL (R69). -/
  | clusterFail (cluster : Nat)
  /-- PCFG_WRITE (R80). -/
  | pcfgWrite (value : Word)
  /-- PARTS_APPLY_DONE (R80). -/
  | partsApplyDone
  /-- VFPART_WRITE (R78). -/
  | vfpartWrite (fn : Nat) (value : Word)
  /-- CAL_WRITE (R76). -/
  | calWrite (slot : Nat) (value : Word)
  /-- PSLICE_WRITE (R78). -/
  | psliceWrite (part entry : Nat) (value : Word)
  /-- PKITTY_WRITE (R72). -/
  | pkittyWrite (part : Nat) (value : DWord)
  /-- TLBI_WRITE (R192). -/
  | tlbiWrite (value : DWord)
  /-- TLBI_DONE (R192). -/
  | tlbiDone
  /-- HOST_TLB_FENCE (R192). -/
  | hostTlbFence (sel : TlbSel)
  /-- FOCMD_SET (R196). -/
  | focmdSet (value : DWord)
  /-- FOCMD_SET_DONE (R196). -/
  | focmdSetDone
  /-- FOCMD_READ (R196). -/
  | focmdRead (value : DWord)
  /-- FOCMD_REFUSED (R196). -/
  | focmdRefused (value : DWord)
  /-- FWIN_ENABLE (R162). -/
  | fwinEnable (win : Nat) (value : Word)
  /-- FWIN_ENABLE_DONE (R162). -/
  | fwinEnableDone (win : Nat)
  /-- FWIN_DISABLE (R162). -/
  | fwinDisable (win : Nat) (value : Word)
  /-- FWIN_DISABLE_DONE (R162). -/
  | fwinDisableDone (win : Nat)
  /-- HOME_WRITE_PERFORM (R282). -/
  | homeWritePerform (w : HomeWrite)
  /-- SHARED_CACHE_FILL (R279). -/
  | sharedCacheFill (fn pa : Nat)
  /-- MSC_WRITE_APPLY (R263). -/
  | mscWriteApply (id : Nat)
  /-- PARITY_DELTA_APPLY (R263). -/
  | parityDeltaApply (id : Nat)
  /-- STACK_LOST (R266). -/
  | stackLost (stack : Nat)
  /-- MEMCTL_DECLARE (R266). -/
  | memctlDeclare (value : Word)
  /-- SCRUB_SECTOR (R271). -/
  | scrubSector (stack off : Nat) (found : SectorState)
  /-- CHANNEL_GRANT (R277). -/
  | channelGrant (stack : Nat)
  /-- HOTCTL_ENABLE (R280). -/
  | hotctlEnable (fn : Nat) (value : Word)
  /-- ACCCTL_WRITE (R281). -/
  | accctlWrite (value : DWord)
  /-- LZCTL_WRITE (R301). -/
  | lzctlWrite (value : Word)
  /-- LZCTL_DRAIN_DONE (R301). -/
  | lzctlDrainDone
  /-- CARD_START (R243). -/
  | cardStart (id : Nat)
  /-- CARD_LINE_LANDS (R256). -/
  | cardLineLands (id line : Nat)
  /-- MATRIX_BLOCK_FINAL (R231). -/
  | matrixBlockFinal (id : Nat)
  /-- CARD_COMPLETE (R243). -/
  | cardComplete (id : Nat)
  /-- CARD_PAGE_PAUSE (R246). -/
  | cardPagePause (id : Nat)
  /-- CARD_ABANDON (R246). -/
  | cardAbandon (id : Nat) (cause : Cause)
  /-- ENGINE_HANG (R240). -/
  | engineHang (core : Nat)
  /-- TOKEN_TICK (R260). -/
  | tokenTick (cluster : Nat)
  /-- CREW_SAVE_END (R344). -/
  | crewSaveEnd (crew : Nat)
  /-- FAULT_RECORD_DRAIN (R350). -/
  | faultRecordDrain (fn : Nat)
  /-- FAULT_MSI (R352). -/
  | faultMsi (fn : Nat)
  /-- CREW_RESTORE (R349). -/
  | crewRestore (crew core : Nat)
  /-- CREWCMD_RESUME (R354). -/
  | crewcmdResume (fn : Nat) (value : DWord)
  /-- CREWCMD_SKIP (R354). -/
  | crewcmdSkip (fn : Nat) (value : DWord)
  /-- CREWCMD_ABORT (R360). -/
  | crewcmdAbort (fn : Nat) (value : DWord)
  /-- CREWCMD_PAGEOK (R354). -/
  | crewcmdPageok (fn : Nat) (value : DWord)
  /-- CREWCMD_PAGEFAIL (R354). -/
  | crewcmdPagefail (fn : Nat) (value : DWord)
  /-- CREWCMD_DROP (R354). -/
  | crewcmdDrop (fn : Nat) (value : DWord)
  /-- FLR_REQUEST (R51). -/
  | flrRequest (fn : Nat)
  /-- FLR_TEARDOWN_DONE (R51). -/
  | flrTeardownDone (fn : Nat)
  /-- PORT_TRAIN (R324). -/
  | portTrain (port peerRank peerPort : Nat) (lanes : Byte)
  /-- LANE_RETIRE (R325). -/
  | laneRetire (port lane : Nat)
  /-- PORT_RETRAIN_DONE (R325). -/
  | portRetrainDone (port : Nat)
  /-- ROUTE_REWRITE (R327). -/
  | routeRewrite (port : Nat)
  /-- FLIT_RECEIVE (R329). -/
  | flitReceive (port : Nat) (flit : Flit)
  /-- PEER_REQUEST (R333). -/
  | peerRequest (pkt : PeerPacket)
  /-- PEER_READRSP (R331). -/
  | peerReadrsp (tag : Nat) (data : List Byte) (poison : Bool)
  /-- PEER_WRITEACK (R332). -/
  | peerWriteack (tag : Nat)
  /-- PEER_ATOMRSP (R332). -/
  | peerAtomrsp (tag : Nat) (old : DWord)
  /-- PEER_FAULT (R334). -/
  | peerFault (tag : Nat) (cause : Cause)
  /-- PEER_TIMEOUT (R335). -/
  | peerTimeout (tag : Nat)
  /-- CDATA (R339). -/
  | cdata (fn group inst member : Nat) (share : Contribution)
  /-- COLL_TIMEOUT (R337). -/
  | collTimeout (fn group inst : Nat)
  /-- WPORT_CRCERR_CLEAR (R342). -/
  | wportCrcerrClear (port : Nat) (value : DWord)
  /-- THERMAL_WARN (R13). -/
  | thermalWarn (die : Nat)
  /-- THERMAL_HALT (R13). -/
  | thermalHalt
  /-- THERMAL_RESUME (R13). -/
  | thermalResume
  /-- THERMAL_POWER_OFF (R13). -/
  | thermalPowerOff
  /-- STATE_TABLE_COMMIT (R362). -/
  | stateTableCommit
  /-- CC_FAILOVER (R363). -/
  | ccFailover
  /-- FWCTL_STAGE (R364). -/
  | fwctlStage (value : Word) (image : Image)
  /-- FWCTL_TAKEOVER (R365). -/
  | fwctlTakeover
  /-- FWCTL_COMMIT (R366). -/
  | fwctlCommit
  /-- FWCTL_DISCARD (R364). -/
  | fwctlDiscard
  /-- FWCTL_INVALID (R364). -/
  | fwctlInvalid (value : Word)
  /-- FW_COMMAND_DONE (R364). -/
  | fwCommandDone
  /-- GET_VERSION (R367). -/
  | getVersion (req : SpdmRequest)
  /-- GET_CAPABILITIES (R367). -/
  | getCapabilities (req : SpdmRequest)
  /-- NEGOTIATE_ALGORITHMS (R367). -/
  | negotiateAlgorithms (req : SpdmRequest)
  /-- GET_DIGESTS (R367). -/
  | getDigests (req : SpdmRequest)
  /-- GET_CERTIFICATE (R367). -/
  | getCertificate (req : SpdmRequest)
  /-- CHALLENGE (R367). -/
  | challenge (req : SpdmRequest)
  /-- GET_MEASUREMENTS (R368). -/
  | getMeasurements (req : SpdmRequest)
  /-- UNSUPPORTED_REQUEST (R367). -/
  | unsupportedRequest (req : SpdmRequest)
  /-- POWER_ON_RESET (R370). -/
  | powerOnReset
  /-- CALIBRATION_DONE (R370). -/
  | calibrationDone (res : Calibration)
  /-- MEMORY_INIT_DONE (R370). -/
  | memoryInitDone (failed : BitVec 12) (count : Nat)
  /-- JTAG_INSTRUCTION (R371). -/
  | jtagInstruction (code : JtagCode)
  /-- REGISTER_WRITE (R4). -/
  | registerWrite (bar fn off size : Nat) (value : DWord)
  /-- POWER_LOSS (R366). -/
  | powerLoss
  /-- FRCTL_ENABLE (R350). -/
  | frctlEnable (fn : Nat) (value : Word)
  /-- CXL_BACK_INVALIDATE (R299). -/
  | cxlBackInvalidate (pa : Nat)  deriving DecidableEq, Repr

end Sys2Proof
end

