-- ==== Sys2Proof/WellFormed.lean ====
section
/-!
DEFINITION. Which fields each instruction accepts (Tables 8-1 to 17-2 of the spec's chapters), and the
register fields it names. Whatever a row does not give is illegal (R93).
-/
namespace Sys2Proof

/-- An operation whose operands of TY are register pairs (R118). -/
def Ty.is64 : Ty → Bool
  | .b64 | .s64 | .z64 => true
  | _ => false

/-- What a register field holds (Table 6-2, R87, R88). -/
inductive Opnd where
  | unused
  | reg
  | pair
  /-- `n` registers from an index that is a multiple of `al`. -/
  | blk (n al : Nat)
  /-- A predicate destination: bits [16:14] of D (R87). -/
  | pdst
  /-- A predicate source with its negation: A[3:0] (R132). -/
  | psrc
  /-- A predicate index in bits [2:0] (R129). -/
  | pidx
  /-- A fibre or stream register (R216). -/
  | fib
  /-- The first register of a band block (R221); its EW bit is zero. -/
  | band
  deriving DecidableEq, Repr

/-- The forms of a word (Table 6-1). -/
inductive Len where
  | l64 | l96 | l128
  deriving DecidableEq, Repr

/-- What an extension stands for. -/
inductive ExtUse where
  /-- It takes the place of source A, B or C (R90). -/
  | a | b | c
  /-- A byte offset, or fields of the entry's own. -/
  | own
  deriving DecidableEq, Repr

/-- What an instruction's encoding row accepts. -/
structure Shape where
  lens : List Len
  ext : ExtUse := .own
  d : Opnd := .unused
  a : Opnd := .unused
  b : Opnd := .unused
  c : Opnd := .unused
  tys : List Ty := [.b8]
  fnOk : Bool
  scOk : Bool
  rmOk : Bool
  xOk : Bool
  extOk : Bool := true

/-- The form of an instruction's words. -/
def Ext.len : Ext → Len
  | .none => .l64
  | .imm32 _ => .l96
  | .imm64 _ => .l128

/-- The value of an IMM32, zero without one. -/
def Ext.imm : Ext → Word
  | .imm32 v => v
  | _ => 0

/-- A register or a pair by TY. -/
def Opnd.byTy (t : Ty) : Opnd := if t.is64 then .pair else .reg

/-- The elements of a vector access by X: 1, 2 or 4 (R203, R234). -/
def vecCount (x : BitVec 2) : Nat := if x = 0 then 1 else if x = 1 then 2 else 4

/-- The register block of a vector access (R203). -/
def vecOpnd (t : Ty) (x : BitVec 2) : Opnd :=
  if x = 0 then .byTy t
  else if t.is64 then .blk (2 * vecCount x) (2 * vecCount x) else .blk (vecCount x) (vecCount x)

/-- The block of ACCRD and ACCWR (R234). -/
def accOpnd (x : BitVec 2) : Opnd := if x = 0 then .reg else .blk (vecCount x) (vecCount x)

/-- An immediate of a 16-bit floating type has zero in bits [31:16] (R90). -/
def imm16Ok (t : Ty) (e : Ext) : Bool :=
  match e with
  | .imm32 v => match t with
    | .f16 | .bf16 => v.extractLsb' 16 16 == 0
    | _ => true
  | _ => true

/-- An immediate whose bits [31:8] are zero (R137, R169, R303). -/
def imm8Ok (e : Ext) : Bool := e.imm.extractLsb' 8 24 == 0

/-- A branch offset whose bits [1:0] are zero (R137, R303). -/
def immBranchOk (e : Ext) : Bool := e.imm.extractLsb' 0 2 == 0

/-- FN with only the bits of `mask` set (R174). -/
def fnMask (f : Fields) (mask : BitVec 8) : Bool := f.fn &&& ~~~mask == 0

/-- FN at most `n`. -/
def fnLe (f : Fields) (n : Nat) : Bool := decide (f.fn.toNat ≤ n)

/-- No scope and plain ordering. -/
def plainSc (f : Fields) : Bool := f.sc == .none

/-- SC 0 with plain ordering, or a scope with ordering `o`. -/
def scopeWith (f : Fields) (o : BitVec 2) : Bool :=
  (f.sc == .none && f.rm == 0) || (f.sc != .none && f.rm == o)

/-- SC 0 with plain ordering, or core scope with ordering `o`. -/
def coreWith (f : Fields) (o : BitVec 2) : Bool :=
  (f.sc == .none && f.rm == 0) || (f.sc == .core && f.rm == o)

/-- Device, domain or system scope. -/
def wideSc (f : Fields) : Bool := f.sc == .device || f.sc == .domain || f.sc == .system

/-- The source code of CVTI and CVTF as a type (R166): FN[3:0] of 4 to 14. -/
def Ty.ofCode : Nat → Option Ty
  | 0 => some .b8 | 1 => some .b16 | 2 => some .b32 | 3 => some .b64
  | 4 => some .s8 | 5 => some .z8 | 6 => some .s16 | 7 => some .z16
  | 8 => some .s32 | 9 => some .z32 | 10 => some .s64 | 11 => some .z64
  | 12 => some .f16 | 13 => some .bf16 | 14 => some .f32 | _ => none

/-- The code of a type (Table 6-3). -/
def Ty.code : Ty → Nat
  | .b8 => 0 | .b16 => 1 | .b32 => 2 | .b64 => 3 | .s8 => 4 | .z8 => 5 | .s16 => 6 | .z16 => 7
  | .s32 => 8 | .z32 => 9 | .s64 => 10 | .z64 => 11 | .f16 => 12 | .bf16 => 13 | .f32 => 14

/-- The source type named by FN[3:0] (R166). -/
def cvtSrc (f : Fields) : Ty := (Ty.ofCode (f.fn.extractLsb' 0 4).toNat).getD .b8

/-- Whether a type is a floating-point format. -/
def Ty.isFloat : Ty → Bool
  | .f16 | .bf16 | .f32 => true
  | _ => false

/-- The type of each special register (Table 8-7). -/
def specialTy (n : Nat) : Option Ty :=
  if n ≤ 0x06 then some .b32
  else if 0x08 ≤ n ∧ n ≤ 0x13 then some .b32
  else if n = 0x18 ∨ n = 0x19 then some .b64
  else if 0x1A ≤ n ∧ n ≤ 0x1D then some .b32
  else none

/-- The operation and type pairs of ATOM and RED (Table 12-4). -/
def atomOk (f : Fields) (maxFn : Nat) : Bool :=
  fnLe f maxFn &&
  (match f.ty with
   | .s32 | .z32 | .s64 | .z64 | .f32 => fnLe f 2
   | .b32 | .b64 => decide (3 ≤ f.fn.toNat)
   | _ => false)

def intTys : List Ty := [.s32, .z32, .s64, .z64]
def bitTys : List Ty := [.b32, .b64]
def floatTys : List Ty := [.f16, .bf16, .f32]
def loadTys : List Ty := [.b8, .s8, .z8, .b16, .s16, .z16, .b32, .b64]
def storeTys : List Ty := [.b8, .b16, .b32, .b64]

/-- X of a vector access: 0, 1 or 2, the vector forms for b32 and b64 only (R202). -/
def vecXOk (f : Fields) : Bool := f.x == 0 || ((f.x == 1 || f.x == 2) && (f.ty == .b32 || f.ty == .b64))

/-- A class code of a card instruction: 0 to 2. -/
def classOk (v : BitVec 2) : Bool := v != 3

/-- The fields of an instruction; an event has none. -/
def Instr.fields : Instr → Option Fields
  | .iadd f => some f
  | .isub f => some f
  | .imul f => some f
  | .imad f => some f
  | .idiv f => some f
  | .irem f => some f
  | .imin f => some f
  | .imax f => some f
  | .iabs f => some f
  | .lea f => some f
  | .shl f => some f
  | .shr f => some f
  | .rot f => some f
  | .lop3 f => some f
  | .bfx f => some f
  | .bfi f => some f
  | .popc f => some f
  | .clz f => some f
  | .brev f => some f
  | .bytep f => some f
  | .sel f => some f
  | .mov f => some f
  | .movi f => some f
  | .iaddc f => some f
  | .idp4 f => some f
  | .icmp f => some f
  | .fcmp f => some f
  | .plop f => some f
  | .p2g f => some f
  | .g2p f => some f
  | .vote f => some f
  | .shfl f => some f
  | .matchLanes f => some f
  | .elect f => some f
  | .bred f => some f
  | .bscan f => some f
  | .fbred f => some f
  | .meld f => some f
  | .barc f => some f
  | .nop f => some f
  | .bra f => some f
  | .brx f => some f
  | .call f => some f
  | .ret f => some f
  | .exit f => some f
  | .yield f => some f
  | .waita f => some f
  | .sleep f => some f
  | .trap f => some f
  | .brk f => some f
  | .gets f => some f
  | .sets f => some f
  | .draw f => some f
  | .append f => some f
  | .retire f => some f
  | .bndset f => some f
  | .nestq f => some f
  | .fadd f => some f
  | .fmul f => some f
  | .ffma f => some f
  | .fmin f => some f
  | .fmax f => some f
  | .frcp f => some f
  | .frsq f => some f
  | .fsqrt f => some f
  | .fexp2 f => some f
  | .flog2 f => some f
  | .fsin f => some f
  | .fcos f => some f
  | .ftanh f => some f
  | .fdiv f => some f
  | .hadd2 f => some f
  | .hmul2 f => some f
  | .hfma2 f => some f
  | .hdot2 f => some f
  | .fclass f => some f
  | .frnd f => some f
  | .cvti f => some f
  | .cvtf f => some f
  | .qt8 f => some f
  | .qt6 f => some f
  | .dqt8 f => some f
  | .dqt6 f => some f
  | .amax f => some f
  | .fgete f => some f
  | .pack f => some f
  | .unpk f => some f
  | .ld f => some f
  | .st f => some f
  | .lds f => some f
  | .sts f => some f
  | .ldp f => some f
  | .stp f => some f
  | .atom f => some f
  | .acas f => some f
  | .red f => some f
  | .fence f => some f
  | .cinv f => some f
  | .cwb f => some f
  | .txb f => some f
  | .txc f => some f
  | .txa f => some f
  | .txs f => some f
  | .prefm f => some f
  | .spmk f => some f
  | .spwt f => some f
  | .mma f => some f
  | .mmas f => some f
  | .mrsc f => some f
  | .accrd f => some f
  | .accwr f => some f
  | .accz f => some f
  | .wmark f => some f
  | .mwait f => some f
  | .cpyt f => some f
  | .cpyl f => some f
  | .cpym f => some f
  | .kick f => some f
  | .cwait f => some f
  | .binit f => some f
  | .barr f => some f
  | .bwait f => some f
  | .coll f => some f
  | .fopen f => some f
  | .fadv f => some f
  | .fseek f => some f
  | .ftest f => some f
  | .fget f => some f
  | .fclose f => some f
  | .sopen f => some f
  | .snext f => some f
  | .stest f => some f
  | .sclose f => some f
  | _ => none

/-- The major opcode of an instruction (Table 6-5); an event has none. -/
def Instr.opcode : Instr → Option (BitVec 8)
  | .iadd _ => some 0x01#8
  | .isub _ => some 0x02#8
  | .imul _ => some 0x03#8
  | .imad _ => some 0x04#8
  | .idiv _ => some 0x05#8
  | .irem _ => some 0x06#8
  | .imin _ => some 0x07#8
  | .imax _ => some 0x08#8
  | .iabs _ => some 0x09#8
  | .lea _ => some 0x0A#8
  | .shl _ => some 0x0B#8
  | .shr _ => some 0x0C#8
  | .rot _ => some 0x0D#8
  | .lop3 _ => some 0x0E#8
  | .bfx _ => some 0x0F#8
  | .bfi _ => some 0x10#8
  | .popc _ => some 0x11#8
  | .clz _ => some 0x12#8
  | .brev _ => some 0x13#8
  | .bytep _ => some 0x14#8
  | .sel _ => some 0x15#8
  | .mov _ => some 0x16#8
  | .movi _ => some 0x17#8
  | .iaddc _ => some 0x18#8
  | .idp4 _ => some 0x19#8
  | .icmp _ => some 0x20#8
  | .fcmp _ => some 0x21#8
  | .plop _ => some 0x22#8
  | .p2g _ => some 0x23#8
  | .g2p _ => some 0x24#8
  | .vote _ => some 0x25#8
  | .shfl _ => some 0x26#8
  | .matchLanes _ => some 0x27#8
  | .elect _ => some 0x28#8
  | .bred _ => some 0x29#8
  | .bscan _ => some 0x2A#8
  | .fbred _ => some 0x2B#8
  | .meld _ => some 0x2C#8
  | .barc _ => some 0x2D#8
  | .nop _ => some 0x40#8
  | .bra _ => some 0x41#8
  | .brx _ => some 0x42#8
  | .call _ => some 0x43#8
  | .ret _ => some 0x44#8
  | .exit _ => some 0x45#8
  | .yield _ => some 0x46#8
  | .waita _ => some 0x47#8
  | .sleep _ => some 0x48#8
  | .trap _ => some 0x49#8
  | .brk _ => some 0x51#8
  | .gets _ => some 0x4A#8
  | .sets _ => some 0x4B#8
  | .draw _ => some 0x4C#8
  | .append _ => some 0x4D#8
  | .retire _ => some 0x4E#8
  | .bndset _ => some 0x4F#8
  | .nestq _ => some 0x50#8
  | .fadd _ => some 0x60#8
  | .fmul _ => some 0x61#8
  | .ffma _ => some 0x62#8
  | .fmin _ => some 0x63#8
  | .fmax _ => some 0x64#8
  | .frcp _ => some 0x65#8
  | .frsq _ => some 0x66#8
  | .fsqrt _ => some 0x67#8
  | .fexp2 _ => some 0x68#8
  | .flog2 _ => some 0x69#8
  | .fsin _ => some 0x6A#8
  | .fcos _ => some 0x6B#8
  | .ftanh _ => some 0x6C#8
  | .fdiv _ => some 0x6D#8
  | .hadd2 _ => some 0x6E#8
  | .hmul2 _ => some 0x6F#8
  | .hfma2 _ => some 0x70#8
  | .hdot2 _ => some 0x71#8
  | .fclass _ => some 0x72#8
  | .frnd _ => some 0x73#8
  | .cvti _ => some 0x80#8
  | .cvtf _ => some 0x81#8
  | .qt8 _ => some 0x82#8
  | .qt6 _ => some 0x83#8
  | .dqt8 _ => some 0x84#8
  | .dqt6 _ => some 0x85#8
  | .amax _ => some 0x86#8
  | .fgete _ => some 0x87#8
  | .pack _ => some 0x88#8
  | .unpk _ => some 0x89#8
  | .ld _ => some 0xA0#8
  | .st _ => some 0xA1#8
  | .lds _ => some 0xA2#8
  | .sts _ => some 0xA3#8
  | .ldp _ => some 0xA4#8
  | .stp _ => some 0xA5#8
  | .atom _ => some 0xA6#8
  | .acas _ => some 0xA7#8
  | .red _ => some 0xA8#8
  | .fence _ => some 0xA9#8
  | .cinv _ => some 0xAA#8
  | .cwb _ => some 0xAB#8
  | .txb _ => some 0xAC#8
  | .txc _ => some 0xAD#8
  | .txa _ => some 0xAE#8
  | .txs _ => some 0xAF#8
  | .prefm _ => some 0xB0#8
  | .spmk _ => some 0xB1#8
  | .spwt _ => some 0xB2#8
  | .mma _ => some 0xC0#8
  | .mmas _ => some 0xC1#8
  | .mrsc _ => some 0xC2#8
  | .accrd _ => some 0xC3#8
  | .accwr _ => some 0xC4#8
  | .accz _ => some 0xC5#8
  | .wmark _ => some 0xC6#8
  | .mwait _ => some 0xC7#8
  | .cpyt _ => some 0xE0#8
  | .cpyl _ => some 0xE1#8
  | .cpym _ => some 0xE2#8
  | .kick _ => some 0xE3#8
  | .cwait _ => some 0xE4#8
  | .binit _ => some 0xE5#8
  | .barr _ => some 0xE6#8
  | .bwait _ => some 0xE7#8
  | .coll _ => some 0xE8#8
  | .fopen _ => some 0xE9#8
  | .fadv _ => some 0xEA#8
  | .fseek _ => some 0xEB#8
  | .ftest _ => some 0xEC#8
  | .fget _ => some 0xED#8
  | .fclose _ => some 0xEE#8
  | .sopen _ => some 0xEF#8
  | .snext _ => some 0xF0#8
  | .stest _ => some 0xF1#8
  | .sclose _ => some 0xF2#8
  | _ => none

/-- The instruction of a major opcode; an unassigned value names none (Table 6-5). -/
def Instr.ofOpcode (op : BitVec 8) (f : Fields) : Option Instr :=
  match op with
  | 0x01#8 => some (.iadd f)
  | 0x02#8 => some (.isub f)
  | 0x03#8 => some (.imul f)
  | 0x04#8 => some (.imad f)
  | 0x05#8 => some (.idiv f)
  | 0x06#8 => some (.irem f)
  | 0x07#8 => some (.imin f)
  | 0x08#8 => some (.imax f)
  | 0x09#8 => some (.iabs f)
  | 0x0A#8 => some (.lea f)
  | 0x0B#8 => some (.shl f)
  | 0x0C#8 => some (.shr f)
  | 0x0D#8 => some (.rot f)
  | 0x0E#8 => some (.lop3 f)
  | 0x0F#8 => some (.bfx f)
  | 0x10#8 => some (.bfi f)
  | 0x11#8 => some (.popc f)
  | 0x12#8 => some (.clz f)
  | 0x13#8 => some (.brev f)
  | 0x14#8 => some (.bytep f)
  | 0x15#8 => some (.sel f)
  | 0x16#8 => some (.mov f)
  | 0x17#8 => some (.movi f)
  | 0x18#8 => some (.iaddc f)
  | 0x19#8 => some (.idp4 f)
  | 0x20#8 => some (.icmp f)
  | 0x21#8 => some (.fcmp f)
  | 0x22#8 => some (.plop f)
  | 0x23#8 => some (.p2g f)
  | 0x24#8 => some (.g2p f)
  | 0x25#8 => some (.vote f)
  | 0x26#8 => some (.shfl f)
  | 0x27#8 => some (.matchLanes f)
  | 0x28#8 => some (.elect f)
  | 0x29#8 => some (.bred f)
  | 0x2A#8 => some (.bscan f)
  | 0x2B#8 => some (.fbred f)
  | 0x2C#8 => some (.meld f)
  | 0x2D#8 => some (.barc f)
  | 0x40#8 => some (.nop f)
  | 0x41#8 => some (.bra f)
  | 0x42#8 => some (.brx f)
  | 0x43#8 => some (.call f)
  | 0x44#8 => some (.ret f)
  | 0x45#8 => some (.exit f)
  | 0x46#8 => some (.yield f)
  | 0x47#8 => some (.waita f)
  | 0x48#8 => some (.sleep f)
  | 0x49#8 => some (.trap f)
  | 0x51#8 => some (.brk f)
  | 0x4A#8 => some (.gets f)
  | 0x4B#8 => some (.sets f)
  | 0x4C#8 => some (.draw f)
  | 0x4D#8 => some (.append f)
  | 0x4E#8 => some (.retire f)
  | 0x4F#8 => some (.bndset f)
  | 0x50#8 => some (.nestq f)
  | 0x60#8 => some (.fadd f)
  | 0x61#8 => some (.fmul f)
  | 0x62#8 => some (.ffma f)
  | 0x63#8 => some (.fmin f)
  | 0x64#8 => some (.fmax f)
  | 0x65#8 => some (.frcp f)
  | 0x66#8 => some (.frsq f)
  | 0x67#8 => some (.fsqrt f)
  | 0x68#8 => some (.fexp2 f)
  | 0x69#8 => some (.flog2 f)
  | 0x6A#8 => some (.fsin f)
  | 0x6B#8 => some (.fcos f)
  | 0x6C#8 => some (.ftanh f)
  | 0x6D#8 => some (.fdiv f)
  | 0x6E#8 => some (.hadd2 f)
  | 0x6F#8 => some (.hmul2 f)
  | 0x70#8 => some (.hfma2 f)
  | 0x71#8 => some (.hdot2 f)
  | 0x72#8 => some (.fclass f)
  | 0x73#8 => some (.frnd f)
  | 0x80#8 => some (.cvti f)
  | 0x81#8 => some (.cvtf f)
  | 0x82#8 => some (.qt8 f)
  | 0x83#8 => some (.qt6 f)
  | 0x84#8 => some (.dqt8 f)
  | 0x85#8 => some (.dqt6 f)
  | 0x86#8 => some (.amax f)
  | 0x87#8 => some (.fgete f)
  | 0x88#8 => some (.pack f)
  | 0x89#8 => some (.unpk f)
  | 0xA0#8 => some (.ld f)
  | 0xA1#8 => some (.st f)
  | 0xA2#8 => some (.lds f)
  | 0xA3#8 => some (.sts f)
  | 0xA4#8 => some (.ldp f)
  | 0xA5#8 => some (.stp f)
  | 0xA6#8 => some (.atom f)
  | 0xA7#8 => some (.acas f)
  | 0xA8#8 => some (.red f)
  | 0xA9#8 => some (.fence f)
  | 0xAA#8 => some (.cinv f)
  | 0xAB#8 => some (.cwb f)
  | 0xAC#8 => some (.txb f)
  | 0xAD#8 => some (.txc f)
  | 0xAE#8 => some (.txa f)
  | 0xAF#8 => some (.txs f)
  | 0xB0#8 => some (.prefm f)
  | 0xB1#8 => some (.spmk f)
  | 0xB2#8 => some (.spwt f)
  | 0xC0#8 => some (.mma f)
  | 0xC1#8 => some (.mmas f)
  | 0xC2#8 => some (.mrsc f)
  | 0xC3#8 => some (.accrd f)
  | 0xC4#8 => some (.accwr f)
  | 0xC5#8 => some (.accz f)
  | 0xC6#8 => some (.wmark f)
  | 0xC7#8 => some (.mwait f)
  | 0xE0#8 => some (.cpyt f)
  | 0xE1#8 => some (.cpyl f)
  | 0xE2#8 => some (.cpym f)
  | 0xE3#8 => some (.kick f)
  | 0xE4#8 => some (.cwait f)
  | 0xE5#8 => some (.binit f)
  | 0xE6#8 => some (.barr f)
  | 0xE7#8 => some (.bwait f)
  | 0xE8#8 => some (.coll f)
  | 0xE9#8 => some (.fopen f)
  | 0xEA#8 => some (.fadv f)
  | 0xEB#8 => some (.fseek f)
  | 0xEC#8 => some (.ftest f)
  | 0xED#8 => some (.fget f)
  | 0xEE#8 => some (.fclose f)
  | 0xEF#8 => some (.sopen f)
  | 0xF0#8 => some (.snext f)
  | 0xF1#8 => some (.stest f)
  | 0xF2#8 => some (.sclose f)
  | _ => none

/-- The encoding row of an instruction, at its own fields. An event has no encoding. -/
def Instr.shape : Instr → Option Shape
  | .iadd f => some { lens := [.l64, .l96], ext := .b, d := .byTy f.ty, a := .byTy f.ty, b := .byTy f.ty, tys := intTys, fnOk := fnLe f 1, scOk := plainSc f, rmOk := f.rm == 0, xOk := f.x == 0 }
  | .isub f => some { lens := [.l64, .l96], ext := .b, d := .byTy f.ty, a := .byTy f.ty, b := .byTy f.ty, tys := intTys, fnOk := fnLe f 1, scOk := plainSc f, rmOk := f.rm == 0, xOk := f.x == 0 }
  | .imul f => some { lens := [.l64, .l96], ext := .b, d := if f.fn == 2 then .pair else .byTy f.ty, a := .byTy f.ty, b := .byTy f.ty, tys := if f.fn == 2 then [.s32, .z32] else intTys, fnOk := fnLe f 2, scOk := plainSc f, rmOk := f.rm == 0, xOk := f.x == 0 }
  | .imad f => some { lens := [.l64, .l96], ext := .c, d := if f.fn == 2 then .pair else .byTy f.ty, a := .byTy f.ty, b := .byTy f.ty, c := if f.fn == 2 then .pair else .byTy f.ty, tys := if f.fn == 2 then [.s32, .z32] else intTys, fnOk := fnLe f 2, scOk := plainSc f, rmOk := f.rm == 0, xOk := f.x == 0 }
  | .idiv f => some { lens := [.l64, .l96], ext := .b, d := .byTy f.ty, a := .byTy f.ty, b := .byTy f.ty, tys := intTys, fnOk := fnLe f 0, scOk := plainSc f, rmOk := f.rm == 0, xOk := f.x == 0 }
  | .irem f => some { lens := [.l64, .l96], ext := .b, d := .byTy f.ty, a := .byTy f.ty, b := .byTy f.ty, tys := intTys, fnOk := fnLe f 0, scOk := plainSc f, rmOk := f.rm == 0, xOk := f.x == 0 }
  | .imin f => some { lens := [.l64, .l96], ext := .b, d := .byTy f.ty, a := .byTy f.ty, b := .byTy f.ty, tys := intTys, fnOk := fnLe f 0, scOk := plainSc f, rmOk := f.rm == 0, xOk := f.x == 0 }
  | .imax f => some { lens := [.l64, .l96], ext := .b, d := .byTy f.ty, a := .byTy f.ty, b := .byTy f.ty, tys := intTys, fnOk := fnLe f 0, scOk := plainSc f, rmOk := f.rm == 0, xOk := f.x == 0 }
  | .iabs f => some { lens := [.l64], d := .byTy f.ty, a := .byTy f.ty, tys := [.s32, .s64], fnOk := fnLe f 1, scOk := plainSc f, rmOk := f.rm == 0, xOk := f.x == 0 }
  | .lea f => some { lens := [.l64, .l96], ext := .b, d := .pair, a := .pair, b := .reg, tys := [.s32, .z32], fnOk := fnMask f 0x07, scOk := plainSc f, rmOk := f.rm == 0, xOk := f.x == 0 }
  | .shl f => some { lens := [.l64, .l96], ext := .b, d := .byTy f.ty, a := .byTy f.ty, b := .reg, tys := [.b32, .s32, .z32, .b64, .s64, .z64], fnOk := fnLe f 0, scOk := plainSc f, rmOk := f.rm == 0, xOk := f.x == 0 }
  | .shr f => some { lens := [.l64, .l96], ext := .b, d := .byTy f.ty, a := .byTy f.ty, b := .reg, tys := [.b32, .s32, .z32, .b64, .s64, .z64], fnOk := fnLe f 0, scOk := plainSc f, rmOk := f.rm == 0, xOk := f.x == 0 }
  | .rot f => some { lens := [.l64, .l96], ext := .b, d := .byTy f.ty, a := .byTy f.ty, b := .reg, tys := bitTys, fnOk := fnLe f 1, scOk := plainSc f, rmOk := f.rm == 0, xOk := f.x == 0 }
  | .lop3 f => some { lens := [.l64, .l96], ext := .c, d := .byTy f.ty, a := .byTy f.ty, b := .byTy f.ty, c := .byTy f.ty, tys := bitTys, fnOk := true, scOk := plainSc f, rmOk := f.rm == 0, xOk := f.x == 0 }
  | .bfx f => some { lens := [.l64, .l96], ext := .b, d := .byTy f.ty, a := .byTy f.ty, b := .reg, tys := intTys, fnOk := fnLe f 0, scOk := plainSc f, rmOk := f.rm == 0, xOk := f.x == 0 }
  | .bfi f => some { lens := [.l64, .l96], ext := .c, d := .byTy f.ty, a := .byTy f.ty, b := .reg, c := .byTy f.ty, tys := bitTys, fnOk := fnLe f 0, scOk := plainSc f, rmOk := f.rm == 0, xOk := f.x == 0 }
  | .popc f => some { lens := [.l64], d := .reg, a := .byTy f.ty, tys := bitTys, fnOk := fnLe f 0, scOk := plainSc f, rmOk := f.rm == 0, xOk := f.x == 0 }
  | .clz f => some { lens := [.l64], d := .reg, a := .byTy f.ty, tys := bitTys, fnOk := fnLe f 0, scOk := plainSc f, rmOk := f.rm == 0, xOk := f.x == 0 }
  | .brev f => some { lens := [.l64], d := .byTy f.ty, a := .byTy f.ty, tys := bitTys, fnOk := fnLe f 0, scOk := plainSc f, rmOk := f.rm == 0, xOk := f.x == 0 }
  | .bytep f => some { lens := [.l64, .l96], ext := .c, d := .reg, a := .reg, b := .reg, c := .reg, tys := [.b32], fnOk := fnLe f 0, scOk := plainSc f, rmOk := f.rm == 0, xOk := f.x == 0 }
  | .sel f => some { lens := [.l64, .l96], ext := .b, d := .byTy f.ty, a := .byTy f.ty, b := .byTy f.ty, tys := bitTys, fnOk := fnMask f 0x0F, scOk := plainSc f, rmOk := f.rm == 0, xOk := f.x == 0 }
  | .mov f => some { lens := [.l64], d := .byTy f.ty, a := .byTy f.ty, tys := bitTys, fnOk := fnLe f 0, scOk := plainSc f, rmOk := f.rm == 0, xOk := f.x == 0 }
  | .movi f => some { lens := if f.ty == .b32 then [.l96] else [.l96, .l128], d := .byTy f.ty, tys := [.b32, .z64, .b64], fnOk := fnLe f 0, scOk := plainSc f, rmOk := f.rm == 0, xOk := f.x == 0 }
  | .iaddc f => some { lens := [.l64, .l96], ext := .b, d := .byTy f.ty, a := .byTy f.ty, b := .byTy f.ty, tys := [.z32, .z64], fnOk := fnMask f 0x7F, scOk := plainSc f, rmOk := f.rm == 0, xOk := f.x == 0 }
  | .idp4 f => some { lens := [.l64, .l96], ext := .c, d := .reg, a := .reg, b := .reg, c := .reg, tys := [.s32, .z32], fnOk := fnMask f 0x07, scOk := plainSc f, rmOk := f.rm == 0, xOk := f.x == 0 }
  | .icmp f => some { lens := [.l64, .l96], ext := .b, d := .pdst, a := .byTy f.ty, b := .byTy f.ty, tys := if (f.fn.extractLsb' 0 4).toNat ≤ 1 then intTys ++ bitTys else intTys, fnOk := decide ((f.fn.extractLsb' 0 4).toNat ≤ 5), scOk := plainSc f, rmOk := f.rm == 0, xOk := f.x != 0 || fnMask f 0x0F }
  | .fcmp f => some { lens := [.l64, .l96], ext := .b, d := .pdst, a := .reg, b := .reg, tys := floatTys, fnOk := decide ((f.fn.extractLsb' 0 4).toNat ≤ 13), scOk := plainSc f, rmOk := f.rm == 0, xOk := f.x != 0 || fnMask f 0x0F, extOk := imm16Ok f.ty f.ext }
  | .plop f => some { lens := [.l64], d := .pdst, a := .pidx, b := .pidx, c := .pidx, fnOk := true, scOk := plainSc f, rmOk := f.rm == 0, xOk := f.x == 0 }
  | .p2g f => some { lens := [.l64], d := .reg, tys := [.b32], fnOk := fnLe f 0, scOk := plainSc f, rmOk := f.rm == 0, xOk := f.x == 0 }
  | .g2p f => some { lens := [.l64, .l96], ext := .b, a := .reg, b := .reg, tys := [.b32], fnOk := fnLe f 0, scOk := plainSc f, rmOk := f.rm == 0, xOk := f.x == 0 }
  | .vote f => some { lens := [.l64], d := if f.fn == 3 then .reg else .pdst, a := .psrc, fnOk := fnLe f 3, scOk := plainSc f, rmOk := f.rm == 0, xOk := f.x == 0 }
  | .shfl f => some { lens := [.l64, .l96], ext := .b, d := .byTy f.ty, a := .byTy f.ty, b := .reg, tys := bitTys, fnOk := fnMask f 0x1F && decide ((f.fn.extractLsb' 2 3).toNat ≤ 4), scOk := plainSc f, rmOk := f.rm == 0, xOk := f.x == 0 }
  | .matchLanes f => some { lens := [.l64], d := .reg, a := .byTy f.ty, tys := bitTys, fnOk := fnLe f 1, scOk := plainSc f, rmOk := f.rm == 0, xOk := f.x == 0 }
  | .elect f => some { lens := [.l64], d := .pdst, fnOk := fnLe f 0, scOk := plainSc f, rmOk := f.rm == 0, xOk := f.x == 0 }
  | .bred f => some { lens := [.l64], d := .byTy f.ty, a := .byTy f.ty, tys := if 3 ≤ f.fn.toNat then intTys ++ bitTys else intTys, fnOk := fnLe f 5, scOk := plainSc f, rmOk := f.rm == 0, xOk := f.x == 0 }
  | .bscan f => some { lens := [.l64], d := .byTy f.ty, a := .byTy f.ty, tys := if 3 ≤ (f.fn.extractLsb' 0 3).toNat then intTys ++ bitTys else intTys, fnOk := fnMask f 0x0F && decide ((f.fn.extractLsb' 0 3).toNat ≤ 5), scOk := plainSc f, rmOk := f.rm == 0, xOk := f.x == 0 }
  | .fbred f => some { lens := [.l64], d := .reg, a := .reg, tys := [.f32], fnOk := fnLe f 2, scOk := plainSc f, rmOk := f.rm == 0 || f.fn == 0, xOk := f.x == 0 }
  | .meld f => some { lens := [.l64], d := .reg, a := .reg, tys := [.z32], fnOk := fnLe f 0, scOk := plainSc f, rmOk := f.rm == 0, xOk := f.x == 0 }
  | .barc f => some { lens := [.l64], d := if f.fn == 1 then .reg else .unused, a := if f.fn == 1 then .psrc else .unused, fnOk := fnLe f 1, scOk := coreWith f 3, rmOk := true, xOk := f.x == 0 }
  | .nop f => some { lens := [.l64, .l96, .l128], fnOk := fnLe f 0, scOk := plainSc f, rmOk := f.rm == 0, xOk := f.x == 0, extOk := f.ext == .none || f.ext == .imm32 0 || f.ext == .imm64 0 }
  | .bra f => some { lens := [.l96], fnOk := fnLe f 0, scOk := plainSc f, rmOk := f.rm == 0, xOk := f.x == 0, extOk := immBranchOk f.ext }
  | .brx f => some { lens := [.l64], a := .pair, fnOk := fnLe f 0, scOk := plainSc f, rmOk := f.rm == 0, xOk := f.x == 0 }
  | .call f => some { lens := if f.fn == 0 then [.l96] else [.l64], d := .pair, a := if f.fn == 0 then .unused else .pair, fnOk := fnLe f 1, scOk := plainSc f, rmOk := f.rm == 0, xOk := f.x == 0, extOk := immBranchOk f.ext }
  | .ret f => some { lens := [.l64], a := .pair, fnOk := fnLe f 0, scOk := plainSc f, rmOk := f.rm == 0, xOk := f.x == 0 }
  | .exit f => some { lens := [.l64], fnOk := fnLe f 0, scOk := plainSc f, rmOk := f.rm == 0, xOk := f.x == 0 }
  | .yield f => some { lens := [.l64], fnOk := fnLe f 0, scOk := plainSc f, rmOk := f.rm == 0, xOk := f.x == 0 }
  | .waita f => some { lens := [.l64, .l96], d := .byTy f.ty, a := .pair, b := .byTy f.ty, tys := bitTys, fnOk := fnLe f 0, scOk := wideSc f, rmOk := f.rm == 0 || f.rm == 1, xOk := f.x == 0 }
  | .sleep f => some { lens := [.l64, .l96], ext := .a, a := .reg, tys := [.z32], fnOk := fnLe f 0, scOk := plainSc f, rmOk := f.rm == 0, xOk := f.x == 0 }
  | .trap f => some { lens := [.l96], fnOk := fnLe f 0, scOk := plainSc f, rmOk := f.rm == 0, xOk := f.x == 0, extOk := imm8Ok f.ext }
  | .brk f => some { lens := [.l64], fnOk := fnLe f 0, scOk := plainSc f, rmOk := f.rm == 0, xOk := f.x == 0 }
  | .gets f => some { lens := [.l64], d := if specialTy f.fn.toNat = some .b64 then .pair else .reg, tys := (specialTy f.fn.toNat).toList, fnOk := (specialTy f.fn.toNat).isSome, scOk := plainSc f, rmOk := f.rm == 0, xOk := f.x == 0 }
  | .sets f => some { lens := [.l64, .l96], ext := .a, a := .reg, tys := [.b32], fnOk := f.fn == 0x1C || f.fn == 0x1D, scOk := plainSc f, rmOk := f.rm == 0, xOk := f.x == 0 }
  | .draw f => some { lens := [.l64], d := .blk 8 8, fnOk := fnMask f 0x3F && (f.x == 1 || fnMask f 0x07), scOk := plainSc f, rmOk := f.rm == 0, xOk := f.x == 0 || f.x == 1 }
  | .append f => some { lens := [.l64], a := .blk 8 8, fnOk := fnMask f 0x07, scOk := plainSc f, rmOk := f.rm == 0, xOk := f.x == 0 }
  | .retire f => some { lens := [.l64], fnOk := fnLe f 0, scOk := plainSc f, rmOk := f.rm == 0, xOk := f.x == 0 }
  | .bndset f => some { lens := [.l64, .l96], ext := .a, a := .reg, tys := [.s32], fnOk := fnLe f 3, scOk := plainSc f, rmOk := f.rm == 0, xOk := f.x == 0 }
  | .nestq f => some { lens := [.l64, .l96], ext := .a, d := .pair, a := .reg, tys := [.b64], fnOk := fnLe f 4, scOk := plainSc f, rmOk := f.rm == 0, xOk := f.x == 0 }
  | .fadd f => some { lens := [.l64, .l96], ext := .b, d := .reg, a := .reg, b := .reg, tys := floatTys, fnOk := fnMask f 0x1B, scOk := plainSc f, rmOk := true, xOk := f.x == 0, extOk := imm16Ok f.ty f.ext }
  | .fmul f => some { lens := [.l64, .l96], ext := .b, d := .reg, a := .reg, b := .reg, tys := floatTys, fnOk := fnMask f 0x1B, scOk := plainSc f, rmOk := true, xOk := f.x == 0, extOk := imm16Ok f.ty f.ext }
  | .ffma f => some { lens := [.l64, .l96], ext := .c, d := .reg, a := .reg, b := .reg, c := .reg, tys := floatTys, fnOk := fnMask f 0x3F, scOk := plainSc f, rmOk := true, xOk := f.x == 0, extOk := imm16Ok f.ty f.ext }
  | .fmin f => some { lens := [.l64, .l96], ext := .b, d := .reg, a := .reg, b := .reg, tys := floatTys, fnOk := fnMask f 0x5B, scOk := plainSc f, rmOk := f.rm == 0, xOk := f.x == 0, extOk := imm16Ok f.ty f.ext }
  | .fmax f => some { lens := [.l64, .l96], ext := .b, d := .reg, a := .reg, b := .reg, tys := floatTys, fnOk := fnMask f 0x5B, scOk := plainSc f, rmOk := f.rm == 0, xOk := f.x == 0, extOk := imm16Ok f.ty f.ext }
  | .frcp f => some { lens := [.l64], d := .reg, a := .reg, tys := floatTys, fnOk := fnMask f 0x09, scOk := plainSc f, rmOk := f.rm == 0, xOk := f.x == 0 }
  | .frsq f => some { lens := [.l64], d := .reg, a := .reg, tys := floatTys, fnOk := fnMask f 0x09, scOk := plainSc f, rmOk := f.rm == 0, xOk := f.x == 0 }
  | .fsqrt f => some { lens := [.l64], d := .reg, a := .reg, tys := floatTys, fnOk := fnMask f 0x09, scOk := plainSc f, rmOk := true, xOk := f.x == 0 }
  | .fexp2 f => some { lens := [.l64], d := .reg, a := .reg, tys := floatTys, fnOk := fnMask f 0x09, scOk := plainSc f, rmOk := f.rm == 0, xOk := f.x == 0 }
  | .flog2 f => some { lens := [.l64], d := .reg, a := .reg, tys := floatTys, fnOk := fnMask f 0x09, scOk := plainSc f, rmOk := f.rm == 0, xOk := f.x == 0 }
  | .fsin f => some { lens := [.l64], d := .reg, a := .reg, tys := floatTys, fnOk := fnMask f 0x09, scOk := plainSc f, rmOk := f.rm == 0, xOk := f.x == 0 }
  | .fcos f => some { lens := [.l64], d := .reg, a := .reg, tys := floatTys, fnOk := fnMask f 0x09, scOk := plainSc f, rmOk := f.rm == 0, xOk := f.x == 0 }
  | .ftanh f => some { lens := [.l64], d := .reg, a := .reg, tys := floatTys, fnOk := fnMask f 0x09, scOk := plainSc f, rmOk := f.rm == 0, xOk := f.x == 0 }
  | .fdiv f => some { lens := [.l64, .l96], ext := .b, d := .reg, a := .reg, b := .reg, tys := floatTys, fnOk := fnMask f 0x1B, scOk := plainSc f, rmOk := true, xOk := f.x == 0, extOk := imm16Ok f.ty f.ext }
  | .hadd2 f => some { lens := [.l64, .l96], ext := .b, d := .reg, a := .reg, b := .reg, tys := [.f16, .bf16], fnOk := fnMask f 0x1B, scOk := plainSc f, rmOk := true, xOk := f.x == 0, extOk := imm16Ok f.ty f.ext }
  | .hmul2 f => some { lens := [.l64, .l96], ext := .b, d := .reg, a := .reg, b := .reg, tys := [.f16, .bf16], fnOk := fnMask f 0x1B, scOk := plainSc f, rmOk := true, xOk := f.x == 0, extOk := imm16Ok f.ty f.ext }
  | .hfma2 f => some { lens := [.l64, .l96], ext := .c, d := .reg, a := .reg, b := .reg, c := .reg, tys := [.f16, .bf16], fnOk := fnMask f 0x3F, scOk := plainSc f, rmOk := true, xOk := f.x == 0, extOk := imm16Ok f.ty f.ext }
  | .hdot2 f => some { lens := [.l64, .l96], ext := .c, d := .reg, a := .reg, b := .reg, c := .reg, tys := [.f16, .bf16], fnOk := fnMask f 0x3F, scOk := plainSc f, rmOk := true, xOk := f.x == 0 }
  | .fclass f => some { lens := [.l64], d := .reg, a := .reg, tys := floatTys, fnOk := fnLe f 0, scOk := plainSc f, rmOk := f.rm == 0, xOk := f.x == 0 }
  | .frnd f => some { lens := [.l64], d := .reg, a := .reg, tys := floatTys, fnOk := fnMask f 0x09, scOk := plainSc f, rmOk := true, xOk := f.x == 0 }
  | .cvti f => some { lens := [.l64], d := .byTy f.ty, a := .byTy (cvtSrc f), tys := [.s8, .z8, .s16, .z16, .s32, .z32, .s64, .z64], fnOk := decide (4 ≤ f.fn.toNat) && decide (f.fn.toNat ≤ 14), scOk := plainSc f, rmOk := f.rm == 0 || (cvtSrc f).isFloat, xOk := f.x == 0 || (f.x == 1 && !(cvtSrc f).isFloat) }
  | .cvtf f => some { lens := [.l64], d := .reg, a := .byTy (cvtSrc f), tys := floatTys, fnOk := decide (4 ≤ f.fn.toNat) && decide (f.fn.toNat ≤ 14) && cvtSrc f != f.ty, scOk := plainSc f, rmOk := true, xOk := f.x == 0 }
  | .qt8 f => some { lens := if f.x == 1 then [.l64] else [.l64, .l96], ext := .b, d := .reg, a := .reg, b := .reg, c := if f.x == 1 then .reg else .unused, tys := floatTys, fnOk := fnLe f 0, scOk := plainSc f, rmOk := f.rm == 0, xOk := f.x == 0 || f.x == 1, extOk := imm8Ok f.ext }
  | .qt6 f => some { lens := if f.x == 1 then [.l64] else [.l64, .l96], ext := .b, d := .reg, a := .reg, b := .reg, c := if f.x == 1 then .reg else .unused, tys := floatTys, fnOk := fnLe f 0, scOk := plainSc f, rmOk := f.rm == 0, xOk := f.x == 0 || f.x == 1, extOk := imm8Ok f.ext }
  | .dqt8 f => some { lens := [.l64, .l96], ext := .b, d := .reg, a := .reg, b := .reg, tys := floatTys, fnOk := fnMask f 0x03, scOk := plainSc f, rmOk := true, xOk := f.x == 0, extOk := imm8Ok f.ext }
  | .dqt6 f => some { lens := [.l64, .l96], ext := .b, d := .reg, a := .reg, b := .reg, tys := floatTys, fnOk := fnMask f 0x03, scOk := plainSc f, rmOk := true, xOk := f.x == 0, extOk := imm8Ok f.ext }
  | .amax f => some { lens := [.l64], d := .reg, a := .reg, b := .reg, tys := floatTys, fnOk := fnLe f 0, scOk := plainSc f, rmOk := f.rm == 0, xOk := f.x == 0 }
  | .fgete f => some { lens := [.l64], d := .reg, a := .reg, tys := floatTys, fnOk := fnLe f 1, scOk := plainSc f, rmOk := f.rm == 0, xOk := f.x == 0 }
  | .pack f => some { lens := [.l64], d := .reg, a := .reg, b := if f.fn == 0 then .reg else .unused, tys := if f.fn == 0 then [.f16, .bf16] else [.b32], fnOk := fnLe f 1, scOk := plainSc f, rmOk := f.rm == 0 || f.fn == 0, xOk := f.x == 0 }
  | .unpk f => some { lens := [.l64], d := if f.fn == 0 then .pair else .reg, a := .reg, tys := if f.fn == 0 then [.f16, .bf16] else [.b32], fnOk := fnLe f 1, scOk := plainSc f, rmOk := f.rm == 0, xOk := f.x == 0 }
  | .ld f => some { lens := [.l64, .l96], d := vecOpnd f.ty f.x, a := .pair, tys := loadTys, fnOk := fnLe f 2, scOk := scopeWith f 1, rmOk := true, xOk := vecXOk f }
  | .st f => some { lens := [.l64, .l96], a := .pair, b := vecOpnd f.ty f.x, tys := storeTys, fnOk := fnLe f 0, scOk := scopeWith f 2, rmOk := true, xOk := vecXOk f }
  | .lds f => some { lens := [.l64, .l96], d := vecOpnd f.ty f.x, a := .reg, tys := loadTys, fnOk := fnLe f 1, scOk := plainSc f, rmOk := f.rm == 0, xOk := vecXOk f }
  | .sts f => some { lens := [.l64, .l96], a := .reg, b := vecOpnd f.ty f.x, tys := storeTys, fnOk := fnLe f 1, scOk := plainSc f, rmOk := f.rm == 0, xOk := vecXOk f }
  | .ldp f => some { lens := [.l64, .l96], d := .byTy f.ty, a := .reg, tys := loadTys, fnOk := fnLe f 0, scOk := plainSc f, rmOk := f.rm == 0, xOk := f.x == 0 }
  | .stp f => some { lens := [.l64, .l96], a := .reg, b := .byTy f.ty, tys := storeTys, fnOk := fnLe f 0, scOk := plainSc f, rmOk := f.rm == 0, xOk := f.x == 0 }
  | .atom f => some { lens := [.l64, .l96], d := .byTy f.ty, a := .pair, b := .byTy f.ty, tys := [.b32, .b64, .s32, .z32, .s64, .z64, .f32], fnOk := atomOk f 6, scOk := f.sc != .none, rmOk := true, xOk := f.x == 0 }
  | .acas f => some { lens := [.l64, .l96], d := .byTy f.ty, a := .pair, b := .byTy f.ty, c := .byTy f.ty, tys := bitTys, fnOk := fnLe f 0, scOk := f.sc != .none, rmOk := true, xOk := f.x == 0 }
  | .red f => some { lens := [.l64, .l96], a := .pair, b := .byTy f.ty, tys := [.b32, .b64, .s32, .z32, .s64, .z64, .f32], fnOk := atomOk f 5, scOk := f.sc != .none, rmOk := f.rm == 0 || f.rm == 2, xOk := f.x == 0 }
  | .fence f => some { lens := [.l64], fnOk := fnLe f 0, scOk := f.sc != .none, rmOk := f.rm != 0, xOk := f.x == 0 }
  | .cinv f => some { lens := if f.fn == 0 then [.l64, .l96] else [.l64], a := if f.fn == 0 then .pair else .unused, fnOk := fnLe f 1, scOk := plainSc f, rmOk := f.rm == 0, xOk := f.x == 0 }
  | .cwb f => some { lens := if f.fn == 1 then [.l64, .l96] else [.l64], a := if f.fn == 1 then .pair else .unused, fnOk := fnLe f 1, scOk := plainSc f, rmOk := f.rm == 0, xOk := f.x == 0 }
  | .txb f => some { lens := [.l96], fnOk := fnLe f 1, scOk := plainSc f, rmOk := f.rm == 0, xOk := f.x == 0, extOk := immBranchOk f.ext }
  | .txc f => some { lens := [.l64], fnOk := fnLe f 0, scOk := plainSc f, rmOk := f.rm == 0, xOk := f.x == 0 }
  | .txa f => some { lens := [.l96], fnOk := fnLe f 0, scOk := plainSc f, rmOk := f.rm == 0, xOk := f.x == 0, extOk := imm8Ok f.ext }
  | .txs f => some { lens := [.l64], d := .reg, fnOk := fnLe f 0, scOk := plainSc f, rmOk := f.rm == 0, xOk := f.x == 0 }
  | .prefm f => some { lens := [.l64, .l96], a := .pair, fnOk := fnLe f 2, scOk := plainSc f, rmOk := f.rm == 0, xOk := f.x == 0 }
  | .spmk f => some { lens := [.l64, .l96], ext := .b, a := .reg, b := .reg, tys := [.z32], fnOk := fnLe f 1, scOk := plainSc f || (f.fn == 1 && f.sc == .core), rmOk := if f.sc == .none then f.rm == 0 else f.rm == 2, xOk := f.x == 0 }
  | .spwt f => some { lens := [.l64, .l96], ext := .b, a := .reg, b := .reg, tys := [.z32], fnOk := fnLe f 0, scOk := coreWith f 1, rmOk := true, xOk := f.x == 0 }
  | .mma f => some { lens := [.l64], a := .reg, b := if f.x.getLsbD 0 then .band else .pair, c := if f.x.getLsbD 1 then .band else .pair, fnOk := fnLe f 0, scOk := plainSc f, rmOk := f.rm == 0, xOk := true }
  | .mmas f => some { lens := [.l64], a := .reg, b := .pair, c := if f.x.getLsbD 1 then .band else .pair, fnOk := fnLe f 1, scOk := plainSc f, rmOk := f.rm == 0, xOk := !f.x.getLsbD 0 }
  | .mrsc f => some { lens := [.l64], a := .reg, b := .pair, c := .pair, fnOk := fnLe f 3, scOk := plainSc f, rmOk := f.rm == 0, xOk := f.x == 0 }
  | .accrd f => some { lens := [.l64, .l96], ext := .b, d := accOpnd f.x, a := .reg, b := .reg, tys := [.f32, .f16, .bf16], fnOk := fnLe f 0, scOk := plainSc f, rmOk := f.rm == 0 || f.ty != .f32, xOk := f.x != 3 }
  | .accwr f => some { lens := [.l64, .l96], ext := .c, a := .reg, b := accOpnd f.x, c := .reg, tys := [.f32, .f16, .bf16], fnOk := fnLe f 0, scOk := plainSc f, rmOk := f.rm == 0, xOk := f.x != 3 }
  | .accz f => some { lens := [.l64, .l96], ext := .b, a := .reg, b := .reg, fnOk := fnLe f 0, scOk := plainSc f, rmOk := f.rm == 0, xOk := f.x == 0 }
  | .wmark f => some { lens := [.l64], d := .reg, fnOk := fnLe f 3, scOk := plainSc f, rmOk := f.rm == 0, xOk := f.x == 0 }
  | .mwait f => some { lens := [.l64], fnOk := fnLe f 15 && f.fn != 0, scOk := plainSc f, rmOk := f.rm == 0, xOk := f.x == 0 }
  | .cpyt f => some { lens := [.l128], a := .pair, b := .reg, c := .reg, fnOk := fnMask f 0x0D && classOk (f.fn.extractLsb' 2 2), scOk := plainSc f, rmOk := f.rm == 0, xOk := f.x == 0 || (f.x == 1 && f.fn.getLsbD 0 == false), extOk := f.x == 1 || (match f.ext with | .imm64 v => v.extractLsb' 32 32 == 0 | _ => true) }
  | .cpyl f => some { lens := [.l96], a := if f.fn.extractLsb' 0 2 == 3 then .reg else .pair, b := if f.fn.extractLsb' 0 2 == 2 then .pair else .reg, c := .reg, tys := [.z32], fnOk := fnMask f 0x0F && classOk (f.fn.extractLsb' 2 2), scOk := plainSc f, rmOk := f.rm == 0, xOk := f.x == 0 }
  | .cpym f => some { lens := [.l96], a := .pair, b := .reg, c := .reg, tys := [.z32], fnOk := fnMask f 0x3F && f.fn.extractLsb' 0 4 != 0 && classOk (f.fn.extractLsb' 4 2), scOk := plainSc f, rmOk := f.rm == 0, xOk := f.x == 0 }
  | .kick f => some { lens := [.l64], a := .reg, fnOk := fnLe f 0, scOk := plainSc f, rmOk := f.rm == 0, xOk := f.x == 0 }
  | .cwait f => some { lens := [.l64, .l96], ext := .a, a := .reg, tys := [.z32], fnOk := fnLe f 0, scOk := scopeWith f 1, rmOk := true, xOk := f.x == 0 }
  | .binit f => some { lens := [.l64, .l96], ext := .b, a := .reg, b := .reg, tys := [.z32], fnOk := fnLe f 0, scOk := plainSc f, rmOk := f.rm == 0, xOk := f.x == 0 }
  | .barr f => some { lens := [.l64, .l96], ext := .b, a := .reg, b := .reg, tys := [.z32], fnOk := fnLe f 0, scOk := coreWith f 2, rmOk := true, xOk := f.x == 0 }
  | .bwait f => some { lens := [.l64, .l96], ext := .b, a := .reg, b := .reg, tys := [.z32], fnOk := fnLe f 0, scOk := coreWith f 1, rmOk := true, xOk := f.x == 0 }
  | .coll f => some { lens := [.l64], a := .reg, fnOk := fnLe f 0, scOk := wideSc f, rmOk := f.rm == 2, xOk := f.x == 0 }
  | .fopen f => some { lens := [.l64, .l96], a := .pair, c := .fib, fnOk := fnLe f 0, scOk := plainSc f, rmOk := f.rm == 0, xOk := f.x == 0 }
  | .fadv f => some { lens := [.l64, .l96], ext := .b, b := .reg, c := .fib, tys := [.z32], fnOk := fnLe f 0, scOk := plainSc f, rmOk := f.rm == 0, xOk := f.x == 0 }
  | .fseek f => some { lens := [.l64, .l96], ext := .b, b := .reg, c := .fib, tys := [.z32], fnOk := fnLe f 0, scOk := plainSc f, rmOk := f.rm == 0, xOk := f.x == 0 }
  | .ftest f => some { lens := [.l64], d := .pdst, c := .fib, fnOk := fnLe f 0, scOk := plainSc f, rmOk := f.rm == 0, xOk := f.x == 0 }
  | .fget f => some { lens := [.l64], d := .byTy f.ty, c := .fib, tys := if f.fn == 1 then bitTys else [.z32], fnOk := fnLe f 2, scOk := plainSc f, rmOk := f.rm == 0, xOk := f.x == 0 }
  | .fclose f => some { lens := [.l64], c := .fib, fnOk := fnLe f 0, scOk := plainSc f, rmOk := f.rm == 0, xOk := f.x == 0 }
  | .sopen f => some { lens := [.l64, .l96], a := .pair, c := .fib, fnOk := fnLe f 0, scOk := plainSc f, rmOk := f.rm == 0, xOk := f.x == 0 }
  | .snext f => some { lens := [.l64], d := .byTy f.ty, c := .fib, tys := if f.fn == 0 then loadTys else [.b64], fnOk := fnLe f 1, scOk := plainSc f, rmOk := f.rm == 0, xOk := f.x == 0 }
  | .stest f => some { lens := [.l64], d := .pdst, c := .fib, fnOk := fnLe f 0, scOk := plainSc f, rmOk := f.rm == 0, xOk := f.x == 0 }
  | .sclose f => some { lens := [.l64], c := .fib, fnOk := fnLe f 0, scOk := plainSc f, rmOk := f.rm == 0, xOk := f.x == 0 }
  | _ => none

/-- A register field holds what its operand allows (Table 6-6). -/
def Opnd.ok : Opnd → BitVec 7 → Bool
  | .unused, v => v == 0
  | .reg, _ => true
  | .pair, v => v == 127 || (v.toNat % 2 == 0 && v != 126)
  | .blk _ al, v => v.toNat % al == 0
  | .pdst, v => decide (v.toNat < 8)
  | .psrc, v => decide (v.toNat < 16)
  | .pidx, v => decide (v.toNat < 8)
  | .fib, v => decide (v.toNat < 4)
  | .band, _ => true

/-- The general registers that an operand names; `gz` is none (R87, R88). -/
def Opnd.regs : Opnd → BitVec 7 → List Nat
  | .reg, v => if v = 127 then [] else [v.toNat]
  | .band, v => if v = 127 then [] else [v.toNat]
  | .pair, v => if v = 127 then [] else [v.toNat, v.toNat + 1]
  | .blk n _, v => (List.range n).map (v.toNat + ·)
  | _, _ => []

/-- Whether a source field may carry an EW bit (R89). -/
def Opnd.ewOk : Opnd → Bool
  | .reg | .pair | .blk _ _ => true
  | _ => false

/-- The operand of a source field once an immediate may replace it (R90). -/
def Shape.src (s : Shape) (f : Fields) (which : ExtUse) (o : Opnd) : Opnd :=
  if s.ext = which ∧ f.ext ≠ .none then .unused else o

/-- Every field is one that the row accepts (R82, R93). -/
def Shape.ok (s : Shape) (f : Fields) : Bool :=
  s.lens.contains f.ext.len && s.tys.contains f.ty && s.fnOk && s.scOk && s.rmOk && s.xOk && s.extOk &&
  !(f.g.neg && f.g.pred == 7) &&
  s.d.ok f.d && (s.src f .a s.a).ok f.a && (s.src f .b s.b).ok f.b && (s.src f .c s.c).ok f.c &&
  (!f.ew.getLsbD 0 || (s.src f .a s.a).ewOk) && (!f.ew.getLsbD 1 || (s.src f .b s.b).ewOk) &&
  (!f.ew.getLsbD 2 || (s.src f .c s.c).ewOk)

/-- An instruction's words are an encoding of its row (R93). An event has no words and is no encoding. -/
def Instr.wellFormed (i : Instr) : Bool :=
  match i.fields, i.shape with
  | some f, some s => s.ok f
  | _, _ => false

/-- Every general register named lies below REGS (R22, R88). -/
def Instr.regsOk (regs : Nat) (i : Instr) : Bool :=
  match i.fields, i.shape with
  | some f, some s =>
    (s.d.regs f.d ++ (s.src f .a s.a).regs f.a ++ (s.src f .b s.b).regs f.b ++ (s.src f .c s.c).regs f.c).all
      (fun r => decide (r < regs))
  | _, _ => true

end Sys2Proof
end

