-- ==== Sys2Proof/Decode.lean ====
section
/-!
DEFINITION. From bytes to instructions and back (R81 to R93).

The decoder is total on any bytes. It refuses by name: FETCHALIGN where the instruction cannot lie whole
in the bytes left of its fetch block (R85), ILLEGAL for every other encoding of Table 6-6. The events of
the opcode table have no words: the decoder never answers one.
-/
namespace Sys2Proof

/-- The scope of an SC code; 6 and 7 are illegal (Table 6-3). -/
def Scope.ofCode : Nat → Option Scope
  | 0 => some .none | 1 => some .core | 2 => some .cluster
  | 3 => some .device | 4 => some .domain | 5 => some .system
  | _ => Option.none

/-- The SC code of a scope (Table 6-3). -/
def Scope.code : Scope → Nat
  | .none => 0 | .core => 1 | .cluster => 2 | .device => 3 | .domain => 4 | .system => 5

/-- The fields of a base word with its extension (Table 6-2). -/
def decodeFields (w : DWord) (ext : Ext) : Option Fields :=
  match Ty.ofCode (w.extractLsb' 53 4).toNat, Scope.ofCode (w.extractLsb' 57 3).toNat with
  | some ty, some sc => some {
      g := { neg := w.getLsbD 13, pred := w.extractLsb' 10 3 }
      d := w.extractLsb' 14 7
      a := w.extractLsb' 21 7
      b := w.extractLsb' 28 7
      c := w.extractLsb' 35 7
      ew := w.extractLsb' 42 3
      fn := w.extractLsb' 45 8
      ty := ty
      sc := sc
      rm := w.extractLsb' 60 2
      x := w.extractLsb' 62 2
      ext := ext }
  | _, _ => none

/-- The instruction of a base word and its extension, if the words are an encoding of its row (R93). -/
def decodeWord (w : DWord) (ext : Ext) : Option Instr :=
  match decodeFields w ext with
  | none => none
  | some f =>
    match Instr.ofOpcode (w.extractLsb' 2 8) f with
    | none => none
    | some i => if i.wellFormed then some i else none

/-- The low bytes of a list as a 64-bit word (R2). -/
def wordOf (bs : List Byte) : DWord := BitVec.ofNat 64 (leValue bs)

/-- Names an undecodable word ILLEGAL (Table 6-6). -/
def orIllegal : Option Instr → Except DecodeFault Instr
  | some i => .ok i
  | none => .error .illegal

/-- Decodes the instruction that begins at the head of `bs`, the bytes left of its fetch block. -/
def decode (bs : List Byte) : Except DecodeFault Instr :=
  if bs.length < 8 then .error .fetchAlign
  else
    let w := wordOf (bs.take 8)
    match (w.extractLsb' 0 2).toNat with
    | 0 => .error .illegal
    | 1 => orIllegal (decodeWord w .none)
    | 2 =>
      if bs.length < 12 then .error .fetchAlign
      else orIllegal (decodeWord w (.imm32 (BitVec.ofNat 32 (leValue ((bs.drop 8).take 4)))))
    | _ =>
      if bs.length < 16 then .error .fetchAlign
      else orIllegal (decodeWord w (.imm64 (wordOf ((bs.drop 8).take 8))))

/-- The length of an instruction in bytes (Table 6-1). -/
def Ext.bytes : Ext → Nat
  | .none => 8
  | .imm32 _ => 12
  | .imm64 _ => 16

/-- The length of an instruction in bytes; an event has none. -/
def Instr.bytes (i : Instr) : Nat :=
  match i.fields with
  | some f => f.ext.bytes
  | none => 0

/-- The LEN code of an extension (Table 6-1). -/
def Ext.lenCode : Ext → Nat
  | .none => 1
  | .imm32 _ => 2
  | .imm64 _ => 3

/-- The base word of an opcode and fields (Table 6-2). -/
def encodeBase (op : BitVec 8) (f : Fields) : DWord :=
  BitVec.ofNat 64
    (f.ext.lenCode + 2 ^ 2 * op.toNat + 2 ^ 10 * f.g.pred.toNat + 2 ^ 13 * f.g.neg.toNat
      + 2 ^ 14 * f.d.toNat + 2 ^ 21 * f.a.toNat + 2 ^ 28 * f.b.toNat + 2 ^ 35 * f.c.toNat
      + 2 ^ 42 * f.ew.toNat + 2 ^ 45 * f.fn.toNat + 2 ^ 53 * f.ty.code + 2 ^ 57 * f.sc.code
      + 2 ^ 60 * f.rm.toNat + 2 ^ 62 * f.x.toNat)

/-- The bytes of an extension (R81). -/
def Ext.encode : Ext → List Byte
  | .none => []
  | .imm32 v => leBytes 4 v.toNat
  | .imm64 v => leBytes 8 v.toNat

/-- The bytes of an instruction, from the tables of its encoding; an event has none. -/
def encode (i : Instr) : List Byte :=
  match i.opcode, i.fields with
  | some op, some f => leBytes 8 (encodeBase op f).toNat ++ f.ext.encode
  | _, _ => []

/-- The instruction that the decoder reads from an instruction whose bits are `w`, bit 0 the least
significant bit of the first word; the bits above `nbits` are zero. -/
def decodeTableWord (nbits w : Nat) : Option Instr :=
  match decode (leBytes 16 (w % 2 ^ nbits)) with
  | .ok i => some i
  | .error _ => none

end Sys2Proof
end

