-- ==== Sys2Proof/Config.lean ====
section
/-!
DEFINITION. What GW4 fixes (Table 1-2, R8, R9), and the values the manual leaves open.

An open value is an opaque constant: nothing can evaluate it, so whatever is proved holds for every value
of it. Where a fresh value is needed each time it is applied to `State.fresh`, which each use advances.
-/
namespace Sys2Proof.Config

/-- Clusters (R8). -/
def clusters : Nat := 96
/-- Cores (Table 1-2). -/
def cores : Nat := 384
/-- Thread slots of a core (Table 1-2). -/
def slots : Nat := 512
/-- General registers of a core's register file as R21 counts them. -/
def coreRegs : Nat := 65536
/-- Issue pipes of a core (R106). -/
def pipes : Nat := 4
/-- Crew contexts of a core (R21). -/
def contexts : Nat := 16
/-- Local memory of a core in bytes (R198). -/
def localBytes : Nat := 524288
/-- Accumulator rows of a core (R201). -/
def accRows : Nat := 256
/-- Copy-queue entries of a core (R241). -/
def copyEntries : Nat := 64
/-- Card-ring slots of a core (R241). -/
def ringSlots : Nat := 64
/-- Copy cards that run at once on a core (R243). -/
def copyRun : Nat := 8
/-- Lines of an L1 (R193). -/
def l1Lines : Nat := 1024
/-- Entries of a cluster TLB (R194). -/
def tlbEntries : Nat := 4096
/-- Rows of a frontier table, guaranteed rows, and the most a nest holds (R53). -/
def rows : Nat := 4096
def guaranteedRows : Nat := 32
def maxRows : Nat := 1024
/-- Nests of a partition (R53). -/
def nests : Nat := 32
/-- Entries of a deal queue (R63). -/
def dealEntries : Nat := 16384
/-- Places of a trump FIFO (R318). -/
def trumpFifo : Nat := 64
/-- Read and write granules of a thread, and of a core's pool (R307). -/
def txReads : Nat := 64
def txWrites : Nat := 32
def txPoolReads : Nat := 8192
def txPoolWrites : Nat := 4096
/-- HBM stacks (R8), shared-cache slices, and frames of 64 KiB (R196). -/
def hbmStacks : Nat := 12
def slices : Nat := 192
def hbmFrames : Nat := 11534336
/-- Stripes of a dirty-stripe table (R265). -/
def dirtyStripes : Nat := 256
/-- Card page requests outstanding in a function (R351). -/
def cardRequests : Nat := 256
/-- Fabric cycles of a timestamp tick, of a microsecond, and of an arithmetic cycle (R9). -/
def fabPerTick : Nat := 14
def fabPerUs : Nat := 1400
def fabPerCycle : Nat := 2

/-- FREE VALUE. The n-th value that the manual leaves indeterminate. -/
opaque freeWord : Nat → DWord
/-- FREE VALUE. The n-th choice that the manual leaves to the device. -/
opaque freeChoice : Nat → Nat
/-- IMPLEMENTATION. The most events of units between two issues while a thread is runnable (R110). -/
opaque issueWithin : Nat
/-- FREE VALUE. Fabric cycles that the n-th step takes. -/
opaque elapsed : Nat → Nat
/-- FREE VALUE. The sector that an error of the hardware damages in the n-th step, and by what its check value differs from
then on; 0 where there is none (R272). -/
opaque damage : Nat → Nat × Word
/-- FREE VALUE. The same for the check values of parity sectors, by stripe · 32 + sector (R272). -/
opaque damageParity : Nat → Nat × Word

/-- FREE VALUE. What a byte of local memory, a cell of the accumulator store and a private byte hold before
their crew has written them (R187, R198, R201), by the number of the crew and the place. -/
opaque freeLocal : Nat → Nat → BitVec 8
opaque freeAcc : Nat → Nat → Word
opaque freePriv : Nat → Nat → BitVec 8
/-- FREE VALUE. What a byte of memory that the device has overwritten in a format of its own holds (R62, R187, R348), by
the number of that overwriting and the address. -/
opaque freeVeil : Nat → Nat → BitVec 8

/-- IMPLEMENTATION. The sign of an exact sum of products that is zero (R229). -/
opaque zeroSumNeg : Bool

/-- The approximate functions (R178). -/
inductive Approx where
  | rcp | rsq | exp2 | log2 | sin | cos | tanh
  deriving DecidableEq, Repr

/-- FREE VALUE. The binary32 result of an approximate function inside its bound; the same for the same
operand bits at every time (R181). -/
opaque approx : Approx → Word → Word

/-- IMPLEMENTATION. The image that bytes of memory stand for: R361 names the fields of its header and not their places. -/
opaque imageOf : List (BitVec 8) → Image
/-- IMPLEMENTATION. SM3 digest of the boot ROM (R368). -/
opaque bootRomDigest : Nat
/-- IMPLEMENTATION. The certificate chain of slot 0 and its digest (R367). -/
opaque certificate : Nat
opaque certificateDigest : Nat
/-- IMPLEMENTATION. The signature of a complex over an answer (R368). -/
opaque signature : Nat → Nat → Nat
/-- IMPLEMENTATION. Flit buffers of a port, by class · 5 + set (R328, R329). -/
opaque flitBuffers : Nat → Nat
/-- IMPLEMENTATION. The range checksum a frame's CHECK field holds (R348). -/
opaque frameCheck : Nat → Word

end Sys2Proof.Config
end

