-- ==== Sys2Proof/Machine/State.lean ====
section
/-!
DEFINITION. The state of a GW4 device as plain data, and the state after reset.

Everything the spec gives the machine has one home here. Crews, threads, cards and accesses in flight carry
numbers of the model's own; registers of the BARs are held by their addresses, and a register that is not
listed holds its reset value (Machine/Registers.lean).
-/
namespace Sys2Proof.Machine
open Sys2Proof

/-- Ordering kinds of a page (R190). -/
inductive Pbmt where
  | pma | nc | io
  deriving DecidableEq, Repr, Inhabited

/-- The spaces of an access in flight (R185). -/
inductive Space where
  | global | localMem | ownWords | peer | accRows
  deriving DecidableEq, Repr, Inhabited

/-- A thread of a crew. -/
structure ThreadRef where
  crew : Nat
  tid : Nat
  deriving DecidableEq, Repr, Inhabited

/-- A fibre register (R214). -/
structure Fibre where
  idx : DWord
  val : DWord
  len : Word
  pos : Word
  isOpen : Bool
  deriving DecidableEq, Repr, Inhabited

/-- A stream register (R214). -/
structure Stream where
  base : DWord
  stride0 : Word
  count0 : Word
  stride1 : Word
  count1 : Word
  n : Nat
  isOpen : Bool
  deriving DecidableEq, Repr, Inhabited

/-- What a thread does (Table 7-1), with what it waits for. -/
inductive Status where
  | runnable
  | held
  | waiting
  /-- Held or waiting behind members of its issue of lower position, whose effects come first (R146, R205, R206, R212). -/
  | behind (isHeld : Bool) (tids : List Nat)
  /-- Waiting, with the number of the first card accepted after the instruction issued (R237). -/
  | waitingSince (id : Nat)
  /-- Runnable again after such a wait. -/
  | runnableSince (id : Nat)
  /-- SLEEP, until an arithmetic cycle (R140). -/
  | sleeping (wake : Nat)
  /-- WAITA on a word that equals `b`, and where the thread goes on (R141). -/
  | waita (va pa width : Nat) (b : DWord) (d : Nat) (acq : Scope) (next : Addr)
  /-- DRAW on a queue without an eligible entry, with its register block (R147). -/
  | drawing (queue d : Nat)
  /-- BNDSET sent and not yet acted on, and where the thread goes on (R149). -/
  | bndset (level : Nat) (value : Word) (next : Addr)
  /-- Queued for the trump (R302). -/
  | queued
  /-- At rendezvous at a collective, active or an inactive contributor (R111, R112). -/
  | rendezvous (i : Instr) (active : Bool)
  | exited
  deriving DecidableEq, Repr

/-- Transaction states of a thread (Table 17-1). -/
inductive TxState where
  | outside | transactional | queued | irrevocable
  deriving DecidableEq, Repr, Inhabited

/-- A thread's transaction (R302 to R317). Granules are numbered by physical address div 8. -/
structure Tx where
  state : TxState
  target : Addr
  reads : FMap (Option DWord)
  /-- Value and byte mask of each written granule. -/
  writes : FMap (Option (DWord × Byte))
  count : Nat
  mask : BitVec 9
  /-- The threads of the issue group in which this one executes TXC, by ascending position; none before TXC (R309). -/
  pact : List Nat
  /-- The commit has been prepared, its marks set and its writes still to be applied: when, and the successor of its TXC (R310). -/
  prepared : Option (Nat × Addr) := none
  deriving DecidableEq, Repr, Inhabited

/-- A thread (R87, R103). -/
structure Thread where
  pc : Addr
  pos : Nat
  regs : FMap Word
  /-- Registers that are empty; an unlisted one is full (R89). -/
  empty : FMap Bool
  preds : FMap Bool
  fibres : FMap Fibre
  streams : FMap Stream
  status : Status
  age : Nat
  retired : Bool
  /-- Unacknowledged PMA and IO stores, atomics and card stores (R287). -/
  unack : Nat
  /-- NC stores not yet acknowledged (R295). -/
  unackNc : Nat
  /-- Error marks, oldest first (R291). -/
  errs : List Cause
  txthr : Word
  dqsel : BitVec 2
  txcause : Word
  tx : Tx
  deriving DecidableEq, Repr

/-- A tile slot: the latest card accepted on it and the final rows counted (R232). -/
structure Tile where
  card : Option Nat
  mark : Nat
  deriving DecidableEq, Repr, Inhabited

/-- A fault or another reason to save a crew (R344). -/
structure SaveReq where
  /-- 1 page, 2 fault, 3 slice, 4 revoke, 5 thermal. -/
  kind : Nat
  cause : Cause
  /-- TRAP code, or the permissions a missing page needs (Table 19-5). -/
  code : Nat
  tid : Option Nat
  pc : Addr
  faddr : DWord
  /-- Threads that raised a fault in the reported issue (R354). -/
  faulters : List Nat
  /-- Where SKIP continues: the successor of the reported instruction (R354). -/
  next : Addr
  /-- A deferred fault (R390). -/
  deferred : Bool
  /-- Registers that SKIP makes full, holding zero: the destination of a read for which the thread waited (R390). -/
  dest : List Nat
  /-- The threads that wait for that read. -/
  zeroed : List Nat := []
  deriving DecidableEq, Repr

/-- The architectural header of a crew's frame (Table 19-3). -/
structure FrameInfo where
  state : Nat
  kind : Nat
  req : Option SaveReq
  gen : Byte
  /-- Only ABORT is accepted: the frame is poisoned or fails CHECK (R349). -/
  bad : Bool
  /-- Later faults held in the frame (R391). -/
  held : List SaveReq
  /-- The number under which the frame's regions were last written (R348). -/
  seed : Nat
  deriving DecidableEq, Repr, Inhabited

/-- An ACCRD on its way: what it reads, and the cards that hold its row pending as at issue (R235). -/
structure AccRead where
  row : Nat
  col : Nat
  ty : Ty
  rm : BitVec 2
  after : List Nat
  deriving DecidableEq, Repr

/-- A read in flight, or the replay packet of one (R204, R345). -/
structure Load where
  id : Nat
  who : ThreadRef
  space : Space
  va : Nat
  pa : Nat
  /-- Bytes of an element and elements (R203). -/
  width : Nat
  count : Nat
  d : Nat
  ty : Ty
  /-- 0 default, 1 `.last`, 2 `.home`, 3 `.last` at the home slice (R206, R319). -/
  form : Nat
  kind : Pbmt
  acq : Scope
  nowait : Bool
  /-- The old value of an atomic, or a peer's answer, once it is known. -/
  data : Option (List Byte)
  /-- The read is that of a value-returning atomic (R390). -/
  atomic : Bool
  /-- The read is a transaction's (R306). -/
  tx : Bool
  /-- The data were a poisoned sector's (R273). -/
  poison : Bool
  /-- A peer WAITA: the value that keeps the thread asleep (R141). -/
  cmp : Option DWord
  /-- The thread waits at its instruction for these bytes: a descriptor, or an index of FSEEK, on a peer page. -/
  sync : Bool
  acc : Option AccRead
  /-- Address of the access's instruction (R390). -/
  pc : Addr
  /-- The issue that made it; IO lanes of one instruction keep their order (R206). -/
  grp : Nat
  /-- Tag of a peer request (Table 18-2). -/
  tag : Option Nat
  /-- Fabric cycle at which a peer request was sent (R335). -/
  sent : Nat
  /-- Whether the bytes are indeterminate (R187), where the address alone does not say: a private word at its home slice. -/
  blur : Option Bool := none
  /-- The read is a fetch of another device's code (R190). -/
  code : Bool := false
  /-- The successor of an instruction that waits for the bytes (R390). -/
  next : Addr := 0
  deriving DecidableEq, Repr

/-- The stages of a write on its way (R205, R263, R264, R282). -/
inductive WStage where
  | issued | home | delta | applied
  deriving DecidableEq, Repr, Inhabited

/-- Whose write it is: a thread's, a thread's card's, or a unit's of a function. -/
inductive Writer where
  | thread (who : ThreadRef)
  | card (who : ThreadRef) (card : Nat)
  | packet (fn id : Nat)
  /-- A nest's completion write: its identifier, and the model's own number of the nest (R61). -/
  | completion (fn nest uid : Nat)
  | unit (fn : Nat)
  /-- A peer's request, by its rank and tag, with its FUNC and ADDR (R332, R333). -/
  | peer (src tag func addr : Nat)
  deriving DecidableEq, Repr

/-- An atomic operation on its way to its point of performance (R210 to R213). -/
structure AtomOp where
  /-- 0 to 6 of Table 12-4; 7 is ACAS. -/
  op : Nat
  ty : Ty
  b : DWord
  c : DWord
  /-- The destination register, none for RED. -/
  d : Option Nat
  acq : Scope
  deriving DecidableEq, Repr

/-- A write in flight. -/
structure Write where
  id : Nat
  by_ : Writer
  /-- Owner code under which it is checked (R195). -/
  owner : Nat
  space : Space
  va : Nat
  pa : Nat
  bytes : List Byte
  kind : Pbmt
  stage : WStage
  atom : Option AtomOp
  /-- Acknowledged before its parity delta (R300). -/
  lazy : Bool
  pc : Addr
  /-- The issue that made it (R206, R212). -/
  grp : Nat
  tag : Option Nat
  sent : Nat
  /-- The old value of a peer's atomic (R332). -/
  old : Option DWord
  /-- The core whose thread made it; its stores to one byte keep their order (R283, R285). -/
  core : Option Nat
  /-- Class of a unit's request (Table 15-2). -/
  cls : Nat := 0
  /-- The bit of LZCTL that covers it as it is issued, and whether that bit has been cleared since (R300, R301). -/
  lzbit : Nat := 0
  drain : Bool := false
  /-- The deadline stamp of its request, formed as it is issued (R276). -/
  stamp : BitVec 16 := 0
  /-- Its data came with the poison mark (R273). -/
  bad : Bool := false
  /-- The scope of an atomic's request (R210, R330). -/
  sc : Nat := 0
  deriving DecidableEq, Repr

/-- A parity delta sent and not yet applied (R263). -/
structure Delta where
  write : Nat
  stack : Nat
  stripe : Nat
  /-- Byte offset in the unit and the delta bytes. -/
  off : Nat
  bytes : List Byte
  pa : Nat
  lazy : Bool
  owner : Nat
  by_ : Writer
  /-- Class and stamp of its write (R276); the bit of LZCTL, and whether it has been cleared (R301). -/
  cls : Nat := 0
  stamp : BitVec 16 := 0
  lzbit : Nat := 0
  drain : Bool := false
  deriving DecidableEq, Repr

/-- A load whose crew has been saved since: its answer will be dropped (R345, R346). -/
structure Stray where
  id : Nat
  /-- Context, as core · 16 + context, and the tag that it carries. -/
  ctx : Nat
  gen : BitVec 4
  /-- Tag, time and place of a peer request. -/
  tag : Option Nat
  sent : Nat
  pa : Nat
  deriving DecidableEq, Repr

/-- A commit mark of a line (R310). -/
structure Mark where
  line : Nat
  who : ThreadRef
  write : Bool
  deriving DecidableEq, Repr

/-- A shared line of an L1 (R193), with its page and ordering kind. Dirty private lines are held as `Crew.own` and
`Crew.tags`. -/
structure L1Line where
  core : Nat
  vline : Nat
  vmid : Nat
  asid : Nat
  pline : Nat
  page : Nat
  psize : Nat
  kind : Pbmt
  /-- Valid bits of the four 32-byte sectors. -/
  valid : BitVec 4
  data : FMap Byte
  deriving DecidableEq, Repr

/-- The tag of a dirty private line that an L1 holds (R187, R193), with its page and ordering kind. -/
structure PrivTag where
  vmid : Nat
  asid : Nat
  pline : Nat
  page : Nat
  psize : Nat
  kind : Pbmt
  deriving DecidableEq, Repr

/-- A cluster TLB entry (R194): a page and its size, and the run of it, inside one frame, that the physical address and
the owner are of (R71). -/
structure TlbEntry where
  cluster : Nat
  vmid : Nat
  asid : Nat
  page : Nat
  psize : Nat
  va : Nat
  size : Nat
  pa : Nat
  r : Bool
  w : Bool
  x : Bool
  dirty : Bool
  kind : Pbmt
  owner : Nat
  deriving DecidableEq, Repr

/-- A fetch block that a core's instruction cache holds (R96). -/
structure IBlock where
  core : Nat
  va : Nat
  vmid : Nat
  asid : Nat
  bytes : List Byte
  deriving DecidableEq, Repr

/-- A level descriptor (Table 2-4). -/
structure Level where
  lo : Int
  hi : Int
  loc : List Int
  hic : List Int
  spread : Bool
  scope : Nat
  domain : Nat
  deriving DecidableEq, Repr, Inhabited

/-- A nest record as the front end copies it (Table 2-1). -/
structure NestRec where
  entry : Addr
  resident : Bool
  /-- Number of levels, and of walked levels. -/
  lvls : Nat
  walk : Nat
  dq : Nat
  prio : Nat
  threads : Nat
  regs : Nat
  priv : Nat
  localBytes : Nat
  accRows : Nat
  copies : Nat
  levels : List Level
  deps : List (List Int)
  args : DWord
  doneAddr : DWord
  doneVal : DWord
  deriving DecidableEq, Repr, Inhabited

/-- An installed nest (R53, R59). -/
structure Nest where
  /-- The model's own number of the nest. -/
  uid : Nat
  rcd : NestRec
  fn : Nat
  /-- Constant HI of each walked level, as raised (R59). -/
  hi : List Int
  /-- The opening pointer: tuples below it are opened or passed over; none once the only, empty tuple of a
  nest with one walked level is. -/
  ptr : Option (List Int)
  released : Nat
  retired : Nat
  forgone : Nat
  held : Nat
  queue : Nat
  /-- The completion write has been made (R61). -/
  finishing : Bool
  deriving DecidableEq, Repr

/-- A frontier row (Table 4-1). -/
structure Row where
  nest : Nat
  tuple : List Int
  lo : Int
  hi : Int
  wm : Nat
  done : BitVec 64
  issued : BitVec 64
  closed : Bool
  deriving DecidableEq, Repr

/-- A point as a point entry names it (Table 4-2). -/
structure PointEntry where
  coords : List Word
  nest : Nat
  place : Nat
  unit : Nat
  deriving DecidableEq, Repr, Inhabited

/-- An entry of a deal queue (R63); a queue lists its entries in the order of their insertion. -/
structure Entry where
  key : DWord
  /-- Draws that have passed the entry over since it was the smallest eligible one (R66). -/
  passed : Nat
  /-- A point entry, or a work entry. -/
  point : Option PointEntry
  payload : List DWord
  deriving DecidableEq, Repr

/-- The trump of a function's share (R318, R319). -/
structure Trump where
  holder : Option ThreadRef
  fifo : List ThreadRef
  lines : List Nat
  deriving DecidableEq, Repr, Inhabited

/-- A function's share of a walker (R62). -/
structure Walker where
  nests : FMap (Option Nest)
  rows : List Row
  queues : FMap (List Entry)
  relCount : Nat
  rrOpen : Nat
  rrRel : Nat
  trump : Trump
  /-- APPEND packets that wait on a deal queue: deal queue, front-end queue (R67). -/
  waits : List (Nat × Nat)
  deriving DecidableEq, Repr, Inhabited

/-- A read of another device's memory by a card or a COPY packet (R334, R335). -/
structure Ask where
  /-- The sector of a card's read, or the virtual address of a packet's. -/
  key : Nat
  pa : Nat
  width : Nat
  tag : Nat
  /-- Fabric cycle of the request. -/
  sent : Nat
  /-- The answer, once it is here. -/
  data : Option (List Byte)
  deriving DecidableEq, Repr

/-- A packet that has been read from its slot (R45, R46). -/
structure Packet where
  /-- The model's own number of the packet. -/
  id : Nat
  queue : Nat
  /-- Packet index (R40). -/
  idx : Word
  words : List DWord
  /-- STATUS of the queue that it was read for. -/
  block : DWord
  begun : Bool
  stalled : Bool
  /-- Bytes of a COPY that have been sent; 1 once a WAIT's comparison holds. -/
  copied : Nat
  /-- Nests that a FENCE waits for. -/
  nests : List Nat
  /-- The code that an access of the packet ended with (R49). -/
  code : Nat
  /-- The read of another device that a COPY waits for (R334). -/
  ask : Option Ask
  deriving DecidableEq, Repr

/-- An enabled queue (R38, R40, R43). -/
structure Queue where
  base : DWord
  status : DWord
  freeList : DWord
  prio : Nat
  logN : Nat
  logSlots : Nat
  segmented : Bool
  /-- Next packet index to read, and the kept PIDX. -/
  cidx : Word
  kept : Word
  /-- Base and size of the current segment, and the packet index at its first slot. -/
  seg : DWord
  segLog : Nat
  segFirst : Word
  flHead : Word
  flCap : Nat
  /-- A segment drained and not yet given back (R44). -/
  drained : Option DWord
  packets : List Packet
  /-- Nests installed since the enable (R47), by the model's own numbers. -/
  nests : List Nat
  deriving DecidableEq, Repr

/-- What the device keeps for a function beside its registers. -/
structure FuncSt where
  queues : FMap (Option Queue)
  /-- Packets that had begun when their queue was disabled (R38, R49). -/
  leftovers : List Packet
  /-- Packets that the disable command under way waits for (R37, R38). -/
  busyOn : List Nat
  /-- The queue whose packet began last (R46). -/
  lastQueue : Nat
  frHead : Word
  records : List (List Byte)
  written : Nat
  msiAt : Nat
  hotHead : Word
  hotDrops : Word
  /-- Open card page requests: the card of each (R351). -/
  cardReqs : FMap (Option Nat)
  share : Walker
  /-- The number under which the save area was last written (R62). -/
  shareSeed : Nat
  /-- The save area holds a share that a world switch has stored and none has restored since (R62, R358). -/
  shareHeld : Bool
  /-- COLL cards counted for each group (R337). -/
  collCount : FMap Nat
  deriving DecidableEq, Repr, Inhabited

/-- A partition: the running function, its entry of the slice table with the start and the length of its slice,
and the switch under way (R77, R78). -/
structure PartSt where
  running : Option Nat
  slice : Nat
  since : Nat
  len : Nat
  switching : Bool
  incoming : Option Nat
  deriving DecidableEq, Repr, Inhabited

/-- A cluster (R69, R72, R73). -/
structure ClusterSt where
  failed : Bool
  /-- The guaranteed number that a kitty cluster has taken over. -/
  takes : Option Nat
  lent : Option Nat
  revoking : Bool
  idle : Bool
  idleSince : Nat
  deriving DecidableEq, Repr, Inhabited

/-- A token bucket (R260). -/
structure Bucket where
  tok : Nat
  debt : Nat
  /-- TBCFG as of the last tick (R259). -/
  cfg : DWord
  deriving DecidableEq, Repr, Inhabited

/-- Job cards by what they do (Tables 13-2 and 14-1). -/
inductive CardKind where
  | linear | tensor | multicast | collective | mma | mmas | mrsc
  deriving DecidableEq, Repr, Inhabited

/-- A footprint range of local lines or accumulator rows of a crew (R244). -/
structure Range where
  rows : Bool
  crew : Nat
  first : Nat
  count : Nat
  deriving DecidableEq, Repr

/-- A layout record as read at issue (Table 14-5). -/
structure Layout where
  base : DWord
  swz : Nat
  esize : Nat
  dims : Nat
  fill : List Byte
  size : List Nat
  stride : List Int
  box : List Nat
  deriving DecidableEq, Repr, Inhabited

/-- Where an operand of a matrix card comes from (R225, R226). -/
inductive MatSrc where
  | scratch (core : Option Nat) (base rowPitch tilePitch rot : Nat)
  | band (rows : List (List Word))
  deriving DecidableEq, Repr

/-- A matrix card's parameters (Table 13-3) and operands. -/
structure MatPar where
  m : Nat
  n : Nat
  k : Nat
  etype : Nat
  scaled : Bool
  acc : Bool
  slot : Nat
  row : Nat
  col : Nat
  state : Nat
  ascale : Nat
  bscale : Nat
  metaAddr : Nat
  /-- Elements kept in each block of 128 under MMAS; 0 for a dense card. -/
  nz : Nat
  srcA : MatSrc
  srcB : MatSrc
  deriving DecidableEq, Repr

/-- A job card (R241, R242). -/
structure Card where
  id : Nat
  core : Nat
  who : ThreadRef
  fn : Nat
  kind : CardKind
  dir : Nat
  cls : Nat
  bar : Option Nat
  src : DWord
  dst : DWord
  bytes : Nat
  layout : Layout
  laddr : Nat
  sdst : Nat
  coords : List Int
  scales : Bool
  /-- Receivers of a multicast card (R253). -/
  receivers : List Nat
  op : Nat
  thresh : Nat
  count : Nat
  span : Nat
  result : DWord
  group : Nat
  inst : Nat
  scope : Scope
  mat : Option MatPar
  reads : List Range
  writes : List Range
  /-- Predecessors still in the ring (R243). -/
  preds : List Nat
  started : Bool
  startAt : Nat
  /-- Destination lines landed: crew and line, crew 0 standing for global memory. -/
  landed : List (Nat × Nat)
  finalRows : Nat
  paused : Bool
  /-- Page request that pauses it (R351). -/
  req : Option Nat
  /-- State row of an MRSC as read at start (R233). -/
  stRow : List Word
  /-- Address of the issuing instruction (R246). -/
  pc : Addr
  /-- Ranks of the members of a collective card's group (R336). -/
  ranks : List Nat
  /-- Lines of global memory whose stores have been sent; for a collective card 0 for DST and 1 for RESULT. -/
  sent : List Nat
  /-- Requests of 64 bytes that have passed the transfer units: writes or not, and the sector (R259). -/
  passed : List (Bool × Nat)
  /-- Its reads of other devices (R335). -/
  asks : List Ask
  /-- The page that pauses it: the permissions it needs, and the address (R246, R351). -/
  miss : Option (Nat × Nat)
  /-- Source bytes that a multicast has read, by their offset (R253). -/
  held : FMap (Option Byte)
  /-- First byte of each receiver's local reservation when the card was accepted (R253). -/
  bases : FMap Nat
  /-- It had started before its crew was saved (R258). -/
  resumes : Bool := false
  deriving DecidableEq, Repr

/-- A replay packet of a local line of a multicast receiver (R258): a unicast copy of the bytes of its card. -/
structure LineReplay where
  card : Card
  line : Nat
  deriving DecidableEq, Repr

/-- A crew, resident on a core or saved in its frame (R21, R344). -/
structure Crew where
  /-- Core and context while resident; none once saved. -/
  loc : Option (Nat × Nat)
  /-- The core on which the crew runs or last ran. -/
  ran : Nat
  fn : Nat
  part : Nat
  nest : Nat
  point : PointEntry
  rcd : NestRec
  threads : FMap (Option Thread)
  /-- Local bytes that the crew has written; another one is zero where `lzero` differs from `lclean`, else
  indeterminate (R198). -/
  lmem : FMap (Option Byte)
  lzero : FMap Bool
  /-- The crew started on a scrubbed local memory: `lzero` then lists the bytes that are not zero (R73). -/
  lclean : Bool
  marks : FMap Bool
  /-- Accumulator cells written, at row · 256 + column; another one is +0 where `rowZero` holds (R201, R236). -/
  acc : FMap (Option Word)
  rowZero : FMap Bool
  rowReset : FMap Bool
  tiles : FMap Tile
  /-- The thread slots of its core that it occupies (R21). -/
  slots : List Nat
  /-- Dirty private bytes in the L1 by their offset in the slot, the physical address of each, and the bytes that the
  crew has written and that lie in memory (R187). -/
  own : FMap (Option Byte)
  ownPa : FMap Nat
  backed : FMap Bool
  /-- The tags of its dirty private lines, by line of the slot. -/
  tags : FMap (Option PrivTag) := []
  privSlot : Option Nat
  /-- First byte of the local reservation in its core (R198). -/
  lbase : Nat
  frame : Nat
  save : Option SaveReq
  fst : FrameInfo
  replay : List Load
  lineReplay : List LineReplay
  cards : List Card
  /-- Fabric cycle of the first arrival at the open rendezvous of each band; key 32 is the crew's. -/
  rend : FMap (Option Nat)
  holdsPoint : Bool
  /-- Every thread has exited (R105). -/
  ended : Bool
  deriving DecidableEq, Repr

/-- A request at an HBM channel (R276, R277). -/
structure HbmReq where
  seq : Nat
  stack : Nat
  fn : Nat
  cls : Nat
  stamp : BitVec 16
  deriving DecidableEq, Repr

/-- A read of a sector on its way to the shared cache, with its class and stamp; it becomes a request at a channel where the
shared cache does not hold the sector (R276, log 109). -/
structure Want where
  fn : Nat
  pa : Nat
  cls : Nat
  stamp : BitVec 16
  deriving DecidableEq, Repr

/-- A Waldin port's link layer (R325, R328, R329). Classes and buffer sets are numbered as class · 5 + set. -/
structure Port where
  txNext : BitVec 12
  rxLast : BitVec 12
  peerAck : BitVec 12
  nak : Bool
  /-- Packets that wait for credits, by class and buffer set; SEQ, ACK, NAK and CRC of their flits are set as they leave. -/
  queue : FMap (List (List Flit))
  /-- Flits sent and not yet acknowledged. -/
  replay : List Flit
  /-- Received flits, by class and buffer set; the set of the packet whose flits are arriving, and how many are to come. -/
  rx : FMap (List Flit)
  rxSet : Nat
  rxLeft : Nat
  /-- Credits held, and buffers freed since the last IDLE flit. -/
  credits : FMap Nat
  owed : FMap Nat
  /-- The flits that have left the port, first to last. -/
  wire : List Flit
  retired : Byte
  retraining : Bool
  deriving DecidableEq, Repr, Inhabited

/-- A collective instance this device has joined (R337). -/
structure CollInst where
  fn : Nat
  group : Nat
  inst : Nat
  /-- The card of this device, once it has started. -/
  card : Option Nat
  shares : FMap (Option Contribution)
  startAt : Nat
  /-- A member did not join in time. -/
  late : Bool
  deriving DecidableEq, Repr

/-- An answer the device sends to a peer (Table 18-3). -/
inductive PeerAnswer where
  | readRsp (dst tag addr : Nat) (data : List Byte) (poison : Bool)
  | writeAck (dst tag : Nat)
  /-- An atomic's old value of `width` bytes. -/
  | atomRsp (dst tag width : Nat) (old : DWord)
  | fault (dst tag : Nat) (cause : Cause)
  deriving DecidableEq, Repr

/-- An SPDM conversation with the active complex by the mailbox of one port (R367, R369). -/
structure Spdm where
  /-- Roles have changed since the last GET_VERSION of its requester. -/
  resynch : Bool
  sm2 : Bool
  sm3 : Bool
  /-- A request that was accepted before the last change of roles may still be answered, by the complex that accepted it. -/
  owed : Bool := false
  deriving DecidableEq, Repr, Inhabited

/-- Measurement blocks 2 to 4 (Table 20-3). -/
structure ImageBlocks where
  version : Word
  svn : Nat
  digest : Nat
  hopend : Bool
  active : Bool
  /-- The answering complex is the active one. -/
  role : Bool
  standby : Option (Word × Nat)
  deriving DecidableEq, Repr

/-- Answers of the attestation responder (R367, R368). -/
inductive SpdmAnswer where
  | version
  | capabilities
  | algorithms (sm2 sm3 : Bool)
  | digests (digest : Nat)
  | cert (chain : Nat)
  | challengeAuth (nonce : Nat) (blocks : ImageBlocks) (signed : Nat)
  | measurements (rom : Nat) (blocks : ImageBlocks) (minSvn stver : Nat) (debug : Bool) (signed : Nat)
  | unsupported
  | resynch
  deriving DecidableEq, Repr

/-- What a committed state table carries over (R362): partition and slice assignments and save areas, the queue state
held for the front ends, routes, and how far the log went. -/
structure StateTable where
  version : Nat
  regs : FMap (Option DWord)
  queues : FMap (FMap (Option Queue))
  routes : FMap Nat
  links : List Nat
  logged : Nat
  deriving DecidableEq, Repr, Inhabited

/-- The control complexes (R361 to R369). -/
structure Firmware where
  flash : Option Image
  img0 : Option Image
  img1 : Option Image
  /-- An accepted image waits in the standby complex. -/
  staged : Bool
  /-- The running image is not yet in flash. -/
  taken : Bool
  /-- The image that a STAGE under way reads. -/
  cand : Option Image
  table : StateTable
  /-- The command under way, 0 for none. -/
  op : Nat
  /-- The complex that has failed, true for CC1 (R363). -/
  failed : Option Bool
  /-- Fuses: the SM3 digest of the public key, and the least SVN (R361). -/
  fusedKey : Nat
  minSvn : Word
  debugFuse : Bool
  /-- The conversation of each port. -/
  spdm : FMap Spdm
  answers : List SpdmAnswer
  /-- Test-port instructions, and whether each was performed (R371). -/
  taps : List (JtagCode × Bool)
  deriving DecidableEq, Repr, Inhabited

/-- Entries of the active control complex's log. -/
inductive LogEntry where
  | thermalWarn (die : Nat)
  | clusterFail (cluster : Nat)
  | stackLost (stack : Nat)
  | uncorr (pa owner : Nat)
  | parityFix (stripe : Nat)
  | lazyLoss (pa owner : Nat)
  | poisoned (pa : Nat)
  | peerFault (src func addr : Nat) (cause : Cause)
  | miswire (port rank peerPort : Nat)
  | cmdDrop (fn gen fgen handle : Nat)
  | ringFault (fn : Nat)
  | engineReset (core fn nest : Nat) (pc : Addr)
  deriving DecidableEq, Repr

/-- The issue group that issues now (R106): a crew, its members in ascending position, and where the
members go on. -/
structure Group where
  crew : Nat
  members : List Nat
  pc : Addr
  next : Addr
  /-- The model's own number of the issue. -/
  grp : Nat
  deriving DecidableEq, Repr, Inhabited

/-- An MSI-X message as sent: its vector, with the address and data that the vector's table entry held (R36). -/
structure Msg where
  fn : Nat
  vector : Nat
  addr : DWord
  data : Word
  deriving DecidableEq, Repr

/-- Memory from `lo` up to `hi` that the device has overwritten in a format of its own: its bytes are free values until
they are written again (R62, R187, R348). -/
structure Veil where
  lo : Nat
  hi : Nat
  seed : Nat
  deriving DecidableEq, Repr

/-- The whole device. -/
structure State where
  /-- The model's own: the events that move next, first at the head. -/
  agenda : List Instr
  /-- The model's own: how many free values have been used. -/
  fresh : Nat
  /-- The model's own: the issue group. -/
  cur : Group
  /-- Threads that stood runnable as this cycle began (R105), those that the pipes have taken in it, and how many pipes of
  each core have chosen (R106). -/
  awake : List ThreadRef
  taken : List ThreadRef
  pipes : FMap Nat
  /-- Threads that have issued YIELD in this cycle, and those that did in the last one (R140). -/
  yielded : List ThreadRef
  rests : List ThreadRef
  /-- The model's own: unit events since the last issue (R110). -/
  lag : Nat
  /-- The model's own: numbers given to crews, cards and accesses. -/
  nextId : Nat
  /-- Fabric cycles since reset (R9). -/
  fab : Nat
  powered : Bool
  regs : FMap (Option DWord)
  home : FMap Byte
  msc : FMap Byte
  parity : FMap Byte
  deltas : List Delta
  poison : FMap Bool
  /-- What the check value of a sector differs by from the CRC-32C of its bytes and address; 0 where it agrees (R272). -/
  checks : FMap Word
  /-- Sectors of a stack found uncorrectable: the sector's offset in the stack, the stack, and the fabric cycle (R266). -/
  uncorr : List (Nat × Nat × Nat)
  /-- Sectors of parity that are poisoned, as stripe · 32 + sector, and what the check value of one differs by (R271, R272). -/
  parityBad : FMap Bool
  parityChecks : FMap Word
  /-- Sectors of each stack that scrubbing has read (R271). -/
  scrubs : FMap Nat
  owners : FMap (Option Byte)
  lost : List Nat
  loads : List Load
  writes : List Write
  marks : List Mark
  hbmq : List HbmReq
  /-- Reads on their way to the shared cache (R276). -/
  wants : List Want
  grants : FMap Nat
  crews : FMap (Option Crew)
  cards : List Card
  gens : FMap (BitVec 4)
  strays : List Stray
  l1 : List L1Line
  tlb : List TlbEntry
  icache : List IBlock
  clusters : FMap ClusterSt
  buckets : FMap Bucket
  /-- The function whose request passed last at the transfer units of a cluster (R260). -/
  served : FMap Nat
  /-- The card of a function whose request was served last on a core (R243). -/
  cardServed : FMap Nat
  walkers : FMap Walker
  parts : FMap PartSt
  funcs : FMap FuncSt
  /-- MSI-X messages sent (R36). -/
  msix : List Msg
  ports : FMap Port
  routes : FMap Nat
  /-- The ports that the routes in effect avoid, as rank · 18 + port (R327). -/
  links : List Nat
  answers : List PeerAnswer
  /-- How many of the answers have been sent as packets. -/
  answered : Nat
  /-- Tags of the peer requests under way that have been sent as packets. -/
  posted : List Nat
  /-- Tags of peer requests that have timed out, and when: those not answered yet, and those not to be used again yet (R335). -/
  expired : List (Nat × Nat)
  /-- Ports of other devices that are down or absent, as rank · 18 + port (R323, R327). -/
  downs : List Nat
  /-- Requests of peers that wait at a home slice (R162). -/
  parked : List PeerPacket
  insts : List CollInst
  /-- Which function last wrote a byte of a core's local memory, as its number plus 1, at core · 2^19 + byte (R198). -/
  lwriter : FMap Nat
  /-- Cores whose local memory is zero but for the bytes that `lwriter` lists, and cores whose accumulator store is zero,
  since a scrub (R73). -/
  clean : FMap Bool
  accClean : FMap Bool
  veil : List Veil
  /-- Fabric cycle at which the cores left reset last (Table 8-7). -/
  coreReset : Nat
  cc : Firmware
  log : List LogEntry
  deriving DecidableEq, Repr

/-- Why the machine stops. -/
inductive Fault where
  /-- Raised by `step` of a device without power (R13, R366) while no event stands on the agenda: nothing
  runs until power returns. Safe: the hardware does nothing either. -/
  | noPower
  deriving DecidableEq, Repr

/-- Why an instruction has no meaning. -/
inductive Refusal where
  /-- Raised by `exec` for an instruction that the model does not have. Safe: nothing is claimed of it.
  No arm raises it. -/
  | notModelled (mnemonic : String)
  deriving DecidableEq, Repr

/-- The image in flash at the first reset (log 12). -/
def factoryImage : Image :=
  { version := 0, svn := 0, stMin := 0, stMax := 0, digest := 0, signer := some 0, body := 0 }

/-- The device right after reset (R370): every register at its reset value, memory with nothing listed, no
crew, no function running (R78). -/
def State.reset : State where
  agenda := []
  fresh := 0
  cur := default
  awake := []
  taken := []
  pipes := []
  yielded := []
  rests := []
  lag := 0
  nextId := 1
  fab := 0
  powered := true
  regs := []
  home := []
  msc := []
  parity := []
  deltas := []
  poison := []
  checks := []
  uncorr := []
  parityBad := []
  parityChecks := []
  scrubs := []
  owners := []
  lost := []
  loads := []
  writes := []
  marks := []
  hbmq := []
  wants := []
  grants := []
  crews := []
  cards := []
  gens := []
  strays := []
  l1 := []
  tlb := []
  icache := []
  clusters := []
  buckets := []
  served := []
  cardServed := []
  walkers := []
  parts := []
  funcs := []
  msix := []
  ports := []
  routes := []
  links := []
  answers := []
  answered := 0
  posted := []
  expired := []
  downs := []
  parked := []
  insts := []
  lwriter := []
  clean := []
  accClean := []
  veil := []
  coreReset := 0
  cc := { (default : Firmware) with flash := some factoryImage }
  log := []

end Sys2Proof.Machine
end

