-- ==== Sys2Proof/Machine/Registers.lean ====
section
/-!
DEFINITION. The registers of the BARs: addresses, access codes and reset values (R4 and Tables 3-2, 5-3,
9-5, 11-5, 11-8, 14-9, 15-3, 16-10, 18-6, 19-2, 19-6, 20-1), and the MSI-X tables of BAR 2 (R36), whose layout is that
of the PCI family (log 98).

A register is held by its address; an unlisted one holds its reset value. Fields that only show other state
(FSTAT.RUNNING, PLEND, PKITTY.GUAR and the like) are computed when the register is read.
-/
namespace Sys2Proof.Machine
open Sys2Proof

/-- The registers, by function, partition or number where there are several. -/
inductive Reg where
  | notify (f q : Nat) | qtbase (f : Nat) | qcmd (f : Nat) | fstat (f : Nat) | dropcnt (f : Nat)
  | msiAddr (f v : Nat) | msiData (f v : Nat) | msiCtl (f v : Nat) | msiPba (f : Nat)
  | frbase (f : Nat) | frctl (f : Nat) | crewcmd (f : Nat) | cmddrop (f : Nat)
  | pcfg | vfpart (v : Nat) | vfsave (v : Nat) | cal (n : Nat)
  | pkitty (p : Nat) | plend (p : Nat) | prevoke (p : Nat) | pslice (p k : Nat)
  | vbase (n : Nat) | vsize (n : Nat) | pbase (n : Nat) | sbase (n : Nat) | wctl (n : Nat)
  | fsatp (f : Nat) | fhgatp (f : Nat) | fpriv (f : Nat) | fframe (f : Nat) | tlbi
  | tbcfg (f : Nat) | memstat | memctl | accbase | accctl | scls (f : Nat) | miss (f c : Nat)
  | hotbase (f : Nat) | hotctl (f : Nat) | lzctl
  | domcfg | peerto | collto | plate | inrank (k : Nat) | inown (f : Nat) | cgbase (f : Nat) | wport (n : Nat)
  | devstat | fwctl | fwstage | fwstat | focmd | fodata | fofw
  deriving DecidableEq, Repr

/-- BAR, function and offset of a register. -/
def Reg.place : Reg → Nat × Nat × Nat
  | .notify f q => (0, f, 8 * q) | .qtbase f => (0, f, 0x800) | .qcmd f => (0, f, 0x808)
  | .fstat f => (0, f, 0x810) | .dropcnt f => (0, f, 0x818)
  | .msiAddr f v => (2, f, 16 * v) | .msiData f v => (2, f, 16 * v + 8) | .msiCtl f v => (2, f, 16 * v + 12)
  | .msiPba f => (2, f, 0x800)
  | .frbase f => (2, f, 0x1000) | .frctl f => (2, f, 0x1008) | .crewcmd f => (2, f, 0x1010)
  | .cmddrop f => (2, f, 0x1018)
  | .pcfg => (4, 64, 0) | .vfpart v => (4, 64, 0x400 + 4 * v) | .vfsave v => (4, 64, 0x800 + 8 * v)
  | .cal n => (4, 64, 0xC00 + 4 * n)
  | .pkitty p => (4, 64, 0x1000 + 0x100 * p) | .plend p => (4, 64, 0x1008 + 0x100 * p)
  | .prevoke p => (4, 64, 0x1010 + 0x100 * p) | .pslice p k => (4, 64, 0x1040 + 0x100 * p + 4 * k)
  | .vbase n => (4, 64, 0x2000 + 0x40 * n) | .vsize n => (4, 64, 0x2008 + 0x40 * n)
  | .pbase n => (4, 64, 0x2010 + 0x40 * n) | .sbase n => (4, 64, 0x2018 + 0x40 * n)
  | .wctl n => (4, 64, 0x2020 + 0x40 * n)
  | .fsatp f => (4, 64, 0x3000 + 0x20 * f) | .fhgatp f => (4, 64, 0x3008 + 0x20 * f)
  | .fpriv f => (4, 64, 0x3010 + 0x20 * f) | .fframe f => (4, 64, 0x3018 + 0x20 * f)
  | .tlbi => (4, 64, 0x3900) | .tbcfg f => (4, 64, 0x4000 + 8 * f)
  | .memstat => (4, 64, 0x5000) | .memctl => (4, 64, 0x5008) | .accbase => (4, 64, 0x5010)
  | .accctl => (4, 64, 0x5018) | .scls f => (4, 64, 0x5100 + 8 * f)
  | .miss f c => (4, 64, 0x5400 + 16 * f + 4 * c)
  | .hotbase f => (4, 64, 0x5900 + 16 * f) | .hotctl f => (4, 64, 0x5908 + 16 * f)
  | .lzctl => (4, 64, 0x6000)
  | .domcfg => (4, 64, 0x7000) | .peerto => (4, 64, 0x7008) | .collto => (4, 64, 0x700C)
  | .plate => (4, 64, 0x7010) | .inrank k => (4, 64, 0x7020 + 4 * k) | .inown f => (4, 64, 0x7100 + f)
  | .cgbase f => (4, 64, 0x7200 + 8 * f) | .wport n => (4, 64, 0x7800 + 16 * n)
  | .devstat => (4, 64, 0x8000) | .fwctl => (4, 64, 0x8008) | .fwstage => (4, 64, 0x8010)
  | .fwstat => (4, 64, 0x8018) | .focmd => (4, 64, 0x8100) | .fodata => (4, 64, 0x8108)
  | .fofw => (4, 64, 0x8110)

/-- The key under which a register is held. -/
def Reg.key (r : Reg) : Nat := r.place.1 * 2 ^ 32 + r.place.2.1 * 2 ^ 16 + r.place.2.2

/-- The member `i` of an array of registers with `n` members of stride `st` from `base`. -/
def arrayAt (off base st n : Nat) (mk : Nat → Reg) : Option Reg :=
  if base ≤ off ∧ off < base + st * n ∧ (off - base) % st = 0 then some (mk ((off - base) / st)) else none

/-- The first register that a list of single registers and arrays gives at an offset. -/
def firstReg : List (Option Reg) → Option Reg
  | [] => none
  | some r :: _ => some r
  | none :: t => firstReg t

/-- A single register at `place`. -/
def oneAt (off place : Nat) (r : Reg) : Option Reg := if off = place then some r else none

/-- Members of the partition blocks of BAR 4 (R71, R79). -/
def partAt (off : Nat) : Option Reg :=
  if off < 0x1000 ∨ 0x2000 ≤ off then none
  else
    let p := (off - 0x1000) / 0x100
    let o := off % 0x100
    firstReg [oneAt o 0 (.pkitty p), oneAt o 8 (.plend p), oneAt o 0x10 (.prevoke p),
      arrayAt o 0x40 4 16 (.pslice p)]

/-- The miss counters (R281). -/
def missAt (off : Nat) : Option Reg :=
  if 0x5400 ≤ off ∧ off < 0x5400 + 16 * 65 ∧ off % 4 = 0 ∧ off % 16 ≠ 12 then
    some (.miss ((off - 0x5400) / 16) (off % 16 / 4)) else none

/-- The register at an offset of BAR 4 (R79, R161, R191, R196, R259, R281, R301, R342, R364). -/
def Reg.at4 (off : Nat) : Option Reg :=
  firstReg [oneAt off 0 .pcfg, arrayAt off 0x400 4 64 .vfpart, arrayAt off 0x800 8 64 .vfsave,
    arrayAt off 0xC00 4 64 .cal, partAt off,
    arrayAt off 0x2000 0x40 16 .vbase, arrayAt off 0x2008 0x40 16 .vsize, arrayAt off 0x2010 0x40 16 .pbase,
    arrayAt off 0x2018 0x40 16 .sbase, arrayAt off 0x2020 0x40 16 .wctl,
    arrayAt off 0x3000 0x20 65 .fsatp, arrayAt off 0x3008 0x20 65 .fhgatp, arrayAt off 0x3010 0x20 65 .fpriv,
    arrayAt off 0x3018 0x20 65 .fframe, oneAt off 0x3900 .tlbi, arrayAt off 0x4000 8 65 .tbcfg,
    oneAt off 0x5000 .memstat, oneAt off 0x5008 .memctl, oneAt off 0x5010 .accbase, oneAt off 0x5018 .accctl,
    arrayAt off 0x5100 8 65 .scls, missAt off, arrayAt off 0x5900 16 65 .hotbase,
    arrayAt off 0x5908 16 65 .hotctl, oneAt off 0x6000 .lzctl, oneAt off 0x7000 .domcfg,
    oneAt off 0x7008 .peerto, oneAt off 0x700C .collto, oneAt off 0x7010 .plate,
    arrayAt off 0x7020 4 10 .inrank, arrayAt off 0x7100 1 256 .inown, arrayAt off 0x7200 8 65 .cgbase,
    arrayAt off 0x7800 16 18 .wport, oneAt off 0x8000 .devstat, oneAt off 0x8008 .fwctl,
    oneAt off 0x8010 .fwstage, oneAt off 0x8018 .fwstat, oneAt off 0x8100 .focmd, oneAt off 0x8108 .fodata,
    oneAt off 0x8110 .fofw]

/-- The register at an offset of a function's BAR. -/
def Reg.at (bar f off : Nat) : Option Reg :=
  if bar = 0 then
    if off < 0x800 then arrayAt off 0 8 256 (.notify f)
    else firstReg [oneAt off 0x800 (.qtbase f), oneAt off 0x808 (.qcmd f), oneAt off 0x810 (.fstat f),
      oneAt off 0x818 (.dropcnt f)]
  else if bar = 2 then
    firstReg [arrayAt off 0 16 32 (.msiAddr f), arrayAt off 8 16 32 (.msiData f), arrayAt off 12 16 32 (.msiCtl f),
      oneAt off 0x800 (.msiPba f), oneAt off 0x1000 (.frbase f), oneAt off 0x1008 (.frctl f), oneAt off 0x1010 (.crewcmd f),
      oneAt off 0x1018 (.cmddrop f)]
  else if bar = 4 ∧ f = 64 then Reg.at4 off
  else none

/-- Bytes of a register. -/
def Reg.bytes : Reg → Nat
  | .qcmd _ | .fstat _ | .dropcnt _ | .frctl _ | .cmddrop _ | .pcfg | .vfpart _ | .cal _ | .pslice _ _
  | .wctl _ | .memstat | .memctl | .miss _ _ | .hotctl _ | .lzctl | .domcfg | .peerto | .collto | .plate
  | .inrank _ | .devstat | .fwctl | .msiData _ _ | .msiCtl _ _ => 4
  | .inown _ => 1
  | _ => 8

/-- The mask of bits [hi:lo]. -/
def bits (hi lo : Nat) : DWord := BitVec.ofNat 64 (2 ^ (hi + 1) - 2 ^ lo)

/-- The RW fields of a register. -/
def Reg.rw : Reg → DWord
  | .qtbase _ => bits 63 6
  | .qcmd _ => bits 7 0
  | .msiAddr _ _ => bits 63 2
  | .msiData _ _ => bits 31 0
  | .msiCtl _ _ => bits 0 0
  | .frbase _ => bits 63 6
  | .frctl _ => bits 31 31 ||| bits 3 0
  | .pcfg => bits 2 0
  | .vfpart _ => bits 31 31 ||| bits 3 0
  | .vfsave _ => bits 63 22
  | .cal _ => bits 4 0
  | .pkitty _ => bits 47 32 ||| bits 21 12
  | .pslice _ _ => bits 31 30 ||| bits 21 0
  | .vbase _ | .pbase _ => bits 51 16
  | .vsize _ => bits 39 16
  | .sbase _ => bits 51 11
  | .wctl _ => bits 31 31 ||| bits 4 4 ||| bits 1 0
  | .fsatp _ => bits 63 0
  | .fhgatp _ => bits 63 60 ||| bits 57 0
  | .fpriv _ => bits 63 24 ||| bits 13 0
  | .fframe _ => bits 63 21 ||| bits 13 0
  | .tbcfg _ => bits 63 63 ||| bits 47 32 ||| bits 15 0
  | .memctl => bits 31 30 ||| bits 23 8
  | .accbase => bits 51 16
  | .accctl => bits 63 63 ||| bits 47 0
  | .scls _ => bits 47 0
  | .miss _ _ => bits 31 0
  | .hotbase _ => bits 51 4
  | .hotctl _ => bits 31 31 ||| bits 3 0
  | .lzctl => bits 16 0
  | .peerto => bits 19 0
  | .collto => bits 15 0
  | .inrank _ => bits 31 0
  | .inown f => if f = 0 then 0 else bits 7 0
  | .cgbase _ => bits 51 0
  | .fwstage => bits 51 12
  | _ => 0

/-- The W1C fields of a register (CRCERR clears whole, R342). -/
def Reg.w1c : Reg → DWord
  | .pcfg => bits 30 30
  | .wctl _ => bits 29 29
  | _ => 0

/-- The reset value of a register, at partition count `p`. -/
def Reg.reset (p : Nat) : Reg → DWord
  | .frctl _ => 4
  | .msiCtl _ _ => 1
  | .cal n => BitVec.ofNat 64 (16 + n % p)
  | .pkitty _ => 20 * 2 ^ 12
  | .pslice _ _ => 1
  | .tbcfg _ => 64 * 2 ^ 32
  | .memstat => 0xFFF
  | .memctl => bits 31 30 ||| 16 * 2 ^ 16 ||| 24 * 2 ^ 8
  | .accctl => 4096 * 2 ^ 32
  | .scls _ => 20000 * 2 ^ 32 ||| 2000 * 2 ^ 16 ||| 100
  | .hotctl _ => 4
  | .peerto => 2000
  | .collto => 1000
  | .inown f => if f = 0 then 0 else 0xFF
  | .fodata => 255
  | _ => 0

/-- The stored value of a register by key, at partition count `p`. -/
def regValue (regs : FMap (Option DWord)) (p : Nat) (r : Reg) : DWord := (regs.get r.key).getD (r.reset p)

/-- The partition count P (R68). -/
def State.parts' (s : State) : Nat := 2 ^ ((s.regs.get Reg.pcfg.key).getD 0 &&& 7).toNat

/-- The stored value of a register. -/
def State.reg (s : State) (r : Reg) : DWord := regValue s.regs s.parts' r

/-- Writes a register's stored value. -/
def State.setReg (s : State) (r : Reg) (v : DWord) : State :=
  { s with regs := s.regs.set r.key (if v = r.reset s.parts' then none else some v) }

/-- Field [lo + n − 1 : lo] of a register as a number. -/
def State.field (s : State) (r : Reg) (lo n : Nat) : Nat := (s.reg r).toNat / 2 ^ lo % 2 ^ n

/-- Writes one field of a register. -/
def State.setField (s : State) (r : Reg) (lo n v : Nat) : State :=
  let old := (s.reg r).toNat
  s.setReg r (BitVec.ofNat 64 (old - old / 2 ^ lo % 2 ^ n * 2 ^ lo + v % 2 ^ n * 2 ^ lo))

/-- A write by the access codes alone (R4): RW bits take the value, W1C bits clear on 1, all else stays. -/
def Reg.merge (r : Reg) (old v : DWord) : DWord :=
  ((old &&& ~~~r.rw) ||| (v &&& r.rw)) &&& ~~~(v &&& r.w1c)

/-- Clusters of a partition: C, guaranteed G and kitty K of Table 5-1. -/
def perPart (p : Nat) : Nat × Nat × Nat := (96 / p, 96 / p - (if p = 16 then 1 else 16 / p), if p = 16 then 1 else 16 / p)

/-- Whether a bit of a number is set. -/
def bitOf (v n : Nat) : Bool := v / 2 ^ n % 2 == 1

/-- Start-up is complete (R370). -/
def State.ready (s : State) : Bool := s.field .devstat 31 1 == 1

/-- A write to BAR 4 acts once start-up is complete; before that it is ignored (R370). -/
def State.bar4 (s : State) (k : State → State) : State := if s.ready then k s else s

end Sys2Proof.Machine
end

