-- ==== Sys2Proof/Machine/Memory.lean ====
section
/-!
DEFINITION. Memory of the device: the physical map (Table 11-4), format views (R163, R164), owners (R196),
the stripes and their parity (R262, R263), poison (R273), and reads and writes of bytes.

Three contents are kept: `home`, the bytes at their points of performance (R282), `msc`, the HBM bytes as
applied at the memory-side caches, and `parity`. The last two carry the rules of parity and loss only.
-/
namespace Sys2Proof.Machine
open Sys2Proof

/-- A little-endian field of a run of bytes. -/
def fld (b : List Byte) (off n : Nat) : Nat := leValue ((b.drop off).take n)

/-- The ranges of Table 11-4. -/
inductive Region where
  | hbm | view | capacity | domain | none
  deriving DecidableEq, Repr

/-- The range of a physical address (Table 11-4). -/
def regionOf (pa : Nat) : Region :=
  if pa < 0xB000000000 then .hbm
  else if 0x10000000000 ≤ pa ∧ pa < 0x20000000000 then .view
  else if 0x100000000000 ≤ pa ∧ pa < 0x8000000000000 then .capacity
  else if 0x8000000000000 ≤ pa ∧ pa < 0x10000000000000 then .domain
  else .none

/-- The rank of this device, if it has one (Table 18-6). -/
def State.rank (s : State) : Option Nat :=
  if s.field .domcfg 31 1 = 1 then some (s.field .domcfg 0 9) else none

/-- The rank that a domain address names, PA[50:42] (R190). -/
def rankOfPa (pa : Nat) : Nat := pa / 2 ^ 42 % 2 ^ 9

/-- A domain address of this device is its local address PA[41:0] (R190). -/
def State.localPa (s : State) (pa : Nat) : Nat :=
  if regionOf pa = .domain ∧ s.rank = some (rankOfPa pa) then pa % 2 ^ 42 else pa

/-- A domain address of another device. -/
def State.isPeer (s : State) (pa : Nat) : Bool := regionOf (s.localPa pa) == .domain

/-- An enabled format window (R161). -/
structure Window where
  n : Nat
  base : Nat
  size : Nat
  codes : Nat
  scales : Nat
  t6 : Bool
  noScale : Bool
  deriving DecidableEq, Repr

/-- The settings of window `n` (Table 9-5). -/
def State.window (s : State) (n : Nat) : Window where
  n := n
  base := s.field (.vbase n) 16 36 * 65536
  size := s.field (.vsize n) 16 24 * 65536
  codes := s.field (.pbase n) 16 36 * 65536
  scales := s.field (.sbase n) 11 41 * 2048
  t6 := s.field (.wctl n) 0 2 == 1
  noScale := s.field (.wctl n) 4 1 == 1

/-- Bytes of stored codes of a window (R162). -/
def Window.codeBytes (w : Window) : Nat := if w.t6 then w.size / 4 * 3 else w.size

/-- Bytes of a window's scale region (R162). -/
def Window.scaleBytes (w : Window) : Nat := if w.noScale then 0 else w.size / 32

/-- The windows in service: enabled, or about to leave service. That one which drains, ENABLE 0 and BUSY 1, still counts, so that an
overlap with it refuses an enable and its codes stay PERM, is the model's choice (R162, log 69). -/
def State.windows (s : State) : List Window :=
  ((List.range 16).filter (fun n => s.field (.wctl n) 31 1 == 1 || s.field (.wctl n) 30 1 == 1)).map s.window

/-- The window whose view holds an address. -/
def State.viewOf (s : State) (pa : Nat) : Option Window :=
  s.windows.find? (fun w => decide (w.base ≤ pa) && decide (pa < w.base + w.size))

/-- A view address whose window is enabled or disabled right now: accesses wait (R162). -/
def State.viewBusy (s : State) (pa : Nat) : Bool :=
  regionOf pa == .view &&
  match s.viewOf pa with
  | some w => s.field (.wctl w.n) 30 1 == 1
  | none => false

/-- An address lies in the stored codes of an enabled window (R165). -/
def State.inCodes (s : State) (pa : Nat) : Bool :=
  s.windows.any (fun w => decide (w.codes ≤ pa) && decide (pa < w.codes + w.codeBytes))

/-- First code byte of the group that holds element `i`, and the bytes of the group (R163). -/
def Window.group (w : Window) (i : Nat) : Nat × Nat :=
  if w.t6 then (w.codes + 3 * (i / 4), 3) else (w.codes + i, 1)

/-- A stored byte at its point of performance: a free value where the device has written in a format of its own. -/
def State.storedByte (s : State) (a : Nat) : Byte :=
  match s.veil.find? (fun v => decide (v.lo ≤ a) && decide (a < v.hi)) with
  | some v => Config.freeVeil v.seed a
  | none => s.home.get a

/-- The bytes of a run of memory at the points of performance. -/
def State.rawBytes (s : State) (pa n : Nat) : List Byte := (List.range n).map (fun i => s.storedByte (pa + i))

/-- Element byte `i` of a view (R163). -/
def State.viewByte (s : State) (w : Window) (i : Nat) : Byte :=
  let g := w.group i
  let v := leValue (s.rawBytes g.1 g.2)
  if w.t6 then BitVec.ofNat 8 (v / 2 ^ (6 * (i % 4)) % 64) else BitVec.ofNat 8 v

/-- The byte at a local physical address, at its point of performance. -/
def State.byteAt (s : State) (pa : Nat) : Byte :=
  if regionOf pa = .view then
    match s.viewOf pa with
    | some w => s.viewByte w (pa - w.base)
    | none => 0
  else s.storedByte pa

/-- `n` bytes from a local physical address, at their points of performance. -/
def State.bytesAt (s : State) (pa : Nat) : Nat → List Byte
  | 0 => []
  | n + 1 => s.byteAt pa :: s.bytesAt (pa + 1) n

/-- The little-endian value of `n` bytes. -/
def State.valueAt (s : State) (pa n : Nat) : Nat := leValue (s.bytesAt pa n)

/-- The exclusive-or of two lists of bytes. -/
def xorBytes (a b : List Byte) : List Byte := List.zipWith (· ^^^ ·) a b

/-- Stripe of an HBM address (R262). -/
def stripeOf (pa : Nat) : Nat := pa / 2048 / 11
/-- Stack that holds an HBM address (R262). -/
def stackOf (pa : Nat) : Nat := (stripeOf pa % 12 + 1 + pa / 2048 % 11) % 12
/-- Stack that holds the parity of a stripe (R262). -/
def parityStack (stripe : Nat) : Nat := stripe % 12
/-- Byte offset of an HBM address within its stack (R262). -/
def stackOff (pa : Nat) : Nat := stripeOf pa * 2048 + pa % 2048
/-- HBM address of data position `i` of a stripe, at byte `b` of the unit (the inverse of R262). -/
def stripeAddr (stripe i b : Nat) : Nat := (stripe * 11 + i) * 2048 + b
/-- Key of parity byte `b` of a stripe. -/
def parityKey (stripe b : Nat) : Nat := stripe * 2048 + b

/-- A stack is lost (R266). -/
def State.isLost (s : State) (stack : Nat) : Bool := s.lost.contains stack

/-- The `n` bytes of a unit from `pa` on as the other ten data units of the stripe and its parity form them (R268). -/
def State.formed (s : State) (pa n : Nat) : List Byte :=
  (List.range 11).foldl (fun acc i =>
      if i = pa / 2048 % 11 then acc else xorBytes acc (s.msc.getList (stripeAddr (stripeOf pa) i (pa % 2048)) n))
    (s.parity.getList (parityKey (stripeOf pa) (pa % 2048)) n)

/-- A byte as the memory-side cache of its stack holds it, or as a lost unit is formed (R268); outside HBM the byte at its
point of performance. -/
def State.mscByte (s : State) (a : Nat) : Byte :=
  if regionOf a = .hbm ∧ !s.veil.any (fun v => decide (v.lo ≤ a) && decide (a < v.hi)) then
    if s.isLost (stackOf a) then (s.formed a 1).headD 0 else s.msc.get a
  else s.storedByte a

/-- The scale of view element `i`, 127 without a scale region (R163, R249). The tag of a sector holds what the
memory-side cache held at its fill, and a scale store replaces it as it is applied there (R165, log 44). -/
def State.viewScale (s : State) (w : Window) (i : Nat) : Byte :=
  if w.noScale then 127 else s.mscByte (w.scales + i / 32)

/-- The bytes of a store as a view takes them: a T6 view drops bits [7:6] (R164). -/
def State.viewDrop (s : State) (pa : Nat) (bytes : List Byte) : List Byte :=
  if regionOf pa = .view then
    match s.viewOf pa with
    | some w => if w.t6 then bytes.map (· &&& 0x3F) else bytes
    | none => bytes
  else bytes

/-- The stored bytes that a write of view bytes becomes: the codes of the elements written are replaced in
their groups, every other code is kept (R164). -/
def State.viewWrite (s : State) (w : Window) (i : Nat) (bytes : List Byte) : Nat × List Byte :=
  if w.t6 then
    let first := i / 4
    let last := (i + bytes.length - 1) / 4
    let old := leValue (s.rawBytes (w.codes + 3 * first) (3 * (last - first + 1)))
    let new := (List.range bytes.length).foldl (fun (acc : Nat) j =>
      let sh := 6 * (i + j - 4 * first)
      acc - acc / 2 ^ sh % 64 * 2 ^ sh + (bytes.getD j 0).toNat % 64 * 2 ^ sh) old
    (w.codes + 3 * first, leBytes (3 * (last - first + 1)) new)
  else (w.codes + i, bytes)

/-- Where the bytes of a write are stored: a view write becomes a write of codes. -/
def State.stored (s : State) (pa : Nat) (bytes : List Byte) : Nat × List Byte :=
  if regionOf pa = .view then
    match s.viewOf pa with
    | some w => s.viewWrite w (pa - w.base) bytes
    | none => (pa, [])
  else (pa, bytes)

/-- The owner of a frame of 64 KiB (R196); 255 stands for a free frame. -/
def State.frameOwner (s : State) (frame : Nat) : Nat :=
  match s.owners.get frame with
  | some b => b.toNat
  | none => 255

/-- The owner that an access to a local address is checked against: none in the capacity tier (R195). A view
address takes the owner of the frame of its sector's first code (R163). -/
def State.ownerAt (s : State) (pa : Nat) : Option Nat :=
  match regionOf pa with
  | .hbm => some (s.frameOwner (pa / 65536))
  | .view => match s.viewOf pa with
    | some w => some (s.frameOwner ((w.group ((pa - w.base) / 64 * 64)).1 / 65536))
    | none => none
  | _ => none

/-- Every frame that serves an access to a local address belongs to `owner` (R163, R195). Codes or scales in the capacity tier have
no frame owner: the spec does not say what follows, and here no owner's access passes (log 127). -/
def State.ownedBy (s : State) (owner pa : Nat) : Bool :=
  owner == 0 ||
  match regionOf pa with
  | .hbm => s.frameOwner (pa / 65536) == owner
  | .view => match s.viewOf pa with
    | some w =>
      let i := (pa - w.base) / 64 * 64
      s.frameOwner ((w.group i).1 / 65536) == owner &&
      s.frameOwner (((w.group (i + 63)).1 + (w.group (i + 63)).2 - 1) / 65536) == owner &&
      (w.noScale || s.frameOwner ((w.scales + i / 32) / 65536) == owner)
    | none => false
  | _ => true

/-- Owner code of a function: VF v is 2 + v, the physical function 1 (R195). -/
def ownerCode (fn : Nat) : Nat := if fn = 64 then 1 else 2 + fn

/-- Frames kept by firmware (R196). -/
def State.firmwareFrame (s : State) (frame : Nat) : Bool := s.frameOwner frame == 0

/-- Home slice of an address whose frame has owner `o` (R70). -/
def State.homeSlice (s : State) (o pa : Nat) : Nat :=
  let fold := (BitVec.ofNat 32 (pa / 2 ^ 7) ^^^ BitVec.ofNat 32 (pa / 2 ^ 39 % 2 ^ 13)).toNat
  let perP := Config.slices / s.parts'
  if 2 ≤ o ∧ o ≤ 65 then s.field (.vfpart (o - 2)) 0 4 * perP + fold % perP else fold % Config.slices

/-- Key of the parity sector that belongs to a data sector. -/
def paritySector (pa : Nat) : Nat := stripeOf pa * 32 + pa % 2048 / 64

/-- A parity sector is poisoned, or its check value fails (R271, R272). -/
def State.parityFails (s : State) (k : Nat) : Bool := s.parityBad.get k || s.parityChecks.get k != 0

/-- A data sector that no surviving unit can form: its own stack is lost, and another unit of its stripe is too or its parity
sector is bad (R269, R271, R272). -/
def State.unformable (s : State) (pa : Nat) : Bool :=
  regionOf pa == .hbm && s.isLost (stackOf pa) && (decide (1 < s.lost.length) || s.parityFails (paritySector pa))

/-- A stripe has deltas on their way. -/
def State.stripeDirty (s : State) (stripe : Nat) : Bool := s.deltas.any (fun (d : Delta) => d.stripe == stripe)

/-- The place in memory of an address: the first code byte of a view sector (R163). -/
def State.codePa (s : State) (pa : Nat) : Nat :=
  if regionOf pa = .view then
    match s.viewOf pa with
    | some w => (w.group ((pa - w.base) / 64 * 64)).1
    | none => pa
  else pa

/-- The sectors in memory that serve an access to an address: of a view sector those of its codes, one or two, and that of its
scale (R163). -/
def State.placesOf (s : State) (pa : Nat) : List Nat :=
  if regionOf pa = .view then
    match s.viewOf pa with
    | some w =>
      let i := (pa - w.base) / 64 * 64
      let a := (w.group i).1
      let b := (w.group (i + 63)).1 + (w.group (i + 63)).2 - 1
      (if a / 64 = b / 64 then [a] else [a, b]) ++ (if w.noScale then [] else [w.scales + i / 32])
    | none => [pa]
  else [pa]

/-- A sector of a lost unit waits for its stripe to drain (R265, R268). -/
def State.drainsAt (s : State) (a : Nat) : Bool :=
  regionOf a == .hbm && s.isLost (stackOf a) && s.stripeDirty (stripeOf a)

/-- A read at the home slice waits: for its view (R162), or until the stripe of a lost unit has drained (R265, R268). -/
def State.homeBusy (s : State) (pa : Nat) : Bool := s.viewBusy pa || (s.placesOf pa).any s.drainsAt

/-- One bit of a reflected CRC-32C. -/
def crcBit (c : Word) : Word := if c.getLsbD 0 then (c >>> 1) ^^^ 0x82F63B78 else c >>> 1

/-- One byte of a CRC-32C. -/
def crcByte (c : Word) (b : Byte) : Word :=
  (List.range 8).foldl (fun c _ => crcBit c) (c ^^^ b.setWidth 32)

/-- CRC-32C (R272). -/
def crc32c (bs : List Byte) : Word := (bs.foldl crcByte 0xFFFFFFFF) ^^^ 0xFFFFFFFF

/-- The check value that a sector carries (R272): over its 64 bytes and PA[51:6]. -/
def State.checkValue (s : State) (k : Nat) : Word := crc32c (s.rawBytes (64 * k) 64 ++ leBytes 8 (k % 2 ^ 46)) ^^^ s.checks.get k

/-- The check value of a sector fails (R272). -/
def State.checkFails (s : State) (k : Nat) : Bool := s.checks.get k != 0

/-- A sector that reads as poisoned: it is, its check value fails, or it cannot be formed (R269, R272, R273). -/
def State.sectorBad (s : State) (pa : Nat) : Bool := s.poison.get (pa / 64) || s.checkFails (pa / 64) || s.unformable pa

/-- The sectors of 64 bytes of a run of bytes, by number. -/
def sectorRun (pa n : Nat) : List Nat := if n = 0 then [] else (List.range ((pa + n - 1) / 64 - pa / 64 + 1)).map (pa / 64 + ·)

/-- The bad sectors that hold a run of bytes; of a view those of its codes. -/
def State.badSectors (s : State) (pa n : Nat) : List Nat :=
  let ks := if regionOf pa = .view then
      match s.viewOf pa with
      | some w => (List.range n).flatMap (fun j =>
          let g := w.group (pa - w.base + j)
          [g.1 / 64, (g.1 + g.2 - 1) / 64])
      | none => []
    else sectorRun pa n
  ks.filter (fun k => s.sectorBad (64 * k))

/-- Some sector of a run is poisoned. -/
def State.runBad (s : State) (pa n : Nat) : Bool := !(s.badSectors pa n).isEmpty

/-- The sector of a stack that holds an HBM address, with the stack (R262, R266). -/
def stackSector (pa : Nat) : Nat × Nat := (stackOff pa / 64, stackOf pa)

/-- The bad sectors among the `n` from number `first` on; with every stack in service only those that are marked need a look
(R269, R272, R273). -/
def State.badIn (s : State) (first n : Nat) : List Nat :=
  let ks := if s.lost.isEmpty then (s.poison.map (·.1) ++ s.checks.map (·.1)).filter (fun k => decide (first ≤ k) && decide (k < first + n))
    else (List.range n).map (first + ·)
  ks.filter (fun k => s.sectorBad (64 * k))

/-- An access meets bad sectors: a failed check value poisons its sector, and the active control complex logs each one's address
(R272, R350). -/
def State.meetBad (s : State) (found : List Nat) : State :=
  let ks := found.dedup
  let failed := ks.filter s.checkFails
  { s with
    poison := failed.foldl (fun m k => m.set k true) s.poison, checks := s.checks.keep (fun k => !failed.contains k)
    uncorr := s.uncorr ++ (failed.filter (fun k => regionOf (64 * k) == .hbm)).map (fun k =>
      ((stackSector (64 * k)).1, (stackSector (64 * k)).2, s.fab))
    log := s.log ++ ks.map (fun k => .poisoned (64 * k)) }

/-- An access meets the bad sectors of a run. -/
def State.meetPoison (s : State) (pa n : Nat) : State := s.meetBad (s.badSectors pa n)

/-- What is left of veiled memory once the bytes from `lo` up to `hi` have been written. -/
def unveil (vs : List Veil) (lo hi : Nat) : List Veil :=
  vs.flatMap (fun v =>
    if hi ≤ v.lo ∨ v.hi ≤ lo then [v]
    else (if v.lo < lo then [{ v with hi := lo }] else []) ++ (if hi < v.hi then [{ v with lo := hi }] else []))

/-- The device overwrites `n` bytes of memory in a format of its own, whole: what they hold is free, and no sector of
them stays poisoned (R62, R273, R348). -/
def State.veilOver (s : State) (lo n : Nat) : State :=
  { s with
    veil := unveil s.veil lo (lo + n) ++ [⟨lo, lo + n, s.fresh⟩], fresh := s.fresh + 1
    home := s.home.keep (fun a => !(decide (lo ≤ a) && decide (a < lo + n)))
    poison := s.poison.keep (fun k => !(decide (lo ≤ 64 * k) && decide (64 * k + 64 ≤ lo + n)))
    checks := s.checks.keep (fun k => !(decide (lo ≤ 64 * k) && decide (64 * k + 64 ≤ lo + n))) }

/-- Performs a write of stored bytes at its point of performance: a sector written whole is clean, one
written in part keeps its poison bit (R273). The check value of a sector is tested where the write is merged into it, and
formed anew: outside HBM here, in HBM at the memory-side cache. A failed one poisons its sector and is logged (R272). -/
def State.writeHome (s : State) (pa : Nat) (bytes : List Byte) : State :=
  let whole (k : Nat) : Bool := decide (pa ≤ 64 * k) && decide (64 * k + 64 ≤ pa + bytes.length)
  let part (k : Nat) : Bool := decide (64 * k < pa + bytes.length) && decide (pa < 64 * k + 64) && !whole k
  let failed := (s.checks.map (·.1)).filter (fun k => part k && regionOf (64 * k) != .hbm)
  { s with
    home := s.home.setList pa bytes, veil := unveil s.veil pa (pa + bytes.length)
    poison := failed.foldl (fun m k => m.set k true) (s.poison.keep (fun k => !whole k))
    checks := s.checks.keep (fun k => !whole k && !failed.contains k)
    log := s.log ++ failed.map (fun k => .poisoned (64 * k)) }

/-- Adds delta bytes into parity (R263). -/
def addParity (p : FMap Byte) (k : Nat) (d : List Byte) : FMap Byte :=
  p.setList k (xorBytes (p.getList k d.length) d)

/-- A line of 128 bytes holds a commit mark of a thread other than `w`; with `wr`, a write mark (R312). -/
def State.marked (s : State) (line : Nat) (w : Option ThreadRef) (wr : Bool) : Bool :=
  s.marks.any (fun m => m.line == line && some m.who != w && (!wr || m.write))

/-- A fresh free value; the counter advances. -/
def State.free (s : State) : DWord × State := (Config.freeWord s.fresh, { s with fresh := s.fresh + 1 })

/-- A free choice among `n` possibilities; no choice is taken where there is one. -/
def State.choose (s : State) (n : Nat) : Nat × State :=
  if n ≤ 1 then (0, s) else (Config.freeChoice s.fresh % n, { s with fresh := s.fresh + 1 })

/-- `n` indeterminate bytes. -/
def freeBytes (fresh : Nat) (n : Nat) : List Byte :=
  (List.range n).map (fun i => (Config.freeWord (fresh + i)).extractLsb' 0 8)

/-- A new number for a crew, a card or an access. -/
def State.newId (s : State) : Nat × State := (s.nextId, { s with nextId := s.nextId + 1 })

/-- A request arrives at a channel of a stack (R276). -/
def State.ask (s : State) (stack fn cls : Nat) (stamp : BitVec 16) : State :=
  let (seq, s0) := s.newId
  { s0 with hbmq := s0.hbmq ++ [{ seq := seq, stack := stack, fn := fn, cls := cls, stamp := stamp }] }

/-- The function of an owner code. -/
def ownerFn (owner : Nat) : Nat := if owner < 2 then 64 else owner - 2

/-- The parity sectors, as stripe · 32 + sector, that a delta is merged into. -/
def Delta.sectors (d : Delta) : List Nat :=
  (List.range ((d.off + d.bytes.length + 63) / 64 - d.off / 64)).map (d.stripe * 32 + d.off / 64 + ·)

/-- Where parity lies, as the log names it: beyond every physical address. -/
def parityPlace (k : Nat) : Nat := 2 ^ 52 + 64 * k

/-- The check values of parity sectors are tested (R272): a failed one poisons its sector and is logged. -/
def State.testParity (s : State) (ks : List Nat) : State :=
  let failed := ks.filter (fun k => s.parityChecks.get k != 0)
  if failed.isEmpty then s
  else { s with
    parityBad := failed.foldl (fun m k => m.set k true) s.parityBad
    parityChecks := s.parityChecks.keep (fun k => !failed.contains k)
    log := s.log ++ failed.map (fun k => .poisoned (parityPlace k)) }

/-- A delta is merged into the parity of its stripe, by a request of its write's class and stamp; with its last delta the write
is applied (R263, R272, R276). -/
def State.mergeDelta (s : State) (d : Delta) : State :=
  let rest := s.deltas.erase d
  let s0 := s.testParity d.sectors
  let s1 := ({ s0 with deltas := rest, parity := addParity s.parity (parityKey d.stripe d.off) d.bytes } : State).ask
    (parityStack d.stripe) (ownerFn d.owner) d.cls d.stamp
  if rest.any (fun (x : Delta) => x.write == d.write) then s1
  else { s1 with writes := s1.writes.map (fun (w : Write) =>
    if w.id = d.write then (if w.stage = .delta then { w with stage := .applied } else w) else w) }

/-- A stripe is drained: its deltas are merged at once (R265). -/
def State.drain (s : State) (stripe : Nat) : State :=
  (s.deltas.filter (fun (d : Delta) => d.stripe == stripe)).foldl State.mergeDelta s

/-- The stripes of the lost units that serve an access are drained before it is made (R265, R268). -/
def State.drained (s : State) (pa : Nat) : State :=
  ((s.placesOf pa).filter s.drainsAt).foldl (fun s a => s.drain (stripeOf a)) s

/-! ## Writes on their way (R205, R264, R282, R300) -/

/-- The partition of a function (Table 5-3); the physical function has none of its own. -/
def State.partOf (s : State) (fn : Nat) : Nat := s.field (.vfpart fn) 0 4

/-- The bit of LZCTL that covers the stores of an owner code (R300): HV is that of codes 0 and 1. -/
def State.lazyBit (s : State) (owner : Nat) : Nat := if owner < 2 then 16 else s.partOf (owner - 2)

/-- The lazy-release mode covers the stores of an owner code, and of a function (R300). -/
def State.lazyOwner (s : State) (owner : Nat) : Bool := s.field .lzctl (s.lazyBit owner) 1 == 1
def State.lazyFor (s : State) (fn : Nat) : Bool := s.lazyOwner (ownerCode fn)

/-- Every packet of a function that is under way. -/
def FuncSt.allPackets (k : FuncSt) : List Packet := k.leftovers ++ k.queues.flatMap (fun e => (e.2.map (·.packets)).getD [])

/-- A number of `n` bytes at a packet's offset (Tables 3-7 and 3-8). -/
def Packet.get (p : Packet) (off n : Nat) : Nat :=
  (p.words.getD (off / 8) 0).toNat / 2 ^ (8 * (off % 8)) % 2 ^ (8 * n)

/-- The service class of a packet's requests: CLASS of a COPY, else latency (Tables 3-8 and 15-2). -/
def Packet.cls (p : Packet) : Nat := if p.get 0 1 = 3 then p.get 0x24 1 else 0

/-- Class of a write's requests, as it is issued (Table 15-2, log 109). -/
def State.classOf (s : State) (w : Write) : Nat :=
  match w.by_ with
  | .card _ id => ((s.cards.find? (·.id == id)).map (·.cls)).getD 0
  | .packet fn id => (((s.funcs.get fn).allPackets.find? (·.id == id)).map (·.cls)).getD 0
  | _ => w.cls

/-- The deadline stamp that a requester forms for a class (R276, R278). -/
def State.stampOf (s : State) (fn cls : Nat) : BitVec 16 :=
  BitVec.ofNat 16 (s.fab / Config.fabPerTick + max 1 (min 32767 (s.field (.scls fn) (16 * cls) 16)))

/-- A write enters the flow, with the class and stamp of its request. -/
def State.pushWrite (s : State) (w : Write) : State :=
  { s with writes := s.writes ++ [{ w with
      lzbit := s.lazyBit w.owner, cls := s.classOf w, stamp := s.stampOf (ownerFn w.owner) (s.classOf w) }] }

/-- A read of a run of bytes asks the shared cache for its sectors (R276). -/
def State.want (s : State) (fn cls pa n : Nat) : State :=
  { s with wants := s.wants ++ ((sectorRun pa n).filter (fun k => regionOf (64 * k) != .domain)).map (fun k =>
      ⟨fn, 64 * k, cls, s.stampOf fn cls⟩) }

/-- A write by a unit of a function, such as a packet or the walker. -/
def unitWrite (id : Nat) (w : Writer) (fn pa : Nat) (bytes : List Byte) (isLazy peer : Bool) : Write :=
  { id := id, by_ := w, owner := ownerCode fn, space := if peer then .peer else .global, va := pa, pa := pa
    bytes := bytes, kind := .pma, stage := .issued, atom := none, lazy := isLazy
    pc := 0, grp := 0, tag := none, sent := 0, old := none, core := none }

/-- A write of a unit waits at its home slice: for its view (R162), for a commit mark (R312), or behind one that waits. -/
def State.unitHeld (s : State) (pa n : Nat) : Bool :=
  s.viewBusy pa || s.marked (pa / 128) none false ||
    s.writes.any (fun (w : Write) => w.stage == .issued && decide (w.pa < pa + n) && decide (pa < w.pa + w.bytes.length) &&
      match w.by_ with
      | .unit _ => true
      | _ => false)

/-- A unit writes stored bytes under an owner code, with a class for its request: performed at their home slice at once unless
they must wait there, then on their way as any write (R162, R263, R264, R276, R300, R312; log 16). -/
def State.writeUnit (s : State) (owner cls pa : Nat) (bytes : List Byte) : State :=
  let (id, s0) := s.newId
  let w := { unitWrite id (.unit (ownerFn owner)) (ownerFn owner) pa bytes (s.lazyOwner owner) false with
    owner := owner, cls := cls }
  if s.unitHeld pa bytes.length then s0.pushWrite w else (s0.writeHome pa bytes).pushWrite { w with stage := .home }

end Sys2Proof.Machine
end

