-- ==== Sys2Proof/Machine/Translate.lean ====
section
/-!
DEFINITION. Translation and access checks (R188 to R197): the two-stage walk, the cluster TLB, the physical
map and the frame owners.
-/
namespace Sys2Proof.Machine
open Sys2Proof

/-- What an access needs of a page (R189). -/
inductive Need where
  | read | write | fetch
  deriving DecidableEq, Repr

/-- The permission bits that a page request carries (Table 19-5). -/
def Need.bits : Need → Nat
  | .read => 1
  | .write => 3
  | .fetch => 4

/-- A virtual address is canonical when bits [63:57] equal bit 56 (R185). -/
def canonical (va : Nat) : Bool := va / 2 ^ 56 == 0 || va / 2 ^ 56 == 255

/-- A leaf of a page table. -/
structure Leaf where
  entry : Nat
  pte : Nat
  base : Nat
  size : Nat
  r : Bool
  w : Bool
  x : Bool
  pbmt : Nat
  deriving DecidableEq, Repr

/-- What a page-table entry is. -/
inductive Pte where
  | absent
  | bad
  | table (next : Nat)
  | leaf (l : Leaf)
  deriving DecidableEq, Repr

/-- Bytes that a leaf of a level maps (R189). -/
def levelSize (lvl : Nat) : Nat := 4096 * 512 ^ lvl

/-- Classifies an entry at a level (R188, R189). A leaf of the first stage must have U = 1. -/
def pteKind (first : Bool) (lvl entry pte : Nat) : Pte :=
  let b (n : Nat) : Bool := bitOf pte n
  let ppn := pte / 2 ^ 10 % 2 ^ 44
  let pbmt := pte / 2 ^ 61 % 4
  if !b 0 then .absent
  else if pte / 2 ^ 54 % 2 ^ 7 ≠ 0 ∨ (b 2 && !b 1) then .bad
  else if !b 1 && !b 2 && !b 3 then
    if lvl = 0 then .absent
    else if b 4 || b 6 || b 7 || b 63 || pbmt != 0 then .bad
    else .table (ppn * 4096)
  else if 3 ≤ lvl ∨ (first && !b 4) ∨ pbmt = 3 then .bad
  else if b 63 then
    if lvl = 0 ∧ ppn % 16 = 8 then
      .leaf ⟨entry, pte, ppn / 16 * 65536, 65536, b 1, b 2, b 3, pbmt⟩
    else .bad
  else if ppn * 4096 % levelSize lvl ≠ 0 then .bad
  else .leaf ⟨entry, pte, ppn * 4096, levelSize lvl, b 1, b 2, b 3, pbmt⟩

/-- What a part of a walk gives, and the entries that it has read, in order. -/
structure Walked (α : Type) where
  out : Except Cause α
  seen : List Nat

/-- A walk goes on with what a part of it gives. -/
def Walked.bind {α β : Type} (x : Walked α) (f : α → Walked β) : Walked β :=
  match x.out with
  | .error c => ⟨.error c, x.seen⟩
  | .ok a => ⟨(f a).out, x.seen ++ (f a).seen⟩

/-- Reads an entry at its home slice (R188, R190): a domain address of this device is its local one. An entry in the view
aperture or in another device's memory is PERM, and no owner is asked for the frame of a table (log 122). -/
def State.readPte (s : State) (pa0 : Nat) : Walked Nat :=
  let pa := s.localPa pa0
  if regionOf pa = .hbm ∨ regionOf pa = .capacity then
    ⟨if s.runBad pa 8 then .error .poison else .ok (s.valueAt pa 8), [pa]⟩
  else ⟨.error .perm, []⟩

/-- The second-stage walk of a guest-physical address (Sv57x4). -/
def State.gWalk (s : State) (gpa : Nat) : Nat → Nat → Walked Leaf
  | 0, tbl =>
    let e := s.localPa (tbl + gpa / 4096 % 512 * 8)
    (s.readPte e).bind (fun v => match pteKind false 0 e v with
      | .leaf l => ⟨.ok l, []⟩
      | .bad => ⟨.error .perm, []⟩
      | _ => ⟨.error .page, []⟩)
  | lvl + 1, tbl =>
    let idx := gpa / levelSize (lvl + 1) % (if lvl = 3 then 2048 else 512)
    let e := s.localPa (tbl + idx * 8)
    (s.readPte e).bind (fun v => match pteKind false (lvl + 1) e v with
      | .leaf l => ⟨.ok l, []⟩
      | .table n => s.gWalk gpa lvl n
      | .bad => ⟨.error .perm, []⟩
      | .absent => ⟨.error .page, []⟩)

/-- The permission for a need (R189): stores need R and W. -/
def Leaf.allows (l : Leaf) : Need → Bool
  | .read => l.r
  | .write => l.r && l.w
  | .fetch => l.x

/-- An address through one stage, and the leaf used, if any. -/
def Leaf.map (l : Leaf) (a : Nat) : Nat := l.base + a % l.size

/-- The second stage of function `fn` (R188, R191): Bare passes the address through. The root table lies at FHGATP.PPN as it
stands, whatever its low two bits (log 122). -/
def State.stage2 (s : State) (fn gpa : Nat) (need : Need) : Walked (Nat × Option Leaf) :=
  if s.field (.fhgatp fn) 60 4 = 0 then ⟨.ok (gpa, none), []⟩
  else if 2 ^ 59 ≤ gpa then ⟨.error .perm, []⟩
  else (s.gWalk gpa 4 (s.field (.fhgatp fn) 0 44 * 4096)).bind (fun l =>
    ⟨if l.allows need then .ok (l.map gpa, some l) else .error .page, []⟩)

/-- The first-stage walk (Sv57); each table lies at a guest-physical address. It gives the leaf and the
second-stage leaves that the walk used. -/
def State.vWalk (s : State) (fn va : Nat) : Nat → Nat → List Leaf → Walked (Leaf × List Leaf)
  | 0, tbl, used =>
    (s.stage2 fn (tbl + va / 4096 % 512 * 8) .read).bind (fun x =>
      (s.readPte x.1).bind (fun v => match pteKind true 0 (s.localPa x.1) v with
        | .leaf l => ⟨.ok (l, used ++ x.2.toList), []⟩
        | .bad => ⟨.error .perm, []⟩
        | _ => ⟨.error .page, []⟩))
  | lvl + 1, tbl, used =>
    (s.stage2 fn (tbl + va / levelSize (lvl + 1) % 512 * 8) .read).bind (fun x =>
      (s.readPte x.1).bind (fun v => match pteKind true (lvl + 1) (s.localPa x.1) v with
        | .leaf l => ⟨.ok (l, used ++ x.2.toList), []⟩
        | .table n => s.vWalk fn va lvl n (used ++ x.2.toList)
        | .bad => ⟨.error .perm, []⟩
        | .absent => ⟨.error .page, []⟩))

/-- A translation: the address, the page and what the TLB entry keeps (R194). -/
structure Xlat where
  pa : Nat
  /-- The size of the page: the smaller one of two stages, 4 KiB where both are Bare. -/
  size : Nat
  r : Bool
  w : Bool
  x : Bool
  dirty : Bool
  kind : Pbmt
  /-- Entries whose A bit the access sets, and whether it sets D too (R188, log 97). -/
  touched : List (Leaf × Bool)
  deriving DecidableEq, Repr

/-- The ordering kind of a PBMT code (Table 11-3). -/
def kindOf (pbmt : Nat) : Pbmt := if pbmt = 1 then .nc else if pbmt = 2 then .io else .pma

/-- The access sets a bit of the first-stage leaf that is not set yet (R188). -/
def Leaf.updated (l : Leaf) (d : Bool) : Bool := !bitOf l.pte 6 || (d && !bitOf l.pte 7)

/-- The page, permissions and ordering kind of two leaves (R188 to R190), with the entries whose A and D bits the access
sets; `used` are the second-stage leaves of the first-stage tables. -/
def xlatOf (pa : Nat) (need : Need) (l1 l2 : Option Leaf) (used : List Leaf) : Xlat :=
  let ls := l1.toList ++ l2.toList
  let pb1 := (l1.map (·.pbmt)).getD 0
  let pb2 := (l2.map (·.pbmt)).getD 0
  let d := need == .write
  let up := (l1.map (·.updated d)).getD false
  let n := (ls.map (·.size)).foldl (fun m n => if m = 0 then n else min m n) 0
  { pa := pa, size := if n = 0 then 4096 else n
    r := ls.all (·.r), w := ls.all (·.w), x := ls.all (·.x)
    dirty := d
    kind := kindOf (if pb1 ≠ 0 then pb1 else pb2)
    touched := ls.map (fun l => (l, d)) ++ used.zipIdx.map (fun x => (x.1, up && x.2 + 1 == used.length)) }

/-- A walk of both stages (R188 to R190). -/
def State.walk (s : State) (fn va : Nat) (need : Need) : Walked Xlat :=
  let first : Walked (Nat × Option Leaf × List Leaf) :=
    if s.field (.fsatp fn) 60 4 = 0 then ⟨.ok (va, none, []), []⟩
    else (s.vWalk fn va 4 (s.field (.fsatp fn) 0 44 * 4096) []).bind (fun x =>
      ⟨if x.1.allows need then .ok (x.1.map va, some x.1, x.2) else .error .page, []⟩)
  first.bind (fun x => (s.stage2 fn x.1 need).bind (fun y => ⟨.ok (xlatOf y.1 need x.2.1 y.2 x.2.2), []⟩))

/-- A walk reads an entry (R188): by a request of the latency class (R276), a lost unit's stripe drained first (R265); a bad
sector is poisoned and logged (R272, R350). -/
def State.sawEntry (s : State) (fn pa : Nat) : State :=
  let s1 := (s.drained pa).want fn 0 pa 8
  if s1.runBad pa 8 then s1.meetPoison pa 8 else s1

/-- A walk has read its entries. -/
def State.sawEntries (s : State) (fn : Nat) (seen : List Nat) : State := seen.foldl (fun s pa => s.sawEntry fn pa) s

/-- Sets A, and D for a store, in an entry at its home slice, for a function (R188). -/
def State.touchPte (s : State) (fn : Nat) (l : Leaf) (d : Bool) : State :=
  let v := (BitVec.ofNat 64 (s.valueAt l.entry 8)) ||| (if d then 0xC0 else 0x40)
  if v.toNat = s.valueAt l.entry 8 then s
  else if s.unitHeld l.entry 8 then
    let (id, s0) := s.newId
    s0.pushWrite { unitWrite id (.unit fn) fn l.entry (List.replicate 8 0) (s.lazyFor fn) false with
      atom := some { op := 4, ty := .b64, b := v, c := 0, d := none, acq := .none } }
  else s.writeUnit (ownerCode fn) 0 l.entry (leBytes 8 v.toNat)

/-- The TLB entry of a cluster that translates an address for a function (R194). -/
def State.tlbHit (s : State) (cluster fn va : Nat) : Option TlbEntry :=
  s.tlb.find? (fun e => e.cluster == cluster && e.vmid == s.field (.fhgatp fn) 44 14 &&
    e.asid == s.field (.fsatp fn) 44 16 && e.va / e.size == va / e.size)

/-- Whether a TLB entry serves a need without another walk. -/
def TlbEntry.serves (e : TlbEntry) : Need → Bool
  | .read => e.r
  | .write => e.r && e.w && e.dirty
  | .fetch => e.x

/-- Places an entry; the oldest leaves when the TLB of the cluster is full (R194). -/
def State.tlbFill (s : State) (e : TlbEntry) : State :=
  let rest := s.tlb.filter (fun o => !(o.cluster == e.cluster && o.vmid == e.vmid && o.asid == e.asid &&
    o.va == e.va && o.size == e.size))
  let mine := rest.filter (·.cluster == e.cluster)
  let rest' := if mine.length < Config.tlbEntries then rest
    else match mine with
      | o :: _ => rest.erase o
      | [] => rest
  { s with tlb := rest' ++ [e] }

/-- What a permitted access goes on with. -/
structure Target where
  pa : Nat
  kind : Pbmt
  peer : Bool
  deriving DecidableEq, Repr

/-- The checks on a translated address (R165, R189, R190, R195). -/
def State.checkPa (s : State) (fn : Nat) (need : Need) (atomic : Bool) (kind : Pbmt) (owner : Option Nat)
    (pa0 : Nat) : Except Cause Target :=
  if 2 ^ 52 ≤ pa0 then .error .perm
  else
    let pa := s.localPa pa0
    if need = .fetch ∧ kind = .io then .error .perm
    else match regionOf pa with
      | .none => .error .perm
      | .domain =>
        if s.rank = none ∨ 320 ≤ rankOfPa pa then .error .perm
        else .ok ⟨pa, kind, true⟩
      | .capacity => if s.inCodes pa then .error .perm else .ok ⟨pa, kind, false⟩
      | .view =>
        if s.viewOf pa = none ∨ atomic then .error .perm
        else if !s.ownedBy (ownerCode fn) pa then .error .owner
        else .ok ⟨pa, kind, false⟩
      | .hbm =>
        if s.inCodes pa then .error .perm
        else if (owner.getD 255) ≠ ownerCode fn then .error .owner
        else .ok ⟨pa, kind, false⟩

/-- Translates and checks an access of a function at a cluster (R188 to R197). A walk fills the TLB. -/
def State.translate (s : State) (cluster fn va : Nat) (need : Need) (atomic : Bool) :
    Except Cause Target × State :=
  if !canonical va then (.error .perm, s)
  else
    let hit := (s.tlbHit cluster fn va).filter (·.serves need)
    match hit with
    | some e =>
      (s.checkPa fn need atomic e.kind (some e.owner) (e.pa + (va - e.va)), s)
    | none =>
      let w := s.walk fn va need
      let s0 := s.sawEntries fn w.seen
      match w.out with
      | .error c => (.error c, s0)
      | .ok x =>
        let s1 := x.touched.foldl (fun s l => s.touchPte fn l.1 l.2) s0
        let lpa := s1.localPa x.pa
        let n := min x.size 65536
        let e : TlbEntry := {
          cluster := cluster, vmid := s.field (.fhgatp fn) 44 14, asid := s.field (.fsatp fn) 44 16
          page := va - va % x.size, psize := x.size
          va := va - va % n, size := n, pa := x.pa - x.pa % n
          r := x.r, w := x.w, x := x.x, dirty := x.dirty, kind := x.kind
          owner := (s1.ownerAt lpa).getD 0 }
        (s1.checkPa fn need atomic x.kind (s1.ownerAt lpa) x.pa, s1.tlbFill e)

end Sys2Proof.Machine
end

