-- ==== Sys2Proof/Machine/Ops.lean ====
section
/-!
DEFINITION. The named operations that meanings are written over: crews and threads, register reads and
writes, the issue of an instruction by the members of a group, faults and the crew save they begin,
transaction aborts, releases and acquires, the L1, and accesses in flight.
-/
namespace Sys2Proof.Machine
open Sys2Proof

/-! ## Threads -/

/-- The value of a general register; `gz` reads as zero (R87). -/
def Thread.reg (t : Thread) (i : BitVec 7) : Word := if i = 127 then 0 else t.regs.get i.toNat

/-- Writes a general register; `gz` discards (R87). -/
def Thread.setReg (t : Thread) (i : BitVec 7) (v : Word) : Thread :=
  if i = 127 then t else { t with regs := t.regs.set i.toNat v }

/-- The value of a pair; `gz` alone reads as 64 zero bits (R88). -/
def Thread.pair (t : Thread) (i : BitVec 7) : DWord :=
  if i = 127 then 0 else t.regs.get (i.toNat + 1) ++ t.regs.get i.toNat

/-- Writes a pair, low half in the even register (R88). -/
def Thread.setPair (t : Thread) (i : BitVec 7) (v : DWord) : Thread :=
  if i = 127 then t
  else { t with regs := (t.regs.set i.toNat (v.extractLsb' 0 32)).set (i.toNat + 1) (v.extractLsb' 32 32) }

/-- A predicate; 7 names pt (R87). -/
def Thread.pred (t : Thread) (p : BitVec 3) : Bool := if p = 7 then true else t.preds.get p.toNat

/-- Writes a predicate; pt discards (R87). -/
def Thread.setPred (t : Thread) (p : BitVec 3) (v : Bool) : Thread :=
  if p = 7 then t else { t with preds := t.preds.set p.toNat v }

/-- Writes a list of registers from index `d` up; index 127 is `gz` and discards. -/
def Thread.setRegs (t : Thread) (d : Nat) (vs : List Word) : Thread :=
  if d = 127 then t else { t with regs := t.regs.setList d vs }

/-- Marks registers empty or full (R89). -/
def Thread.mark (t : Thread) (rs : List Nat) (e : Bool) : Thread :=
  { t with empty := rs.foldl (fun m r => m.set r e) t.empty }

/-- Whether every register of a list is full (R89). -/
def Thread.full (t : Thread) (rs : List Nat) : Bool := rs.all (fun r => !t.empty.get r)

/-- The thread goes on at `pc`; its age restarts (R109). -/
def Thread.advance (t : Thread) (pc : Addr) : Thread := { t with pc := pc, age := 0, status := .runnable }

/-- The thread waits at its instruction (Table 7-1). -/
def Thread.wait (t : Thread) : Thread := { t with age := 0, status := .waiting }

/-- The thread is held at its instruction; its age stays (Table 7-1, R109). -/
def Thread.hold (t : Thread) : Thread := { t with status := .held }

/-- The thread stands runnable at its instruction, to execute it once its crew goes on (R344). -/
def Thread.stand (t : Thread) : Thread := { t with age := 0, status := .runnable }

/-- A thread that has not exited (R105). -/
def Thread.live (t : Thread) : Bool := t.status != .exited

/-- The guard (R84). -/
def Thread.guardOn (t : Thread) (g : Guard) : Bool := t.pred g.pred != g.neg

/-- Lane and band of a position (R104). -/
def laneOf (pos : Nat) : Nat := pos % 32
def bandOf (pos : Nat) : Nat := pos / 32

/-- The program-order successor (R85): the last word of a block is never fetched. -/
def successor (pc : Addr) (n : Nat) : Addr :=
  let next := pc + BitVec.ofNat 64 n
  if next.toNat % 32 = 28 then next + 4 else next

/-- General registers that an instruction writes, and those it reads with their EW bits. -/
structure Uses where
  dst : List Nat
  srcs : List (List Nat × Bool)
  deriving DecidableEq, Repr

/-- The registers an instruction names by its encoding row. -/
def usesOf (i : Instr) : Uses :=
  match i.fields, i.shape with
  | some f, some s =>
    { dst := s.d.regs f.d
      srcs := [((s.src f .a s.a).regs f.a, f.ew.getLsbD 0), ((s.src f .b s.b).regs f.b, f.ew.getLsbD 1),
        ((s.src f .c s.c).regs f.c, f.ew.getLsbD 2)] }
  | _, _ => { dst := [], srcs := [] }

/-- What stands before the issue of an instruction by a thread (R84, R89). -/
inductive Ready where
  /-- The guard is false. -/
  | off
  /-- An empty source with EW = 0, or an empty destination. -/
  | wait
  /-- An empty source with EW = 1: EMPTYREG. -/
  | trap
  | go
  deriving DecidableEq, Repr

/-- Full and empty registers of an instruction's uses (R89). -/
def Uses.ready (u : Uses) (t : Thread) : Ready :=
  if !t.full u.dst || u.srcs.any (fun s => !s.2 && !t.full s.1) then .wait
  else if u.srcs.any (fun s => s.2 && !t.full s.1) then .trap
  else .go

/-- The guard, then the registers (R84, R89, R95). -/
def Thread.ready (t : Thread) (g : Guard) (u : Uses) : Ready :=
  if t.guardOn g then u.ready t else .off

/-! ## Crews -/

/-- A crew's thread. -/
def Crew.thread (c : Crew) (tid : Nat) : Option Thread := c.threads.get tid

/-- Writes a crew's thread. -/
def Crew.putThread (c : Crew) (tid : Nat) (t : Thread) : Crew := { c with threads := c.threads.set tid (some t) }

/-- Changes every thread of a crew. -/
def Crew.mapThreads (c : Crew) (f : Nat → Thread → Thread) : Crew :=
  { c with threads := c.threads.map (fun e => (e.1, e.2.map (f e.1))) }

/-- The threads of a crew, by thread index. -/
def Crew.threadList (c : Crew) : List (Nat × Thread) :=
  c.threads.filterMap (fun e => e.2.map (fun t => (e.1, t)))

/-- The live threads of a crew. -/
def Crew.liveThreads (c : Crew) : List (Nat × Thread) := c.threadList.filter (fun e => e.2.live)

/-- The core of a resident crew. -/
def Crew.core (c : Crew) : Nat := (c.loc.map (·.1)).getD 0
/-- The context of a resident crew. -/
def Crew.context (c : Crew) : Nat := (c.loc.map (·.2)).getD 0
/-- The cluster of a resident crew: four cores each (R8). -/
def Crew.cluster (c : Crew) : Nat := c.core / 4

/-- The scope of a crew's nest (R25): the widest scope of its levels. -/
def NestRec.scope (r : NestRec) : Nat := r.levels.foldl (fun m l => max m l.scope) 0

def State.crew (s : State) (c : Nat) : Option Crew := s.crews.get c

def State.putCrew (s : State) (c : Nat) (cr : Crew) : State := { s with crews := s.crews.set c (some cr) }

def State.dropCrew (s : State) (c : Nat) : State := { s with crews := s.crews.set c none }

/-- Changes a crew, if it exists. -/
def State.onCrew (s : State) (c : Nat) (f : Crew → Crew) : State :=
  match s.crew c with
  | some cr => s.putCrew c (f cr)
  | none => s

/-- The crews, with their numbers. -/
def State.crewList (s : State) : List (Nat × Crew) := s.crews.filterMap (fun e => e.2.map (fun c => (e.1, c)))

def State.thread (s : State) (r : ThreadRef) : Option Thread := (s.crew r.crew).bind (·.thread r.tid)

/-- Writes a thread of an existing crew. -/
def State.putThread (s : State) (r : ThreadRef) (t : Thread) : State :=
  s.onCrew r.crew (fun c => c.putThread r.tid t)

/-- Changes a thread, if it exists. -/
def State.onThread (s : State) (r : ThreadRef) (f : Thread → Thread) : State :=
  match s.thread r with
  | some t => s.putThread r (f t)
  | none => s

/-- The core on which a thread runs. -/
def State.coreOf (s : State) (r : ThreadRef) : Option Nat := (s.crew r.crew).bind (fun c => c.loc.map (·.1))

/-- The function of a crew. -/
def State.fnOf (s : State) (c : Nat) : Nat := ((s.crew c).map (·.fn)).getD 64

/-- Arithmetic cycles since the core left reset, as %clock counts them (R9, Table 8-7). -/
def State.clock (s : State) : Nat := (s.fab - s.coreReset) / Config.fabPerCycle
/-- The 100 MHz timestamp (R9). -/
def State.time (s : State) : Nat := s.fab / Config.fabPerTick

/-! ## Functions, clusters, walkers -/

def State.func (s : State) (fn : Nat) : FuncSt := s.funcs.get fn
def State.onFunc (s : State) (fn : Nat) (f : FuncSt → FuncSt) : State := { s with funcs := s.funcs.upd fn f }
def State.part (s : State) (p : Nat) : PartSt := s.parts.get p
def State.onPart (s : State) (p : Nat) (f : PartSt → PartSt) : State := { s with parts := s.parts.upd p f }
def State.cluster (s : State) (k : Nat) : ClusterSt := s.clusters.get k
def State.onCluster (s : State) (k : Nat) (f : ClusterSt → ClusterSt) : State :=
  { s with clusters := s.clusters.upd k f }
def State.walker (s : State) (p : Nat) : Walker := s.walkers.get p
def State.onWalker (s : State) (p : Nat) (f : Walker → Walker) : State := { s with walkers := s.walkers.upd p f }
def State.logs (s : State) (e : LogEntry) : State := { s with log := s.log ++ [e] }

/-- Sends the MSI-X message of a vector as its table entry says (R36, R352). -/
def State.sendMsi (s : State) (fn vector : Nat) : State :=
  { s with msix := s.msix ++ [⟨fn, vector, s.reg (.msiAddr fn vector), (s.reg (.msiData fn vector)).setWidth 32⟩] }

/-- A function raises an MSI-X vector: a masked one becomes pending (R36, log 98). -/
def State.msi (s : State) (fn vector : Nat) : State :=
  if s.field (.msiCtl fn vector) 0 1 = 1 then s.setField (.msiPba fn) vector 1 1 else s.sendMsi fn vector

/-- PCFG.ERR (Table 5-3). -/
def State.pcfgErr (s : State) : State := s.setField .pcfg 30 1 1

/-- The generation of a function, FSTAT.GEN (Table 3-2). -/
def State.genOf (s : State) (fn : Nat) : Nat := s.field (.fstat fn) 8 8

/-- The share of the walker of a function: its partition's walker while it runs (R62). -/
def State.shareOf (s : State) (fn : Nat) : Walker :=
  if (s.part (s.partOf fn)).running = some fn then s.walker (s.partOf fn) else (s.func fn).share

/-- The share of the walker that holds a function's nests: its partition's walker while the function runs (R62). -/
def State.onShare (s : State) (fn : Nat) (f : Walker → Walker) : State :=
  if (s.part (s.partOf fn)).running = some fn then s.onWalker (s.partOf fn) f
  else s.onFunc fn (fun q => { q with share := f q.share })

/-! ## Transactions: the abort (R314) -/

/-- Whether an abort cause raises COUNT (Table 17-5). -/
def abortCounts (cause : Nat) : Bool := cause != 4 && cause != 8 && cause != 9

/-- The abort of a thread's transaction (R314, R317): logs discarded, cause recorded, on at the target. -/
def Thread.abort (t : Thread) (cause ucode fcode : Nat) : Thread :=
  { t with
    pc := t.tx.target, age := 0, status := .runnable
    txcause := BitVec.ofNat 32 (cause + 2 ^ 8 * ucode + 2 ^ 16 * fcode)
    tx := { t.tx with
      state := .outside, reads := [], writes := [], pact := []
      count := if abortCounts cause then min 255 (t.tx.count + 1) else t.tx.count
      mask := t.tx.mask ||| BitVec.ofNat 9 (2 ^ (cause - 1)) } }

/-- The registers that a load fills (R204). -/
def Load.regs (l : Load) : List Nat :=
  if l.d = 127 then [] else (List.range (l.count * (if 8 ≤ l.width then 2 else 1))).map (l.d + ·)

/-- Destinations of a load turn full, holding zero (R314, R390). -/
def Thread.zeroLoad (t : Thread) (l : Load) : Thread :=
  (t.setRegs l.d (l.regs.map (fun _ => 0))).mark l.regs false

/-- The crew collectives (R111). -/
def isCrewColl : Instr → Bool
  | .meld _ | .barc _ => true
  | _ => false

/-- The rendezvous at which a thread stands: its band's number, or 32 for the crew's (R111). -/
def Thread.rendKey (t : Thread) : Option Nat :=
  match t.status with
  | .rendezvous i _ => some (if isCrewColl i then 32 else bandOf t.pos)
  | _ => none

/-- A rendezvous at which no thread stands any more has no first arrival (R114). -/
def Crew.pruneRend (c : Crew) : Crew :=
  { c with rend := c.rend.filter (fun e => c.threadList.any (fun t => t.2.rendKey == some e.1)) }

/-- Aborts a thread's transaction; its transactional loads in flight are discarded, its commit marks clear, and it leaves a
rendezvous (R310, R314). -/
def State.abortTx (s : State) (r : ThreadRef) (cause ucode fcode : Nat) : State :=
  let gone := s.loads.filter (fun l => l.who == r && l.tx)
  let s1 := { s with loads := s.loads.filter (fun l => !(l.who == r && l.tx)), marks := s.marks.filter (fun m => m.who != r) }
  let s2 := s1.onThread r (fun t => (gone.foldl Thread.zeroLoad t).abort cause ucode fcode)
  match (s.thread r).bind (·.rendKey) with
  | some _ => s2.onCrew r.crew (·.pruneRend)
  | none => s2

/-! ## Taking a fault: the crew save it begins (R107, R343, R344) -/

/-- The code of a cause (Table 19-1). -/
def causeCode : Cause → Nat
  | .none => 0 | .illegal => 1 | .fetchAlign => 2 | .align => 3 | .page => 4 | .perm => 5 | .owner => 6
  | .privLimit => 7 | .emptyReg => 8 | .poison => 9 | .peerFault => 10 | .peerTimeout => 11
  | .bandWait => 12 | .engReset => 13 | .cardBad => 14 | .layoutBad => 15 | .nestBad => 16
  | .queueBad => 17 | .trap => 0x20 | .brk => 0x21

/-- A save for a slice end, a revocation or a thermal halt: kinds 3, 4 and 5 carry no cause (R343). -/
def plainSave (kind : Nat) : SaveReq :=
  { kind := kind, cause := .none, code := 0, tid := none, pc := 0, faddr := 0, faulters := []
    next := 0, deferred := false, dest := [] }

/-- The save request of a fault. -/
def faultSave (cause : Cause) (code : Nat) (tid : Option Nat) (pc faddr next : Addr) (deferred : Bool) : SaveReq :=
  { kind := if cause = .page then 1 else 2, cause := cause, code := code, tid := tid, pc := pc
    faddr := faddr, faulters := tid.toList, next := next, deferred := deferred, dest := [] }

/-- Adds a fault to the save of a crew: the first fault decides the cause, a fault turns another save into a
fault save, later faulting members of the issue are kept for RESUME and SKIP, and a save serves every later
trigger (R74, R107, R344, R354). -/
def mergeSave (old : Option SaveReq) (new : SaveReq) : SaveReq :=
  match old with
  | none => new
  | some o =>
    if 3 ≤ new.kind then o
    else if o.kind = 1 ∨ o.kind = 2 then { o with
      faulters := o.faulters ++ new.faulters, dest := if o.zeroed.isEmpty ∧ new.pc = o.pc then new.dest else o.dest
      zeroed := o.zeroed ++ (if new.pc = o.pc then new.zeroed else []) }
    else new

/-- A save begins for a crew: from here on its threads issue nothing (R344). -/
def State.beginSave (s : State) (c : Nat) (q : SaveReq) : State :=
  s.onCrew c (fun cr => { cr with save := some (mergeSave cr.save q) })

/-- Takes a fault of a thread at its instruction. A Transactional thread aborts with FAULT instead (R308);
otherwise the thread stays at the instruction and its crew is to be saved with the cause (R107, R344). -/
def State.raiseCode (s : State) (r : ThreadRef) (cause : Cause) (code : Nat) (faddr : Addr) : State :=
  match s.thread r with
  | none => s
  | some t =>
    if t.tx.state = .transactional then s.abortTx r 5 0 (causeCode cause)
    else (s.putThread r t.stand).beginSave r.crew (faultSave cause code (some r.tid) t.pc faddr s.cur.next false)

/-- Takes a fault that carries no code. -/
def State.raise (s : State) (r : ThreadRef) (cause : Cause) (faddr : Addr := 0) : State := s.raiseCode r cause 0 faddr

/-- Takes a fault of the crew as a whole, such as BANDWAIT (R114, R308). -/
def State.raiseCrew (s : State) (c : Nat) (cause : Cause) (tid : Option Nat) (pc : Addr) : State :=
  s.beginSave c { faultSave cause 0 tid pc 0 0 false with faulters := [] }

/-- A fault that comes with the answer to an access, after the thread has run on (R390). `next` is zero but
where the thread still stands at the instruction, for SKIP to go on at with the registers `dest` full and zero. -/
def State.raiseDeferred (s : State) (r : ThreadRef) (cause : Cause) (pc faddr next : Addr) (dest : List Nat := []) : State :=
  match s.thread r with
  | none => s
  | some t =>
    if t.tx.state = .transactional then s.abortTx r 5 0 (causeCode cause)
    else s.beginSave r.crew { faultSave cause (if cause = .page then Need.read.bits else 0) (some r.tid) pc faddr next true with
      faulters := if next = 0 then [] else [r.tid], dest := dest, zeroed := if next = 0 ∨ dest = [] then [] else [r.tid] }

/-! ## Issue (R106, R107) -/

/-- Inserts by a key, keeping the list sorted. -/
def insertBy {α : Type} (key : α → Nat) (x : α) : List α → List α
  | [] => [x]
  | y :: ys => if key x < key y then x :: y :: ys else y :: insertBy key x ys

/-- Sorts by a key, stably. -/
def sortBy {α : Type} (key : α → Nat) (l : List α) : List α := l.foldl (fun acc x => insertBy key x acc) []

/-- What one member of the issue group does: guard, registers, then the instruction's own execution (R84,
R89, R95). -/
def State.member (s : State) (i : Instr) (g : Guard) (body : State → ThreadRef → Thread → State) (tid : Nat) :
    State :=
  let r : ThreadRef := ⟨s.cur.crew, tid⟩
  match s.thread r with
  | none => s
  | some t =>
    match t.ready g (usesOf i) with
    | .off => s.putThread r (t.advance s.cur.next)
    | .wait => s.putThread r t.wait
    | .trap => s.raise r .emptyReg
    | .go => body s r t

/-- The members of the group execute an instruction. Where no rule gives an order (R6), ascending position is the model's
choice: of trump requests, of transaction-log entries, of BINITs of one object (log 102). -/
def State.issue (s : State) (i : Instr) (g : Guard) (body : State → ThreadRef → Thread → State) : State :=
  s.cur.members.foldl (fun s tid => s.member i g body tid) s

/-- A thread that waits or is held at its instruction (Table 7-1). -/
def stuck : Status → Bool
  | .waiting | .held | .waitingSince _ | .behind _ _ => true
  | _ => false

/-- A thread that its unit refuses (Table 7-1). -/
def refusedWork : Status → Bool
  | .held | .behind true _ => true
  | _ => false

/-- The thread waits behind the members `tids` of its issue; a unit that refuses them refuses it too, and it keeps its age
as they do (Table 7-1, R109). -/
def Thread.follow (t : Thread) (isHeld : Bool) (tids : List Nat) : Thread :=
  { t with age := if isHeld then t.age else 0, status := .behind isHeld tids }

/-- The members execute an instruction whose effects take place in ascending position (R146, R205, R206, R212): those that
come after a member that has read its registers and must wait stand behind it until it has gone on. -/
def State.issueOrdered (s : State) (i : Instr) (g : Guard) (body : State → ThreadRef → Thread → State) : State :=
  (s.cur.members.foldl (fun (x : State × List Nat × Bool) tid =>
    let r : ThreadRef := ⟨x.1.cur.crew, tid⟩
    let s1 := x.1.member i g (if x.2.1.isEmpty then body else fun s r t => s.putThread r (t.follow x.2.2 x.2.1)) tid
    let waits := ((x.1.thread r).map (fun t => t.ready g (usesOf i) == .go)).getD false &&
      ((s1.thread r).map (fun t => stuck t.status)).getD false
    if waits then (s1, x.2.1 ++ [tid], ((s1.thread r).map (fun t => refusedWork t.status)).getD false) else (s1, x.2))
    (s, [], false)).1

/-- A register instruction: each member changes its own thread and goes on. -/
def State.regOp (s : State) (i : Instr) (g : Guard) (upd : Thread → Thread) : State :=
  s.issue i g (fun s r t => s.putThread r ((upd t).advance s.cur.next))

/-- The thread goes on at its successor. -/
def State.proceed (s : State) (r : ThreadRef) : State := s.onThread r (·.advance s.cur.next)

/-- The thread waits at its instruction. -/
def State.stay (s : State) (r : ThreadRef) : State := s.onThread r (·.wait)

/-- The thread stands runnable at its instruction. -/
def State.stand (s : State) (r : ThreadRef) : State := s.onThread r (·.stand)

/-- The thread is held at its instruction. -/
def State.heldAt (s : State) (r : ThreadRef) : State := s.onThread r (·.hold)

/-! ## The L1 and what a core sees (R193, R283) -/

/-- Cluster scope or wider (R288). -/
def wideScope : Scope → Bool
  | .cluster | .device | .domain | .system => true
  | _ => false

/-- Drops shared lines of a core's L1. -/
def State.dropL1 (s : State) (p : L1Line → Bool) : State := { s with l1 := s.l1.filter (fun l => !p l) }

/-- An acquire by a thread (R288): at cluster scope or wider every shared line of the core's L1 goes. -/
def State.acquire (s : State) (r : ThreadRef) (sc : Scope) : State :=
  match s.coreOf r with
  | some core => if wideScope sc then s.dropL1 (·.core == core) else s
  | none => s

/-- VMID and ASID of a function (Table 11-5). -/
def State.vmid (s : State) (fn : Nat) : Nat := s.field (.fhgatp fn) 44 14
def State.asid (s : State) (fn : Nat) : Nat := s.field (.fsatp fn) 44 16

/-- The L1 line of a core for a virtual line of a function (R193). -/
def State.l1Find (s : State) (core fn va : Nat) : Option L1Line :=
  s.l1.find? (fun l => l.core == core && l.vline == va / 128 && l.vmid == s.vmid fn && l.asid == s.asid fn)

/-- The sectors of a line that an access touches. -/
def sectorsOf (off n : Nat) : List Nat := (List.range ((off + n - 1) / 32 - off / 32 + 1)).map (off / 32 + ·)

/-- A line holds every sector of an access. -/
def L1Line.holds (l : L1Line) (off n : Nat) : Bool := (sectorsOf off n).all (fun k => l.valid.getLsbD k)

/-- The writes of a core's threads that have not reached their points of performance (R283). -/
def State.coreWrites (s : State) (core : Nat) : List Write :=
  s.writes.filter (fun w => w.stage == .issued && w.atom == none &&
    match w.by_ with
    | .thread r => s.coreOf r == some core
    | _ => false)

/-- Bytes of a line with the core's own unperformed stores over them. -/
def overlay (ws : List Write) (pa : Nat) (bytes : List Byte) : List Byte :=
  (List.range bytes.length).map (fun i =>
    ws.foldl (fun b w =>
      if w.pa ≤ pa + i ∧ pa + i < w.pa + w.bytes.length then w.bytes.getD (pa + i - w.pa) 0 else b)
      (bytes.getD i 0))

/-- Virtual address of an offset in a crew's private slot (R186). -/
def State.privAddr (s : State) (c : Crew) (off : Nat) : Nat :=
  s.field (.fpriv c.fn) 24 40 * 2 ^ 24 + c.privSlot.getD 0 * 2 ^ 24 + off

/-- The dirty private lines of a core: crew and virtual line (R187, R193). -/
def State.privLines (s : State) (core : Nat) : List (Nat × Nat) :=
  (s.crewList.filter (fun e => e.2.loc.map (·.1) == some core)).flatMap (fun e =>
    ((e.2.own.map (fun x => s.privAddr e.2 x.1 / 128)).dedup).map (fun l => (e.1, l)))

/-- PEERTO in fabric cycles; below 10 is read as 10 (Table 18-6). -/
def State.peerLimit (s : State) : Nat := max 10 (s.field .peerto 0 20) * Config.fabPerUs

/-- The cards that there are: in rings, with saved crews, in replay packets. -/
def State.allCards (s : State) : List Card :=
  s.cards ++ s.crewList.flatMap (fun e => e.2.cards ++ e.2.lineReplay.map (·.card))

/-- The tags of requests to peers that are under way. -/
def State.liveTags (s : State) : List Nat :=
  s.loads.filterMap (·.tag) ++ s.writes.filterMap (·.tag) ++ s.allCards.flatMap (fun k => k.asks.map (·.tag)) ++
    s.funcs.flatMap (fun f => f.2.allPackets.filterMap (fun p => p.ask.map (·.tag))) ++ s.strays.filterMap (·.tag)

/-- The tags that may not be used again: of requests under way or just over, and for a further PEERTO of requests that have
timed out (R335). -/
def State.tagsInUse (s : State) : List Nat :=
  s.liveTags ++ s.posted ++ (s.expired.filter (fun e => decide (s.fab < e.2 + s.peerLimit))).map (·.1)

/-- The first tag at or after `t` that is not in use; as many are tried as are in use. -/
def freeTag (used : List Nat) : Nat → Nat → Nat
  | 0, t => t % 65536
  | n + 1, t => if used.contains (t % 65536) then freeTag used n (t + 1) else t % 65536

/-- A tag for a request to a peer, none for another access (Table 18-2, R335). -/
def State.tagFor (s : State) (peer : Bool) : Option Nat :=
  if peer then some (freeTag s.tagsInUse s.tagsInUse.length s.nextId) else none

/-- Bytes with their addresses as runs, each inside one sector of 64 bytes. -/
def sectorRuns : List (Nat × Byte) → List (Nat × List Byte)
  | [] => []
  | x :: xs =>
    match sectorRuns xs with
    | [] => [(x.1, [x.2])]
    | r :: rs => if x.1 + 1 = r.1 ∧ r.1 % 64 ≠ 0 then (x.1, x.2 :: r.2) :: rs else (x.1, [x.2]) :: r :: rs

/-- Dirty private bytes of one sector are written to memory (R187). The home slice checks the owner and the view again; bytes that
it turns away are lost, since no thread waits for them (R195, log 126). -/
def State.privOut (s : State) (fn pa : Nat) (bytes : List Byte) : State :=
  if !s.ownedBy (ownerCode fn) pa || s.inCodes pa then s
  else
    let (a, bs) := s.stored pa bytes
    s.writeUnit (ownerCode fn) 1 a bs

/-- The dirty private bytes of a crew that `sel` picks by offset and physical address are written to memory (R187). -/
def State.cleanPriv (s : State) (crew : Nat) (sel : Nat → Nat → Bool) : State :=
  match s.crew crew with
  | none => s
  | some c =>
    let es := c.own.filterMap (fun e => if sel e.1 (c.ownPa.get e.1) then e.2.map (fun b => (e.1, c.ownPa.get e.1, b)) else none)
    let own := es.foldl (fun m e => m.set e.1 none) c.own
    ((sectorRuns (es.map (·.2))).foldl (fun s e => s.privOut c.fn e.1 e.2) s).onCrew crew (fun c => { c with
      own := own, ownPa := es.foldl (fun m e => m.set e.1 0) c.ownPa
      backed := es.foldl (fun m e => m.set e.1 true) c.backed
      tags := c.tags.keep (fun l => own.any (fun e => e.1 / 128 == l)) })

/-- The dirty private bytes of the crews of a core that lie in a physical line are written to memory (R194). -/
def State.cleanLine (s : State) (core pl : Nat) : State :=
  (s.crewList.filter (fun e => e.2.loc.map (·.1) == some core && e.2.own.any (fun x => e.2.ownPa.get x.1 / 128 == pl))).foldl
    (fun s e => s.cleanPriv e.1 (fun _ pa => pa / 128 == pl)) s

/-- A line leaves an L1 that holds more than 128 KiB, which one is free; a dirty private one is written to memory (R187,
R193). -/
def State.evictOne (s : State) (core : Nat) : State :=
  let shared := s.l1.filter (·.core == core)
  let priv := s.privLines core
  if shared.length + priv.length ≤ Config.l1Lines then s
  else
    let (k, s1) := s.choose (shared.length + priv.length)
    match shared[k]? with
    | some l => { s1 with l1 := s1.l1.erase l }
    | none =>
      match priv[k - shared.length]?, priv[k - shared.length]?.bind (fun p => s1.crew p.1) with
      | some p, some c => s1.cleanPriv p.1 (fun off _ => s1.privAddr c off / 128 == p.2)
      | _, _ => s1

/-- An L1 that has taken up to two lines more holds at most its 128 KiB again (R193). -/
def State.l1Room (s : State) (core : Nat) : State := (s.evictOne core).evictOne core

/-- Page, page size and ordering kind under which a core translates an address (R194). -/
def State.pageOf (s : State) (core fn va : Nat) : Nat × Nat × Pbmt :=
  match s.tlbHit (core / 4) fn va with
  | some e => (e.page, e.psize, e.kind)
  | none => (va - va % 4096, 4096, .pma)

/-- Fills the sectors of a line that an access needs; a poisoned sector never becomes valid, and the same
physical line under another name goes first, a dirty private one to memory (R193, R194). -/
def State.l1Fill (s0 : State) (core fn va pa n : Nat) : State :=
  let pl := pa / 128
  let s := s0.cleanLine core pl
  let old := (s.l1Find core fn va).filter (·.pline == pl)
  let (page, psize, kind) := s.pageOf core fn va
  let base : L1Line := old.getD
    { core := core, vline := va / 128, vmid := s.vmid fn, asid := s.asid fn, pline := pl, page := page, psize := psize
      kind := kind, valid := 0, data := [] }
  let need := (sectorsOf (pa % 128) n).filter (fun k => !base.valid.getLsbD k && !s.runBad (pl * 128 + 64 * (k / 2)) 64)
  let ws := s.coreWrites core
  let line := need.foldl (fun (l : L1Line) k =>
    { l with
      valid := l.valid ||| BitVec.ofNat 4 (2 ^ k)
      data := l.data.setList (32 * k) (overlay ws (pl * 128 + 32 * k) (s.bytesAt (pl * 128 + 32 * k) 32)) }) base
  ({ s with l1 := s.l1.filter (fun l => !(l.core == core && (l.pline == pl ||
      (l.vline == va / 128 && l.vmid == s.vmid fn && l.asid == s.asid fn)))) ++ [line] } : State).l1Room core

/-- The dirty private bytes of a crew that a store to their physical place meets take its values (R194). -/
def Crew.storeOver (c : Crew) (pa : Nat) (bytes : List Byte) : Crew :=
  { c with own := c.own.map (fun e =>
      let a := c.ownPa.get e.1
      if e.2.isSome ∧ pa ≤ a ∧ a < pa + bytes.length then (e.1, bytes[a - pa]?) else e) }

/-- A store of a core's thread updates any L1 copy of the line before it is acknowledged, a private one too (R193, R194,
R283). -/
def State.l1Store (s : State) (core pa : Nat) (bytes : List Byte) : State :=
  { s with
    l1 := s.l1.map (fun l =>
      if l.core = core ∧ l.pline = pa / 128 then { l with data := l.data.setList (pa % 128) bytes } else l)
    crews := s.crews.map (fun e => (e.1, e.2.map (fun c =>
      if c.loc.map (·.1) = some core ∧ c.own ≠ [] then c.storeOver pa bytes else c))) }

/-! ## Order within a thread (R285, R287, R288) -/

/-- Two runs of bytes share a byte. -/
def overlaps (a n b m : Nat) : Bool := decide (a < b + m) && decide (b < a + n)

/-- Reads of a thread that are in flight. -/
def State.loadsOf (s : State) (r : ThreadRef) : List Load := s.loads.filter (·.who == r)

/-- A thread has an acquiring access in flight: no later access is performed (R288). -/
def State.acqPending (s : State) (r : ThreadRef) : Bool := s.loads.any (fun l => l.who == r && l.acq != .none)

/-- A read of the thread in flight on bytes that a later write would change: the write waits (R285). -/
def State.readPending (s : State) (r : ThreadRef) (sp : Space) (a n : Nat) : Bool :=
  s.loads.any (fun l => l.who == r && l.space == sp && l.data == none && overlaps a n l.pa (l.width * l.count))

/-- A write of the thread on these bytes has not reached its point of performance (R285). -/
def State.writePending (s : State) (r : ThreadRef) (a n : Nat) : Bool :=
  s.writes.any (fun w => w.by_ == .thread r && w.stage == .issued && overlaps a n w.pa w.bytes.length)

/-- Steps 1 and 2 of a release are done (R287). -/
def State.released (s : State) (r : ThreadRef) : Bool :=
  (s.loadsOf r).isEmpty && ((s.thread r).map (·.unack)).getD 0 == 0

/-- A release by a thread (R287, R291): it waits, then takes the error check, then does what follows. -/
def State.release (s : State) (r : ThreadRef) (k : State → State) : State :=
  match s.thread r with
  | none => s
  | some t =>
    if !s.released r then s.stay r
    else match t.errs with
      | e :: _ => (s.onThread r (fun t => { t with errs := [] })).raise r e
      | [] => k s

/-! ## Local memory (R198, R200, R209) -/

/-- Size of a crew's local memory. -/
def Crew.localSize (c : Crew) : Nat := c.rcd.localBytes

/-- A byte of a crew's local memory (R198). -/
def Crew.localByte (c : Crew) (crew a : Nat) : Byte :=
  match c.lmem.get a with
  | some b => b
  | none => if c.lzero.get a != c.lclean then 0 else Config.freeLocal crew a

/-- Bytes of a crew's local memory. -/
def Crew.localBytes (c : Crew) (crew a n : Nat) : List Byte := (List.range n).map (fun i => c.localByte crew (a + i))

/-- Bytes of a tensor card's image (R247). -/
def Layout.image (l : Layout) : Nat := (l.box.take l.dims).foldl (· * ·) (2 ^ l.esize)

/-- The local lines of a crew that a card writes into (R200, R253). -/
def State.cardDest (s : State) (k : Card) (crew : Nat) : List (Nat × Nat) :=
  let run (a n : Nat) : List (Nat × Nat) := if n = 0 then [] else [(a / 128, (a + n - 1) / 128)]
  match k.kind with
  | .linear => if (k.dir = 0 ∨ k.dir = 3) ∧ k.who.crew = crew then run k.dst.toNat k.bytes else []
  | .tensor =>
    if k.dir = 0 ∧ k.who.crew = crew then
      run k.laddr k.layout.image ++
        (if k.scales then run k.sdst (k.layout.image / 32) else [])
    else []
  | .multicast =>
    if k.receivers.contains crew then
      run (k.dst.toNat - k.bases.get crew) k.bytes
    else []
  | _ => []

/-- A card has yet to land bytes in a line of a crew. -/
def State.cardPends (s : State) (k : Card) (crew line : Nat) : Bool :=
  (s.cardDest k crew).any (fun d => decide (d.1 ≤ line) && decide (line ≤ d.2)) &&
    !k.landed.contains (crew, line)

/-- The card condition of a line (R200, R258). -/
def State.cardEmpty (s : State) (crew line : Nat) : Bool :=
  s.cards.any (fun k => s.cardPends k crew line) ||
  s.crewList.any (fun e => e.2.cards.any (fun k => k.kind == .multicast && s.cardPends k crew line)) ||
  match s.crew crew with
  | some c => c.lineReplay.any (·.line == line)
  | none => false

/-- A local line is empty by the card condition or by its software mark (R209). -/
def State.lineEmpty (s : State) (crew line : Nat) : Bool :=
  s.cardEmpty crew line ||
  match s.crew crew with
  | some c => c.marks.get line
  | none => false

/-- Some line of a run of local bytes is empty. -/
def State.localEmpty (s : State) (crew a n : Nat) : Bool :=
  (List.range ((a + n - 1) / 128 - a / 128 + 1)).any (fun j => s.lineEmpty crew (a / 128 + j))

/-! ## Writes on their way (R205, R264, R282) -/

/-- A write of a thread, counted until it is acknowledged (R287, R295). -/
def State.threadWrite (s : State) (w : Write) (r : ThreadRef) : State :=
  (s.pushWrite w).onThread r (fun t =>
    if w.kind = .nc ∧ w.atom = none then { t with unackNc := t.unackNc + 1 }
    else { t with unack := t.unack + 1 })

/-- A write counts no more against its thread (R205, R287); a card's stores count with their card (R245). -/
def State.uncount (s : State) (w : Write) : State :=
  match w.by_ with
  | .thread r => s.onThread r (fun t =>
    if w.kind = .nc ∧ w.atom = none then { t with unackNc := t.unackNc - 1 } else { t with unack := t.unack - 1 })
  | _ => s

/-- Sets an error mark (R291). -/
def State.markErr (s : State) (r : ThreadRef) (c : Cause) : State :=
  s.onThread r (fun t => { t with errs := t.errs ++ [c] })

end Sys2Proof.Machine
end

