-- ==== Sys2Proof/Machine/Operands.lean ====
section
/-!
DEFINITION. Every operand form: the value of a source by TY, immediates (R90), addresses of memory operands
(R97, R185), and results written by TY (R119, R158).
-/
namespace Sys2Proof.Machine
open Sys2Proof

/-- Width of a type in bits (Table 6-3). -/
def tyWidth : Ty → Nat
  | .b8 | .s8 | .z8 => 8
  | .b16 | .s16 | .z16 | .f16 | .bf16 => 16
  | .b32 | .s32 | .z32 | .f32 => 32
  | .b64 | .s64 | .z64 => 64

/-- Width of a type in bytes. -/
def tyBytes (t : Ty) : Nat := tyWidth t / 8

/-- A signed integer type (Table 6-3). -/
def tySigned : Ty → Bool
  | .s8 | .s16 | .s32 | .s64 => true
  | _ => false

/-- min_TY and max_TY (R119). -/
def tyMin (t : Ty) : Int := if tySigned t then -(2 ^ (tyWidth t - 1)) else 0
def tyMax (t : Ty) : Int := if tySigned t then 2 ^ (tyWidth t - 1) - 1 else 2 ^ tyWidth t - 1

/-- The integer that the low bits of a register stand for under TY (R158). -/
def tyInt (t : Ty) (v : DWord) : Int :=
  let u : Nat := v.toNat % 2 ^ tyWidth t
  if tySigned t ∧ 2 ^ (tyWidth t - 1) ≤ u then (u : Int) - 2 ^ tyWidth t else u

/-- A clamp to the bounds of a type (R121). -/
def tyClamp (t : Ty) (x : Int) : Int := max (tyMin t) (min x (tyMax t))

/-- A register, or a pair for a 64-bit operand, as 64 bits. -/
def Thread.raw (t : Thread) (is64 : Bool) (i : BitVec 7) : DWord :=
  if is64 then t.pair i else (t.reg i).setWidth 64

/-- The value of an immediate for an operand of type `ty` (R90). -/
def immRaw (ty : Ty) : Ext → DWord
  | .none => 0
  | .imm32 v => if ty = .s64 ∨ ty = .b64 then v.signExtend 64 else v.setWidth 64
  | .imm64 v => v

/-- Source A, by TY. -/
def Thread.srcA (t : Thread) (f : Fields) : DWord := t.raw f.ty.is64 f.a

/-- Source A, or the immediate in its place, of type `ty` (R90). -/
def Thread.srcAi (t : Thread) (f : Fields) (ty : Ty) : DWord :=
  if f.ext = .none then t.raw ty.is64 f.a else immRaw ty f.ext

/-- Source B as a register, of type `ty`. -/
def Thread.srcB (t : Thread) (f : Fields) (ty : Ty) : DWord := t.raw ty.is64 f.b

/-- Source B, or the immediate in its place, of type `ty` (R90). -/
def Thread.srcBi (t : Thread) (f : Fields) (ty : Ty) : DWord :=
  if f.ext = .none then t.raw ty.is64 f.b else immRaw ty f.ext

/-- Source C, or the immediate in its place, of type `ty` (R90). -/
def Thread.srcCi (t : Thread) (f : Fields) (ty : Ty) : DWord :=
  if f.ext = .none then t.raw ty.is64 f.c else immRaw ty f.ext

/-- The register image of an integer result: narrow results are extended to 32 bits (R158). -/
def intWord (ty : Ty) (x : Int) : Word :=
  if tyWidth ty = 32 then BitVec.ofInt 32 x
  else BitVec.ofInt 32 (tyInt ty (BitVec.ofInt 64 x))

/-- Writes an integer result modulo 2^w (R119). -/
def Thread.putInt (t : Thread) (d : BitVec 7) (ty : Ty) (x : Int) : Thread :=
  if ty.is64 then t.setPair d (BitVec.ofInt 64 x) else t.setReg d (intWord ty x)

/-- Writes raw bits of TY's width (R119). -/
def Thread.putRaw (t : Thread) (d : BitVec 7) (is64 : Bool) (v : DWord) : Thread :=
  if is64 then t.setPair d v else t.setReg d (v.setWidth 32)

/-- The signed byte offset of a memory operand; zero without IMM32 (R90). -/
def offsetOf (f : Fields) : Int := f.ext.imm.toInt

/-- The 64-bit address of a global operand: base pair plus offset modulo 2^64 (R185). -/
def Thread.globalAddr (t : Thread) (f : Fields) : Addr := t.pair f.a + BitVec.ofInt 64 (offsetOf f)

/-- The 32-bit address of a local or private operand: base plus offset modulo 2^32 (R185). -/
def Thread.localAddr (t : Thread) (f : Fields) : Nat := (t.reg f.a + BitVec.ofInt 32 (offsetOf f)).toNat

/-- The register image of a loaded element, as one or two words (R158, R204). -/
def loadWords (ty : Ty) (bytes : List Byte) : List Word :=
  let v := BitVec.ofNat 64 (leValue bytes)
  if tyWidth ty = 64 then [v.setWidth 32, v.extractLsb' 32 32]
  else [intWord ty (tyInt ty v)]

/-- The registers that the elements of a loaded run fill, in order (R204). -/
def loadRegs (ty : Ty) (width : Nat) : Nat → List Byte → List Word
  | 0, _ => []
  | n + 1, bs => loadWords ty (bs.take width) ++ loadRegs ty width n (bs.drop width)

/-- The bytes that a store takes from B: elements of a block, low bits of a register for b8 and b16, a pair
for a 64-bit element (R203, R205). -/
def Thread.storeBytes (t : Thread) (f : Fields) : List Byte :=
  let n := vecCount f.x
  if f.ty.is64 then
    (List.range n).flatMap (fun e => leBytes 8 (t.pair (f.b + BitVec.ofNat 7 (2 * e))).toNat)
  else (List.range n).flatMap (fun e => leBytes (tyBytes f.ty) (t.reg (f.b + BitVec.ofNat 7 e)).toNat)

end Sys2Proof.Machine
end

