-- ==== Sys2Proof/Machine/Numbers.lean ====
section
/-!
DEFINITION. Floating-point numbers (R156 to R158): exact decoding to sign, integer and power of two, and the
one rounding of an exact value to a format.
-/
namespace Sys2Proof.Machine
open Sys2Proof

/-- A format of Table 9-4: exponent bits, fraction bits, bias. -/
structure Fmt where
  eb : Nat
  fb : Nat
  bias : Nat
  deriving DecidableEq, Repr

def half : Fmt := ⟨5, 10, 15⟩
def bfloat : Fmt := ⟨8, 7, 127⟩
def single : Fmt := ⟨8, 23, 127⟩

/-- The format of a floating-point type. -/
def fmtOf : Ty → Fmt
  | .f16 => half
  | .bf16 => bfloat
  | _ => single

/-- A decoded number: the finite value is (−1)^neg · m · 2^e, zero with its sign. -/
inductive Fp where
  | nan
  | inf (neg : Bool)
  | fin (neg : Bool) (m : Nat) (e : Int)
  deriving DecidableEq, Repr

/-- Bits below the sign of a format. -/
def Fmt.low (f : Fmt) : Nat := f.eb + f.fb
/-- The encoding of infinity without its sign. -/
def Fmt.infBits (f : Fmt) : Nat := (2 ^ f.eb - 1) * 2 ^ f.fb
/-- The canonical NaN (Table 9-4). -/
def Fmt.nan (f : Fmt) : Nat := f.infBits + 2 ^ (f.fb - 1)
/-- The sign bit. -/
def Fmt.sign (f : Fmt) (neg : Bool) : Nat := if neg then 2 ^ f.low else 0

/-- The number that bits of a format stand for (R156). -/
def Fmt.decode (f : Fmt) (v : Nat) : Fp :=
  let neg := v / 2 ^ f.low % 2 == 1
  let ex := v / 2 ^ f.fb % 2 ^ f.eb
  let fr := v % 2 ^ f.fb
  if ex = 2 ^ f.eb - 1 then if fr = 0 then .inf neg else .nan
  else if ex = 0 then .fin neg fr (1 - (f.bias : Int) - f.fb)
  else .fin neg (2 ^ f.fb + fr) ((ex : Int) - f.bias - f.fb)

/-- Whether a rounding goes up in magnitude: `sig` the kept integer, `rem` of 2^`sh` the rest (Table 6-3). -/
def roundUp (rm : BitVec 2) (neg : Bool) (sig rem sh : Nat) : Bool :=
  if rem = 0 then false
  else if rm = 0 then decide (2 ^ sh < 2 * rem) || (2 * rem == 2 ^ sh && sig % 2 == 1)
  else if rm = 1 then false
  else if rm = 2 then neg
  else !neg

/-- The integer nearest below `m · 2^e`, the remainder and the width of the rest. -/
def scaleDown (m : Nat) (e : Int) : Nat × Nat × Nat :=
  if 0 ≤ e then (m * 2 ^ e.toNat, 0, 0)
  else (m / 2 ^ (-e).toNat, m % 2 ^ (-e).toNat, (-e).toNat)

/-- The result on overflow (R168). -/
def overflowBits (f : Fmt) (rm : BitVec 2) (neg : Bool) : Nat :=
  let toInf := if rm = 0 then true else if rm = 1 then false else if rm = 2 then neg else !neg
  f.sign neg + (if toInf then f.infBits else f.infBits - 1)

/-- round_rm of the exact value (−1)^neg · m · 2^e to a format, subnormals kept (R168, R176). -/
def Fmt.round (f : Fmt) (rm : BitVec 2) (neg : Bool) (m : Nat) (e : Int) : Nat :=
  if m = 0 then f.sign neg
  else
    let emin : Int := 1 - (f.bias : Int)
    let top : Int := max ((Nat.log2 m : Int) + e) emin
    let (sig, rem, sh) := scaleDown m (e - (top - f.fb))
    let sig' := sig + (if roundUp rm neg sig rem sh then 1 else 0)
    let enc := (top + f.bias - 1).toNat * 2 ^ f.fb + sig'
    if f.infBits ≤ enc then overflowBits f rm neg else f.sign neg + enc

/-- A decoded number rounded to a format; a NaN gives the canonical NaN (R157, R168). -/
def Fmt.ofNum (f : Fmt) (rm : BitVec 2) : Fp → Nat
  | .nan => f.nan
  | .inf neg => f.sign neg + f.infBits
  | .fin neg m e => f.round rm neg m e

/-- An exact signed value as a sign and a magnitude. -/
def Fmt.ofInt (f : Fmt) (rm : BitVec 2) (x : Int) (e : Int) (zeroNeg : Bool) : Nat :=
  if x = 0 then f.sign zeroNeg else f.round rm (decide (x < 0)) x.natAbs e

/-- The signed integer of a finite number at exponent `e`, which is at most the number's own. -/
def atExp (neg : Bool) (m : Nat) (e0 e : Int) : Int :=
  let v : Int := (m : Int) * 2 ^ (e0 - e).toNat
  if neg then -v else v

/-- The exact sum of two finite numbers, as an integer and its exponent. -/
def exactAdd (n1 : Bool) (m1 : Nat) (e1 : Int) (n2 : Bool) (m2 : Nat) (e2 : Int) : Int × Int :=
  let e := min e1 e2
  (atExp n1 m1 e1 e + atExp n2 m2 e2 e, e)

/-- The sum of two numbers in a format (R176): an exact zero sum of unlike signs is −0 only when rounding
down. -/
def Fp.add (f : Fmt) (rm : BitVec 2) (a b : Fp) : Nat :=
  match a, b with
  | .nan, _ | _, .nan => f.nan
  | .inf n, .inf n' => if n = n' then f.sign n + f.infBits else f.nan
  | .inf n, _ | _, .inf n => f.sign n + f.infBits
  | .fin n1 m1 e1, .fin n2 m2 e2 =>
    let s := exactAdd n1 m1 e1 n2 m2 e2
    f.ofInt rm s.1 s.2 (if m1 = 0 ∧ m2 = 0 ∧ n1 = n2 then n1 else rm == 2)

/-- The exact product of two numbers. -/
def Fp.mulExact : Fp → Fp → Fp
  | .nan, _ | _, .nan => .nan
  | .inf n, .inf n' => .inf (n != n')
  | .inf n, .fin n' m _ | .fin n' m _, .inf n => if m = 0 then .nan else .inf (n != n')
  | .fin n1 m1 e1, .fin n2 m2 e2 => .fin (n1 != n2) (m1 * m2) (e1 + e2)

/-- The product of two numbers in a format (R176). -/
def Fp.mul (f : Fmt) (rm : BitVec 2) (a b : Fp) : Nat := f.ofNum rm (a.mulExact b)

/-- a · b + c with one rounding (R176). -/
def Fp.fma (f : Fmt) (rm : BitVec 2) (a b c : Fp) : Nat := Fp.add f rm (a.mulExact b) c

/-- The negation and the absolute value of a number. -/
def Fp.neg : Fp → Fp
  | .nan => .nan
  | .inf n => .inf (!n)
  | .fin n m e => .fin (!n) m e
def Fp.abs : Fp → Fp
  | .nan => .nan
  | .inf _ => .inf false
  | .fin _ m e => .fin false m e

/-- A quotient with a sticky bit: enough bits for any format, then one bit that tells an inexact rest. -/
def Fp.div (f : Fmt) (rm : BitVec 2) (a b : Fp) : Nat :=
  match a, b with
  | .nan, _ | _, .nan => f.nan
  | .inf _, .inf _ => f.nan
  | .inf n, .fin n' _ _ => f.sign (n != n') + f.infBits
  | .fin n _ _, .inf n' => f.sign (n != n')
  | .fin n1 m1 e1, .fin n2 m2 e2 =>
    if m2 = 0 then if m1 = 0 then f.nan else f.sign (n1 != n2) + f.infBits
    else
      let k := Nat.log2 m2 + 30
      let q := m1 * 2 ^ k / m2
      let st := if m1 * 2 ^ k % m2 = 0 then 0 else 1
      f.round rm (n1 != n2) (2 * q + st) (e1 - e2 - k - 1)

/-- Floor of the square root of `n`, by bits from 2^`k` down. -/
def isqrt (n : Nat) : Nat → Nat → Nat
  | 0, acc => acc
  | k + 1, acc =>
    let c := acc + 2 ^ k
    isqrt n k (if c * c ≤ n then c else acc)

/-- A square root with a sticky bit (R176). -/
def Fp.sqrt (f : Fmt) (rm : BitVec 2) (a : Fp) : Nat :=
  match a with
  | .nan => f.nan
  | .inf n => if n then f.nan else f.infBits
  | .fin n m e =>
    if m = 0 then f.sign n
    else if n then f.nan
    else
      let sh : Nat := if e % 2 = 0 then 60 else 61
      let v := m * 2 ^ sh
      let r := isqrt v (Nat.log2 v / 2 + 1) 0
      let st := if r * r = v then 0 else 1
      f.round rm false (2 * r + st) ((e - sh) / 2 - 1)

/-- The order of two numbers that are not NaN: less, equal, greater as −1, 0, 1; +0 equals −0 (R130). -/
def Fp.cmp (a b : Fp) : Int :=
  let sgn (x : Int) : Int := if x < 0 then -1 else if x = 0 then 0 else 1
  match a, b with
  | .inf n, .inf n' => if n = n' then 0 else if n then -1 else 1
  | .inf n, _ => if n then -1 else 1
  | _, .inf n => if n then 1 else -1
  | .fin n1 m1 e1, .fin n2 m2 e2 => sgn (exactAdd n1 m1 e1 (!n2) m2 e2).1
  | _, _ => 0

/-- A number rounded to an integer by RM (R167). -/
def intOf (rm : BitVec 2) (neg : Bool) (m : Nat) (e : Int) : Int :=
  let (sig, rem, sh) := scaleDown m e
  let v : Int := (sig + (if roundUp rm neg sig rem sh then 1 else 0) : Nat)
  if neg then -v else v

/-- A scalar operand in its register: binary16 and bfloat16 in bits [15:0] (R158). -/
def numOf (ty : Ty) (v : Word) : Fp :=
  if ty = .f32 then single.decode v.toNat else (fmtOf ty).decode (v.toNat % 65536)

/-- The register image of a result of a format (R158). -/
def numWord (v : Nat) : Word := BitVec.ofNat 32 v

end Sys2Proof.Machine
end

