-- ==== Sys2Proof/Machine/Flags.lean ====
section
/-!
DEFINITION. GW4 has no status flags (R118, R157): its conditions go to predicates. Here are the conditions of
ICMP and FCMP, their combination (R130), and the tables of three predicates (R124, R131).
-/
namespace Sys2Proof.Machine
open Sys2Proof

/-- Conditions 0 to 5: eq, ne, lt, le, gt, ge, on the order of two values. -/
def ordCond (c : Nat) (o : Int) : Bool :=
  if c = 0 then o == 0
  else if c = 1 then o != 0
  else if c = 2 then decide (o < 0)
  else if c = 3 then decide (o ≤ 0)
  else if c = 4 then decide (0 < o)
  else decide (0 ≤ o)

/-- ICMP's condition on two integers (R130). -/
def intCond (c : Nat) (a b : Int) : Bool := ordCond c (a - b)

/-- FCMP's condition (R130): 0 to 5 are false with a NaN, 6 and 7 tell it, 8 to 13 are true with one. -/
def floatCond (c : Nat) (a b : Fp) : Bool :=
  let nan := a == .nan || b == .nan
  if c = 6 then !nan
  else if c = 7 then nan
  else if c < 6 then !nan && ordCond c (a.cmp b)
  else nan || ordCond (c - 8) (a.cmp b)

/-- Combines a condition with a predicate by X (R130). -/
def combine (x : BitVec 2) (r q : Bool) : Bool :=
  if x = 0 then r else if x = 1 then r && q else if x = 2 then r || q else r != q

/-- Bit a + 2b + 4c of a truth table (R124). -/
def tableBit (fn : BitVec 8) (a b c : Bool) : Bool := fn.getLsbD (a.toNat + 2 * b.toNat + 4 * c.toNat)

end Sys2Proof.Machine
end

