-- ==== Sys2Proof/Machine/Integer.lean ====
section
/-!
DEFINITION. Integer and address arithmetic (R118 to R128).
-/
namespace Sys2Proof.Machine
open Sys2Proof

/-- What `exec` and `step` answer. -/
abbrev Result := Host.Outcome State Fault Refusal

/-- A result, clamped under a `.sat` form (R121). -/
def satIf (sat : Bool) (ty : Ty) (x : Int) : Int := if sat then tyClamp ty x else x

/-- Sources A and B/imm as integers by TY (R119). -/
def Thread.intA (t : Thread) (f : Fields) : Int := tyInt f.ty (t.srcA f)
def Thread.intB (t : Thread) (f : Fields) : Int := tyInt f.ty (t.srcBi f f.ty)
def Thread.intC (t : Thread) (f : Fields) : Int := tyInt f.ty (t.srcCi f f.ty)

/-- B of IMUL, IMAD as a register where the immediate stands for C. -/
def Thread.intBr (t : Thread) (f : Fields) : Int := tyInt f.ty (t.srcB f f.ty)

/-- a + b, clamped under `.sat` (Table 8-2). -/
def valIadd (t : Thread) (f : Fields) : Int := satIf (f.fn == 1) f.ty (t.intA f + t.intB f)
/-- a − b, clamped under `.sat` (Table 8-2). -/
def valIsub (t : Thread) (f : Fields) : Int := satIf (f.fn == 1) f.ty (t.intA f - t.intB f)
/-- The low or the high half of a · b, or the exact 64-bit product (Table 8-2). -/
def valImul (t : Thread) (f : Fields) : Int :=
  if f.fn = 1 then t.intA f * t.intB f / 2 ^ tyWidth f.ty else t.intA f * t.intB f
/-- C of IMAD: 64 bits wide under `.wide` (R90, R120). -/
def valImadC (t : Thread) (f : Fields) : Int :=
  if f.fn = 2 then
    let ty := if tySigned f.ty then Ty.s64 else Ty.z64
    tyInt ty (if f.ext = .none then t.pair f.c else immRaw ty f.ext)
  else t.intC f
/-- a · b + c, clamped under `.sat` (Table 8-2). -/
def valImad (t : Thread) (f : Fields) : Int :=
  satIf (f.fn == 1) f.ty (t.intA f * t.intBr f + valImadC t f)
/-- Division truncates toward zero; by zero it gives all ones, and the overflowing case min_TY (R122). -/
def valIdiv (t : Thread) (f : Fields) : Int :=
  if t.intB f = 0 then (if tySigned f.ty then -1 else tyMax f.ty) else (t.intA f).tdiv (t.intB f)
/-- The remainder; a for a divisor of zero (R122). -/
def valIrem (t : Thread) (f : Fields) : Int :=
  if t.intB f = 0 then t.intA f else (t.intA f).tmod (t.intB f)
/-- The smaller and the larger of a and b by the signedness of TY (Table 8-2). -/
def valImin (t : Thread) (f : Fields) : Int := min (t.intA f) (t.intB f)
def valImax (t : Thread) (f : Fields) : Int := max (t.intA f) (t.intB f)
/-- |a|; the least value wraps, or saturates under `.sat` (Table 8-2). -/
def valIabs (t : Thread) (f : Fields) : Int := satIf (f.fn == 1) f.ty |t.intA f|

/-- The address a + ext(b) · 2^k modulo 2^64 (Table 8-2). -/
def valLea (t : Thread) (f : Fields) : DWord :=
  t.pair f.a + BitVec.ofInt 64 (tyInt f.ty (t.srcBi f f.ty) * 2 ^ (f.fn.toNat % 8))

/-- The count of a shift: a single 32-bit source, unsigned (R123). -/
def Thread.shiftCount (t : Thread) (f : Fields) : Nat := (t.srcBi f .z32).toNat

/-- SHL fills with zeros; counts of w or more give zero (R123). -/
def valShl (t : Thread) (f : Fields) : Int :=
  let n := t.shiftCount f
  if tyWidth f.ty ≤ n then 0 else t.intA f * 2 ^ n
/-- SHR fills with the sign for s types and with zeros otherwise (R123). -/
def valShr (t : Thread) (f : Fields) : Int := t.intA f / 2 ^ min (t.shiftCount f) (tyWidth f.ty)
/-- ROT by the count modulo w (R123). -/
def valRot (t : Thread) (f : Fields) : DWord :=
  let w := tyWidth f.ty
  let a := (t.srcA f).toNat % 2 ^ w
  let n := t.shiftCount f % w
  let l := if f.fn = 1 then (w - n) % w else n
  BitVec.ofNat 64 ((a * 2 ^ l + a / 2 ^ (w - l)) % 2 ^ w)

/-- A bitwise function of three inputs by its truth table (R124). -/
def table3 (fn : BitVec 8) (a b c : DWord) : DWord :=
  (List.range 8).foldl (fun acc k =>
    if fn.getLsbD k then
      acc ||| ((if k % 2 = 1 then a else ~~~a) &&& (if k / 2 % 2 = 1 then b else ~~~b) &&&
        (if k / 4 = 1 then c else ~~~c))
    else acc) 0
def valLop3 (t : Thread) (f : Fields) : DWord :=
  table3 f.fn (t.srcA f) (t.srcB f f.ty) (t.srcCi f f.ty)

/-- Position and length of a bit field (R125). -/
def fieldPos (b : DWord) : Nat := b.toNat % 256
def fieldLen (w : Nat) (b : DWord) : Nat := min (b.toNat / 256 % 256) w

/-- BFX: bits pos to pos + len − 1 of a, sign- or zero-extended (R125). -/
def valBfx (t : Thread) (f : Fields) : Int :=
  let b := t.srcBi f .z32
  let len := fieldLen (tyWidth f.ty) b
  let v : Int := t.intA f / 2 ^ fieldPos b % 2 ^ len
  if len = 0 then 0
  else if tySigned f.ty ∧ 2 ^ (len - 1) ≤ v then v - 2 ^ len else v
/-- BFI: a field of a placed into c (R125). -/
def valBfi (t : Thread) (f : Fields) : DWord :=
  let w := tyWidth f.ty
  let b := t.srcB f .z32
  let mask := BitVec.ofNat 64 ((2 ^ fieldLen w b - 1) * 2 ^ fieldPos b % 2 ^ w)
  (t.srcCi f f.ty &&& ~~~mask) ||| (BitVec.ofNat 64 ((t.srcA f).toNat * 2 ^ fieldPos b) &&& mask)

/-- The count of 1 bits, and of leading zeros (Table 8-2). -/
def valPopc (t : Thread) (f : Fields) : Nat := (List.range (tyWidth f.ty)).countP (fun i => (t.srcA f).getLsbD i)
def valClz (t : Thread) (f : Fields) : Nat :=
  let a := (t.srcA f).toNat
  if a = 0 then tyWidth f.ty else tyWidth f.ty - 1 - Nat.log2 a
/-- Bit i of a goes to bit w − 1 − i (Table 8-2). -/
def valBrev (t : Thread) (f : Fields) : DWord :=
  let w := tyWidth f.ty
  (List.range w).foldl (fun acc i => if (t.srcA f).getLsbD i then acc ||| BitVec.ofNat 64 (2 ^ (w - 1 - i)) else acc) 0

/-- The eight bits of a byte in reverse order. -/
def revByte (v : Nat) : Nat := (List.range 8).foldl (fun acc i => acc + v / 2 ^ i % 2 * 2 ^ (7 - i)) 0

/-- One byte of BYTEP by its control byte (R126). -/
def bytepByte (src : Nat) (ctl : Nat) : Nat :=
  let v := src / 2 ^ (8 * (ctl % 8)) % 256
  let mode := ctl / 8 % 4
  let m := if mode = 0 then v else if mode = 1 then revByte v
    else if mode = 2 then (if 128 ≤ v then 255 else 0) else (if v % 2 = 1 then 255 else 0)
  if ctl / 32 % 2 = 1 then 255 - m else m
def valBytep (t : Thread) (f : Fields) : Word :=
  let src := (t.reg f.a).toNat + 2 ^ 32 * (t.reg f.b).toNat
  let c := (t.srcCi f .b32).toNat
  BitVec.ofNat 32 ((List.range 4).foldl (fun acc k => acc + bytepByte src (c / 2 ^ (8 * k) % 256) * 2 ^ (8 * k)) 0)

/-- a if the predicate, after negation, is true, else b (Table 8-2). -/
def valSel (t : Thread) (f : Fields) : DWord :=
  if t.pred (f.fn.extractLsb' 0 3) != f.fn.getLsbD 3 then t.srcA f else t.srcBi f f.ty

/-- The exact sum of IADDC (R127). -/
def sumIaddc (t : Thread) (f : Fields) : Nat :=
  let w := tyWidth f.ty
  let cin := if f.fn.extractLsb' 0 3 = 7 then 0 else (t.pred (f.fn.extractLsb' 0 3)).toNat
  let a := (t.srcA f).toNat % 2 ^ w
  let b := (t.srcBi f f.ty).toNat % 2 ^ w
  a + (if f.fn.getLsbD 6 then 2 ^ w - 1 - b else b) + cin

/-- The dot product of four bytes (R128). -/
def valIdp4 (t : Thread) (f : Fields) : Int :=
  let byte (v : Nat) (k : Nat) (signed : Bool) : Int :=
    tyInt (if signed then .s8 else .z8) (BitVec.ofNat 64 (v / 2 ^ (8 * k)))
  let x := (List.range 4).foldl (fun (acc : Int) k =>
    acc + byte (t.reg f.a).toNat k (f.fn.getLsbD 0) * byte (t.reg f.b).toNat k (f.fn.getLsbD 1)) (t.intC f)
  satIf (f.fn.getLsbD 2) f.ty x

def execIadd (f : Fields) (s : State) : Result :=
  .next (s.regOp (.iadd f) f.g (fun t => t.putInt f.d f.ty (valIadd t f)))
def execIsub (f : Fields) (s : State) : Result :=
  .next (s.regOp (.isub f) f.g (fun t => t.putInt f.d f.ty (valIsub t f)))
def execImul (f : Fields) (s : State) : Result :=
  .next (s.regOp (.imul f) f.g (fun t =>
    if f.fn = 2 then t.setPair f.d (BitVec.ofInt 64 (valImul t f)) else t.putInt f.d f.ty (valImul t f)))
def execImad (f : Fields) (s : State) : Result :=
  .next (s.regOp (.imad f) f.g (fun t =>
    if f.fn = 2 then t.setPair f.d (BitVec.ofInt 64 (valImad t f)) else t.putInt f.d f.ty (valImad t f)))
def execIdiv (f : Fields) (s : State) : Result :=
  .next (s.regOp (.idiv f) f.g (fun t => t.putInt f.d f.ty (valIdiv t f)))
def execIrem (f : Fields) (s : State) : Result :=
  .next (s.regOp (.irem f) f.g (fun t => t.putInt f.d f.ty (valIrem t f)))
def execImin (f : Fields) (s : State) : Result :=
  .next (s.regOp (.imin f) f.g (fun t => t.putInt f.d f.ty (valImin t f)))
def execImax (f : Fields) (s : State) : Result :=
  .next (s.regOp (.imax f) f.g (fun t => t.putInt f.d f.ty (valImax t f)))
def execIabs (f : Fields) (s : State) : Result :=
  .next (s.regOp (.iabs f) f.g (fun t => t.putInt f.d f.ty (valIabs t f)))
def execLea (f : Fields) (s : State) : Result :=
  .next (s.regOp (.lea f) f.g (fun t => t.setPair f.d (valLea t f)))
def execShl (f : Fields) (s : State) : Result :=
  .next (s.regOp (.shl f) f.g (fun t => t.putInt f.d f.ty (valShl t f)))
def execShr (f : Fields) (s : State) : Result :=
  .next (s.regOp (.shr f) f.g (fun t => t.putInt f.d f.ty (valShr t f)))
def execRot (f : Fields) (s : State) : Result :=
  .next (s.regOp (.rot f) f.g (fun t => t.putRaw f.d f.ty.is64 (valRot t f)))
def execLop3 (f : Fields) (s : State) : Result :=
  .next (s.regOp (.lop3 f) f.g (fun t => t.putRaw f.d f.ty.is64 (valLop3 t f)))
def execBfx (f : Fields) (s : State) : Result :=
  .next (s.regOp (.bfx f) f.g (fun t => t.putInt f.d f.ty (valBfx t f)))
def execBfi (f : Fields) (s : State) : Result :=
  .next (s.regOp (.bfi f) f.g (fun t => t.putRaw f.d f.ty.is64 (valBfi t f)))
def execPopc (f : Fields) (s : State) : Result :=
  .next (s.regOp (.popc f) f.g (fun t => t.setReg f.d (BitVec.ofNat 32 (valPopc t f))))
def execClz (f : Fields) (s : State) : Result :=
  .next (s.regOp (.clz f) f.g (fun t => t.setReg f.d (BitVec.ofNat 32 (valClz t f))))
def execBrev (f : Fields) (s : State) : Result :=
  .next (s.regOp (.brev f) f.g (fun t => t.putRaw f.d f.ty.is64 (valBrev t f)))
def execBytep (f : Fields) (s : State) : Result :=
  .next (s.regOp (.bytep f) f.g (fun t => t.setReg f.d (valBytep t f)))
def execSel (f : Fields) (s : State) : Result :=
  .next (s.regOp (.sel f) f.g (fun t => t.putRaw f.d f.ty.is64 (valSel t f)))
def execMov (f : Fields) (s : State) : Result :=
  .next (s.regOp (.mov f) f.g (fun t => t.putRaw f.d f.ty.is64 (t.srcA f)))
def execMovi (f : Fields) (s : State) : Result :=
  .next (s.regOp (.movi f) f.g (fun t => t.putRaw f.d f.ty.is64 (immRaw f.ty f.ext)))
def execIaddc (f : Fields) (s : State) : Result :=
  .next (s.regOp (.iaddc f) f.g (fun t =>
    let x := sumIaddc t f
    (t.putInt f.d f.ty x).setPred (f.fn.extractLsb' 3 3) (decide (2 ^ tyWidth f.ty ≤ x))))
def execIdp4 (f : Fields) (s : State) : Result :=
  .next (s.regOp (.idp4 f) f.g (fun t => t.putInt f.d f.ty (valIdp4 t f)))

/-- ICMP (R130). -/
def execIcmp (f : Fields) (s : State) : Result :=
  .next (s.regOp (.icmp f) f.g (fun t =>
    t.setPred (f.d.extractLsb' 0 3)
      (combine f.x (intCond (f.fn.toNat % 16) (t.intA f) (t.intB f))
        (t.pred (f.fn.extractLsb' 4 3) != f.fn.getLsbD 7))))
/-- The operands of a floating-point instruction, B or the immediate in its place (R90, R158). -/
def Thread.numA (t : Thread) (f : Fields) : Fp := numOf f.ty (t.reg f.a)
def Thread.numBi (t : Thread) (f : Fields) : Fp := numOf f.ty ((t.srcBi f f.ty).setWidth 32)
/-- FCMP (R130). -/
def execFcmp (f : Fields) (s : State) : Result :=
  .next (s.regOp (.fcmp f) f.g (fun t =>
    t.setPred (f.d.extractLsb' 0 3)
      (combine f.x (floatCond (f.fn.toNat % 16) (t.numA f) (t.numBi f))
        (t.pred (f.fn.extractLsb' 4 3) != f.fn.getLsbD 7))))
/-- PLOP (R131). -/
def execPlop (f : Fields) (s : State) : Result :=
  .next (s.regOp (.plop f) f.g (fun t =>
    t.setPred (f.d.extractLsb' 0 3)
      (tableBit f.fn (t.pred (f.a.extractLsb' 0 3)) (t.pred (f.b.extractLsb' 0 3)) (t.pred (f.c.extractLsb' 0 3)))))
/-- p0 to p6 as bits [6:0] (R131). -/
def Thread.predBits (t : Thread) : Nat := (List.range 7).foldl (fun acc i => acc + (t.preds.get i).toNat * 2 ^ i) 0
/-- P2G (R131). -/
def execP2g (f : Fields) (s : State) : Result :=
  .next (s.regOp (.p2g f) f.g (fun t => t.setReg f.d (BitVec.ofNat 32 t.predBits)))
/-- G2P (R131). -/
def execG2p (f : Fields) (s : State) : Result :=
  .next (s.regOp (.g2p f) f.g (fun t =>
    (List.range 7).foldl (fun (u : Thread) i =>
      if (t.srcBi f .b32).getLsbD i then u.setPred (BitVec.ofNat 3 i) ((t.reg f.a).getLsbD i) else u) t))

end Sys2Proof.Machine
end

