-- ==== Sys2Proof/Machine/Float.lean ====
section
/-!
DEFINITION. Floating-point and packed instructions (R174 to R184).
-/
namespace Sys2Proof.Machine
open Sys2Proof

/-- Absolute value first, then negation, on the sign bit alone (R175). -/
def modBits (m : Fmt) (ab ng : Bool) (v : Nat) : Nat :=
  let a := v % 2 ^ m.low + (if ab then 0 else v / 2 ^ m.low % 2 * 2 ^ m.low)
  if ng then (if 2 ^ m.low ≤ a then a - 2 ^ m.low else a + 2 ^ m.low) else a

/-- The bits of a scalar operand (R158). -/
def opBits (ty : Ty) (v : Word) : Nat := if ty = .f32 then v.toNat else v.toNat % 65536

/-- Operand A with its modifiers `.aa` and `.na` (R175). -/
def Thread.bitsA (t : Thread) (f : Fields) : Nat :=
  modBits (fmtOf f.ty) (f.fn.getLsbD 3) (f.fn.getLsbD 0) (opBits f.ty (t.reg f.a))
/-- Operand B, or its immediate, with `.ab` and `.nb`. -/
def Thread.bitsB (t : Thread) (f : Fields) : Nat :=
  modBits (fmtOf f.ty) (f.fn.getLsbD 4) (f.fn.getLsbD 1) (opBits f.ty ((t.srcBi f f.ty).setWidth 32))
/-- Operand B as a register where the immediate stands for C. -/
def Thread.bitsBr (t : Thread) (f : Fields) : Nat :=
  modBits (fmtOf f.ty) (f.fn.getLsbD 4) (f.fn.getLsbD 1) (opBits f.ty (t.reg f.b))
/-- Operand C, or its immediate, with `.ac` and `.nc`. -/
def Thread.bitsC (t : Thread) (f : Fields) : Nat :=
  modBits (fmtOf f.ty) (f.fn.getLsbD 5) (f.fn.getLsbD 2) (opBits f.ty ((t.srcCi f f.ty).setWidth 32))

def valFadd (t : Thread) (f : Fields) : Nat :=
  let m := fmtOf f.ty
  Fp.add m f.rm (m.decode (t.bitsA f)) (m.decode (t.bitsB f))
def valFmul (t : Thread) (f : Fields) : Nat :=
  let m := fmtOf f.ty
  Fp.mul m f.rm (m.decode (t.bitsA f)) (m.decode (t.bitsB f))
def valFfma (t : Thread) (f : Fields) : Nat :=
  let m := fmtOf f.ty
  Fp.fma m f.rm (m.decode (t.bitsA f)) (m.decode (t.bitsBr f)) (m.decode (t.bitsC f))
def valFdiv (t : Thread) (f : Fields) : Nat :=
  let m := fmtOf f.ty
  Fp.div m f.rm (m.decode (t.bitsA f)) (m.decode (t.bitsB f))
def valFsqrt (t : Thread) (f : Fields) : Nat :=
  let m := fmtOf f.ty
  Fp.sqrt m f.rm (m.decode (t.bitsA f))
/-- FRND: an integer by RM, in the format; a zero keeps the operand's sign (R176). -/
def valFrnd (t : Thread) (f : Fields) : Nat :=
  let m := fmtOf f.ty
  match m.decode (t.bitsA f) with
  | .fin n k e => m.ofInt f.rm (intOf f.rm n k e) 0 n
  | x => m.ofNum f.rm x

/-- Order of two encodings, −0 below +0 (R177). -/
def bitsLess (m : Fmt) (a b : Nat) : Bool :=
  let key (v : Nat) : Int := if 2 ^ m.low ≤ v then -((v % 2 ^ m.low : Nat) : Int) - 1 else (v : Int)
  decide (key a < key b)

/-- FMIN and FMAX on encodings (R177). -/
def minMax (m : Fmt) (isMax num : Bool) (a b : Nat) : Nat :=
  if m.decode a = .nan then if num ∧ m.decode b ≠ .nan then b else m.nan
  else if m.decode b = .nan then if num then a else m.nan
  else if bitsLess m a b then (if isMax then b else a) else (if isMax then a else b)

def valFmin (t : Thread) (f : Fields) : Nat := minMax (fmtOf f.ty) false (f.fn.getLsbD 6) (t.bitsA f) (t.bitsB f)
def valFmax (t : Thread) (f : Fields) : Nat := minMax (fmtOf f.ty) true (f.fn.getLsbD 6) (t.bitsA f) (t.bitsB f)

/-! ## Approximate functions (R178 to R181)

The bits within a bound are open: `Config.approx` names them, and a value of it that breaks its bound is replaced by
the exact function's rounding, or by the end of the range (log 6). -/

/-- Exponent of one ulp of a value whose floor of log₂ is `k` (R178). -/
def ulpExp (k : Int) : Int := if -126 ≤ k then k - 23 else -149

/-- A comparison of dyadic numbers: m · 2^e ≤ m' · 2^e'. -/
def dyLe (m : Int) (e : Int) (m' : Int) (e' : Int) : Bool :=
  let lo := min e e'
  decide (m * 2 ^ (e - lo).toNat ≤ m' * 2 ^ (e' - lo).toNat)

/-- The reciprocal of m · 2^e rounded to nearest. -/
def recipBits (neg : Bool) (m : Nat) (e : Int) : Nat :=
  Fp.div single 0 (.fin neg 1 0) (.fin false m e)

/-- |y − 1/a| within one ulp of 1/a, for positive a = m · 2^e and y = my · 2^ey. -/
def recipOk (m : Nat) (e : Int) (my : Nat) (ey : Int) : Bool :=
  let l := Nat.log2 m
  let k : Int := -((l : Int) + e) - (if m = 2 ^ l then 0 else 1)
  let u := ulpExp k
  -- 1 − u·a ≤ y·a ≤ 1 + u·a
  let a1 : Int := (my * m : Nat)
  let lo := min (min (ey + e) (u + e)) 0
  let p := a1 * 2 ^ (ey + e - lo).toNat
  let q : Int := (m : Int) * 2 ^ (u + e - lo).toNat
  let one : Int := 2 ^ (-lo).toNat
  decide (one - q ≤ p) && decide (p ≤ one + q)

/-- 1/√(m · 2^e) rounded to nearest. -/
def rsqrtBits (m : Nat) (e : Int) : Nat :=
  -- √(2^(2k) / (m·2^(e mod 2))) with a sticky bit
  let odd : Nat := (e % 2).toNat
  let d := m * 2 ^ odd
  let k := Nat.log2 d + 34
  let v := 2 ^ (2 * k) / d
  let r := isqrt v (Nat.log2 v / 2 + 1) 0
  single.round 0 false (2 * r + 1) (-(k : Int) - 1 - (e - odd) / 2)

/-- 1/√a when m · 2^e has an exact one: m a power of four times 2^(e even). -/
def rsqrtExact (m : Nat) (e : Int) : Option Nat :=
  let l : Int := Nat.log2 m + e
  if m = 2 ^ Nat.log2 m ∧ l % 2 = 0 then some (single.round 0 false 1 (-(l / 2))) else none

/-- |y − 1/√a| within one ulp, for positive y and a. -/
def rsqrtOk (m : Nat) (e : Int) (my : Nat) (ey : Int) : Bool :=
  let l : Int := Nat.log2 m + e
  let k : Int := if m = 2 ^ Nat.log2 m ∧ l % 2 = 0 then -(l / 2) else -(l / 2) - 1
  let u := ulpExp k
  let lo := min ey u
  let y : Int := (my : Int) * 2 ^ (ey - lo).toNat
  let w : Int := 2 ^ (u - lo).toNat
  dyLe 1 0 ((y + w) ^ 2 * m) (2 * lo + e) && (decide (y ≤ w) || dyLe ((y - w) ^ 2 * m) (2 * lo + e) 1 0)

/-- The candidate of an approximate function, if it is a finite binary32 number of sign `neg`. -/
def candidate (fn : Config.Approx) (a : Nat) (neg : Bool) : Option (Nat × Nat × Int) :=
  let v := (Config.approx fn (BitVec.ofNat 32 a)).toNat
  match single.decode v with
  | .fin n m e => if n = neg then some (v, m, e) else none
  | _ => none

def frcpBits (a : Nat) : Nat :=
  match single.decode a with
  | .nan => single.nan
  | .inf n => single.sign n
  | .fin n m e =>
    if m = 0 ∨ !dyLe 1 (-128) m e then single.sign n + single.infBits
    else match candidate .rcp a n with
      | some (v, my, ey) => if recipOk m e my ey then v else recipBits n m e
      | none => recipBits n m e

def frsqBits (a : Nat) : Nat :=
  match single.decode a with
  | .nan => single.nan
  | .inf n => if n then single.nan else 0
  | .fin n m e =>
    if m = 0 then single.sign n + single.infBits
    else if n then single.nan
    else
      let fallback := (rsqrtExact m e).getD (rsqrtBits m e)
      match candidate .rsq a false with
      | some (v, my, ey) => if rsqrtOk m e my ey then v else fallback
      | none => fallback

/-- A binary32 value kept between two others; outside it is the lower one. -/
def keepIn (lo hi v : Nat) : Nat :=
  if single.decode v = .nan ∨ bitsLess single v lo ∨ bitsLess single hi v then lo else v

/-- Fraction bits of the fixed-point enclosures of the functions below; each is within 2^−100 of the exact value. -/
def fixBits : Nat := 128
/-- A product of fixed-point numbers. -/
def fixMul (a b : Int) : Int := a * b / 2 ^ fixBits
/-- ln 2, and 2π with 160 fraction bits. -/
def lnTwo : Int := 235865763225513294137944142764154484399
def twoPi : Int := 9182885614096437842769610399486622256908310048836

/-- Σ t · yʲ · k! / (k + j)!, for the terms from the k-th on. -/
def expSum (y : Int) : Nat → Int → Int → Int
  | 0, _, _ => 0
  | n + 1, k, t => t + expSum y n (k + 1) (fixMul t y / (k + 1))
/-- The same for every other term, with alternating signs; `y` is the square of the argument. -/
def trigSum (y : Int) : Nat → Int → Int → Int
  | 0, _, _ => 0
  | n + 1, k, t => t + trigSum y n (k + 2) (-(fixMul t y / ((k + 1) * (k + 2))))
/-- Σ p · zʲ / (k + 2j). -/
def atanhSum (z : Int) : Nat → Int → Int → Int
  | 0, _, _ => 0
  | n + 1, k, p => p / k + atanhSum z n (k + 2) (fixMul p z)

/-- m · 2^e as a fixed-point number. -/
def fixOf (m : Int) (e : Int) : Int := m * 2 ^ (e + fixBits).toNat / 2 ^ (-(e + fixBits)).toNat
/-- 2^x for a fixed-point x in [0, 1). -/
def fixExp2 (x : Int) : Int := expSum (fixMul x lnTwo) 40 0 (2 ^ fixBits)
/-- log₂ (m / 2^l), for m / 2^l in [1, 2). -/
def fixLog2 (m l : Nat) : Int :=
  let z := (((m : Int) - 2 ^ l) * 2 ^ fixBits) / ((m : Int) + 2 ^ l)
  2 * atanhSum (fixMul z z) 45 1 z * 2 ^ fixBits / lnTwo
/-- m · 2^e less its whole turns, for |m · 2^e| ≤ 2^16. -/
def fixTurn (m : Nat) (e : Int) : Int := (fixOf m (e + 32)) % twoPi / 2 ^ 32
def fixSin (r : Int) : Int := trigSum (fixMul r r) 45 1 r
def fixCos (r : Int) : Int := trigSum (fixMul r r) 45 0 (2 ^ fixBits)
/-- tanh of a positive m · 2^e: (1 − u) / (1 + u), with u = 2^(−2a / ln 2); from 64 on it is as near to 1 as the form goes. -/
def fixTanh (m : Nat) (e : Int) : Int :=
  if dyLe 1 6 m e then 2 ^ fixBits - 1
  else
    let q := -(2 * fixOf m e * 2 ^ fixBits / lnTwo)
    let u := fixExp2 (q % 2 ^ fixBits) / 2 ^ (-(q / 2 ^ fixBits)).toNat
    min (2 ^ fixBits - 1) ((2 ^ fixBits - u) * 2 ^ fixBits / (2 ^ fixBits + u))

/-- |y · 2^ye − x · 2^xe| ≤ w · 2^we. -/
def within (y ye x xe w we : Int) : Bool :=
  let lo := min ye (min xe we)
  decide (((y * 2 ^ (ye - lo).toNat - x * 2 ^ (xe - lo).toNat).natAbs : Int) ≤ w * 2 ^ (we - lo).toNat)

/-- The implementation's result for operand bits `a`, if it is within c · 2^k of x · 2^xe; else x · 2^xe rounded (R178). The
enclosure x lies on the same side of every binary32 number as the exact value (log 6). -/
def closeTo (fn : Config.Approx) (a : Nat) (x xe c k : Int) : Nat :=
  let v := (Config.approx fn (BitVec.ofNat 32 a)).toNat
  let exact := single.ofInt 0 x xe false
  match single.decode v with
  | .fin n m e => if within (if n then -(m : Int) else m) e x xe c k then v else exact
  | _ => exact

/-- An enclosure of a value that is less than 1 in magnitude. -/
def belowOne (x : Int) : Int := max (1 - 2 ^ fixBits) (min (2 ^ fixBits - 1) x)

/-- floor log₂ |x · 2^−fixBits|. -/
def fixLevel (x : Int) : Int := (Nat.log2 x.natAbs : Int) - fixBits

def fexp2Bits (a : Nat) : Nat :=
  match single.decode a with
  | .nan => single.nan
  | .inf n => if n then 0 else single.infBits
  | .fin n m e =>
    if !n ∧ dyLe 128 0 m e then single.infBits
    else if n ∧ dyLe 150 0 m e then 0
    else if m = 0 then single.round 0 false 1 0
    else
      let x : Int := if n then -(m : Int) else m
      let fl := intOf 2 n m e
      if dyLe fl 0 x e && dyLe x e fl 0 then single.round 0 false 1 fl
      -- 2^a is no power of two for such an a
      else closeTo .exp2 a (max (2 ^ fixBits + 1) (min (2 ^ (fixBits + 1) - 1) (fixExp2 (fixOf x e % 2 ^ fixBits)))) (fl - fixBits) 2
        (ulpExp fl)

def flog2Bits (a : Nat) : Nat :=
  match single.decode a with
  | .nan => single.nan
  | .inf n => if n then single.nan else single.infBits
  | .fin n m e =>
    if m = 0 then single.sign true + single.infBits
    else if n then single.nan
    else
      let l := Nat.log2 m
      let k : Int := l + e
      if m = 2 ^ l then single.ofInt 0 k 0 false
      else
        let x := k * 2 ^ fixBits + fixLog2 m l
        -- the absolute bound holds for a in [0.5, 2]
        if k = -1 ∨ k = 0 then closeTo .log2 a x (-fixBits) 1 (-22)
        else closeTo .log2 a x (-fixBits) 2 (ulpExp (fixLevel x))

/-- ±1 as binary32. -/
def oneBits (neg : Bool) : Nat := single.sign neg + 127 * 2 ^ 23

/-- A binary32 value above 1 in magnitude gives way to 1 of its sign (R179). -/
def atMostOne (v : Nat) : Nat :=
  if bitsLess single (oneBits false) v then oneBits false else if bitsLess single v (oneBits true) then oneBits true else v

/-- |a| < 2^−11. -/
def tiny (m : Nat) (e : Int) : Bool := !dyLe 1 (-11) m e

/-- FSIN and FCOS of a finite operand: within 2^−21 up to 2^16, any value of [−1, 1] beyond. -/
def turnBits (fn : Config.Approx) (f : Int → Int) (neg : Bool) (a m : Nat) (e : Int) : Nat :=
  if dyLe m e 1 16 then
    atMostOne (closeTo fn a (belowOne (if neg then -(f (fixTurn m e)) else f (fixTurn m e))) (-fixBits) 1 (-21))
  else keepIn (oneBits true) (oneBits false) (Config.approx fn (BitVec.ofNat 32 a)).toNat

def fsinBits (a : Nat) : Nat :=
  match single.decode a with
  | .nan | .inf _ => single.nan
  | .fin n m e => if m = 0 ∨ tiny m e then a else turnBits .sin fixSin n a m e
def fcosBits (a : Nat) : Nat :=
  match single.decode a with
  | .nan | .inf _ => single.nan
  | .fin _ m e => if m = 0 then oneBits false else turnBits .cos fixCos false a m e
def ftanhBits (a : Nat) : Nat :=
  match single.decode a with
  | .nan => single.nan
  | .inf n => oneBits n
  | .fin n m e =>
    if m = 0 ∨ tiny m e then a
    else
      let x := fixTanh m e
      atMostOne (closeTo .tanh a (if n then -x else x) (-fixBits) 2 (ulpExp (fixLevel x)))

/-- A binary16 or bfloat16 operand is widened, and the result rounded to nearest (R180). -/
def approxOp (fn : Nat → Nat) (t : Thread) (f : Fields) : Nat :=
  let m := fmtOf f.ty
  if f.ty = .f32 then fn (t.bitsA f)
  else m.ofNum 0 (single.decode (fn (single.ofNum 0 (m.decode (t.bitsA f)))))

/-! ## Packed operations (R182, R183) -/

/-- Element `e` of a packed pair. -/
def packElt (v : Nat) (e : Nat) : Nat := v / 2 ^ (16 * e) % 65536

/-- The last source of a packed instruction: an immediate stands for both elements (R175). -/
def packImm (t : Thread) (f : Fields) (r : BitVec 7) : Nat :=
  match f.ext with
  | .imm32 v => v.toNat % 65536 * 65537
  | _ => (t.reg r).toNat

/-- Applies an operation to the two elements. -/
def packed (op : Nat → Nat) : Word := BitVec.ofNat 32 (op 0 + 65536 * op 1)

def valHadd2 (t : Thread) (f : Fields) : Word :=
  let m := fmtOf f.ty
  packed (fun e => Fp.add m f.rm
    (m.decode (modBits m (f.fn.getLsbD 3) (f.fn.getLsbD 0) (packElt (t.reg f.a).toNat e)))
    (m.decode (modBits m (f.fn.getLsbD 4) (f.fn.getLsbD 1) (packElt (packImm t f f.b) e))))
def valHmul2 (t : Thread) (f : Fields) : Word :=
  let m := fmtOf f.ty
  packed (fun e => Fp.mul m f.rm
    (m.decode (modBits m (f.fn.getLsbD 3) (f.fn.getLsbD 0) (packElt (t.reg f.a).toNat e)))
    (m.decode (modBits m (f.fn.getLsbD 4) (f.fn.getLsbD 1) (packElt (packImm t f f.b) e))))
def valHfma2 (t : Thread) (f : Fields) : Word :=
  let m := fmtOf f.ty
  packed (fun e => Fp.fma m f.rm
    (m.decode (modBits m (f.fn.getLsbD 3) (f.fn.getLsbD 0) (packElt (t.reg f.a).toNat e)))
    (m.decode (modBits m (f.fn.getLsbD 4) (f.fn.getLsbD 1) (packElt (t.reg f.b).toNat e)))
    (m.decode (modBits m (f.fn.getLsbD 5) (f.fn.getLsbD 2) (packElt (packImm t f f.c) e))))

/-- The exact sum of a list of numbers, kept exact; a zero is −0 only where every term is −0, or under `.rd`
where the terms differ in sign (R183). -/
def sumNums (rm : BitVec 2) : List Fp → Fp
  | [] => .fin false 0 0
  | [x] => x
  | x :: xs =>
    match x, sumNums rm xs with
    | .nan, _ | _, .nan => .nan
    | .inf n, .inf n' => if n = n' then .inf n else .nan
    | .inf n, _ | _, .inf n => .inf n
    | .fin n1 m1 e1, .fin n2 m2 e2 =>
      let r := exactAdd n1 m1 e1 n2 m2 e2
      if r.1 = 0 then .fin (if m1 = 0 ∧ m2 = 0 ∧ n1 = n2 then n1 else rm == 2) 0 r.2
      else .fin (decide (r.1 < 0)) r.1.natAbs r.2

def valHdot2 (t : Thread) (f : Fields) : Word :=
  let m := fmtOf f.ty
  let p (e : Nat) : Fp :=
    (m.decode (modBits m (f.fn.getLsbD 3) (f.fn.getLsbD 0) (packElt (t.reg f.a).toNat e))).mulExact
      (m.decode (modBits m (f.fn.getLsbD 4) (f.fn.getLsbD 1) (packElt (t.reg f.b).toNat e)))
  let c := single.decode (modBits single (f.fn.getLsbD 5) (f.fn.getLsbD 2) ((t.srcCi f .f32).toNat % 2 ^ 32))
  let ps := sumNums f.rm [p 0, p 1]
  BitVec.ofNat 32 (single.ofNum f.rm (sumNums f.rm [ps, c]))

/-- The class bit of an operand (Table 10-5). -/
def valFclass (t : Thread) (f : Fields) : Nat :=
  let m := fmtOf f.ty
  let v := opBits f.ty (t.reg f.a)
  match m.decode v with
  | .nan => if v / 2 ^ (m.fb - 1) % 2 = 1 then 9 else 8
  | .inf n => if n then 0 else 7
  | .fin n k _ =>
    if k = 0 then (if n then 3 else 4)
    else if k < 2 ^ m.fb then (if n then 2 else 5)
    else (if n then 1 else 6)

/-- Writes a floating-point result (R158). -/
def Thread.putNum (t : Thread) (f : Fields) (v : Nat) : Thread := t.setReg f.d (numWord v)

def execFadd (f : Fields) (s : State) : Result := .next (s.regOp (.fadd f) f.g (fun t => t.putNum f (valFadd t f)))
def execFmul (f : Fields) (s : State) : Result := .next (s.regOp (.fmul f) f.g (fun t => t.putNum f (valFmul t f)))
def execFfma (f : Fields) (s : State) : Result := .next (s.regOp (.ffma f) f.g (fun t => t.putNum f (valFfma t f)))
def execFmin (f : Fields) (s : State) : Result := .next (s.regOp (.fmin f) f.g (fun t => t.putNum f (valFmin t f)))
def execFmax (f : Fields) (s : State) : Result := .next (s.regOp (.fmax f) f.g (fun t => t.putNum f (valFmax t f)))
def execFrcp (f : Fields) (s : State) : Result := .next (s.regOp (.frcp f) f.g (fun t => t.putNum f (approxOp frcpBits t f)))
def execFrsq (f : Fields) (s : State) : Result := .next (s.regOp (.frsq f) f.g (fun t => t.putNum f (approxOp frsqBits t f)))
def execFsqrt (f : Fields) (s : State) : Result := .next (s.regOp (.fsqrt f) f.g (fun t => t.putNum f (valFsqrt t f)))
def execFexp2 (f : Fields) (s : State) : Result :=
  .next (s.regOp (.fexp2 f) f.g (fun t => t.putNum f (approxOp fexp2Bits t f)))
def execFlog2 (f : Fields) (s : State) : Result :=
  .next (s.regOp (.flog2 f) f.g (fun t => t.putNum f (approxOp flog2Bits t f)))
def execFsin (f : Fields) (s : State) : Result := .next (s.regOp (.fsin f) f.g (fun t => t.putNum f (approxOp fsinBits t f)))
def execFcos (f : Fields) (s : State) : Result := .next (s.regOp (.fcos f) f.g (fun t => t.putNum f (approxOp fcosBits t f)))
def execFtanh (f : Fields) (s : State) : Result :=
  .next (s.regOp (.ftanh f) f.g (fun t => t.putNum f (approxOp ftanhBits t f)))
def execFdiv (f : Fields) (s : State) : Result := .next (s.regOp (.fdiv f) f.g (fun t => t.putNum f (valFdiv t f)))
def execHadd2 (f : Fields) (s : State) : Result := .next (s.regOp (.hadd2 f) f.g (fun t => t.setReg f.d (valHadd2 t f)))
def execHmul2 (f : Fields) (s : State) : Result := .next (s.regOp (.hmul2 f) f.g (fun t => t.setReg f.d (valHmul2 t f)))
def execHfma2 (f : Fields) (s : State) : Result := .next (s.regOp (.hfma2 f) f.g (fun t => t.setReg f.d (valHfma2 t f)))
def execHdot2 (f : Fields) (s : State) : Result := .next (s.regOp (.hdot2 f) f.g (fun t => t.setReg f.d (valHdot2 t f)))
def execFclass (f : Fields) (s : State) : Result :=
  .next (s.regOp (.fclass f) f.g (fun t => t.setReg f.d (BitVec.ofNat 32 (2 ^ valFclass t f))))
def execFrnd (f : Fields) (s : State) : Result := .next (s.regOp (.frnd f) f.g (fun t => t.putNum f (valFrnd t f)))

end Sys2Proof.Machine
end

