-- ==== Sys2Proof/Machine/Convert.lean ====
section
/-!
DEFINITION. Tapered formats and conversions (R151 to R155, R159, R166 to R173).
-/
namespace Sys2Proof.Machine
open Sys2Proof

/-- Length of the run of bits equal to the top bit of an `n`-bit field. -/
def runLength (v : Nat) (r : Bool) : Nat → Nat
  | 0 => 0
  | n + 1 => if bitOf v n == r then 1 + runLength v r n else 0

/-- The value of an `n`-bit magnitude field as (1 + f/2^nf) · 2^(2k+e), an integer and a power of two; the
field is not zero (R151). -/
def taperMag (n v : Nat) : Nat × Int :=
  let r := bitOf v (n - 1)
  let m := runLength v r n
  let k : Int := if r then (m : Int) - 1 else -(m : Int)
  let left := n - min n (m + 1)
  let e := if left = 0 then 0 else v / 2 ^ (left - 1) % 2
  let nf := left - 1
  (2 ^ nf + v % 2 ^ nf, 2 * k + e - nf)

/-- Magnitude bits of T8 and T6. -/
def taperBits (t6 : Bool) : Nat := if t6 then 5 else 7
/-- NaR (R151). -/
def narCode (t6 : Bool) : Nat := if t6 then 0x20 else 0x80

/-- The number that a tapered code stands for; NaR decodes as NaN (R151, R155). -/
def taperDecode (t6 : Bool) (code : Nat) : Fp :=
  let n := taperBits t6
  let neg := code / 2 ^ n % 2 == 1
  let mag := code % 2 ^ n
  if mag = 0 then if neg then .nan else .fin false 0 0
  else
    let v := taperMag n mag
    .fin neg v.1 v.2

/-- v(c) ≤ m · 2^e. -/
def taperLe (n c m : Nat) (e : Int) : Bool :=
  let v := taperMag n c
  dyLe v.1 v.2 m e

/-- The largest code in 1 … `k` whose value is at most m · 2^e; 1 where there is none. -/
def taperFloor (n m : Nat) (e : Int) : Nat → Nat
  | 0 => 1
  | k + 1 => if taperLe n (k + 1) m e then k + 1 else taperFloor n m e k

/-- A tapered code of a finite magnitude, rounded to nearest-even on the encoding (R153). -/
def taperRoundMag (n m : Nat) (e : Int) : Nat :=
  let top := 2 ^ n - 1
  if taperLe n top m e then top
  else
    let v1 := taperMag n 1
    if dyLe m e v1.1 v1.2 then 1
    else
      let c := taperFloor n m e top
      let t := taperMag (n + 1) (2 * c + 1)
      if !dyLe t.1 t.2 m e then c
      else if !dyLe m e t.1 t.2 then c + 1
      else if c % 2 = 0 then c else c + 1

/-- A tapered code of a finite magnitude, rounded stochastically with `r` (R154). -/
def taperSrMag (n m : Nat) (e : Int) (r : Nat) : Nat :=
  let top := 2 ^ n - 1
  if taperLe n top m e then top
  else
    let v1 := taperMag n 1
    if dyLe m e v1.1 v1.2 then 1
    else
      let c := taperFloor n m e top
      let a := taperMag n c
      let b := taperMag n (c + 1)
      let lo := min e (min a.2 b.2)
      let y := m * 2 ^ (e - lo).toNat
      let va := a.1 * 2 ^ (a.2 - lo).toNat
      let vb := b.1 * 2 ^ (b.2 - lo).toNat
      let d := (y - va) * 65536 / (vb - va)
      if r < d then c + 1 else c

/-- The code of (−1)^neg · m · 2^e, with the magnitude rounded by `rnd`. −0 gives code 0 (R153). -/
def taperCode (t6 : Bool) (rnd : Nat → Nat → Int → Nat) (neg : Bool) (m : Nat) (e : Int) : Nat :=
  if m = 0 then 0 else rnd (taperBits t6) m e + (if neg then narCode t6 else 0)

/-- Quantises a number under block scale `sc` (R155, R159, R169). -/
def quantise (t6 : Bool) (rnd : Nat → Nat → Int → Nat) (sc : Nat) (x : Fp) : Nat :=
  if sc = 255 then narCode t6
  else match x with
    | .fin n m e => taperCode t6 rnd n m (e + 127 - sc)
    | _ => narCode t6

/-- A number times 2^k. -/
def Fp.scale (x : Fp) (k : Int) : Fp :=
  match x with
  | .fin n m e => .fin n m (e + k)
  | y => y

/-- The value of a code under a scale (R155, R159, R170). -/
def dequantise (t6 : Bool) (sc : Nat) (code : Nat) : Fp :=
  if sc = 255 then .nan
  else match taperDecode t6 code with
    | .fin _ 0 _ => .fin false 0 0
    | x => x.scale ((sc : Int) - 127)

/-- QT8 and QT6: the scale is B[7:0] or the immediate, the random bits C[15:0] (R169). -/
def valQt (t6 : Bool) (t : Thread) (f : Fields) : Nat :=
  let sc := (t.srcBi f .b32).toNat % 256
  let rnd : Nat → Nat → Int → Nat :=
    if f.x = 1 then fun n m e => taperSrMag n m e ((t.reg f.c).toNat % 65536) else taperRoundMag
  quantise t6 rnd sc (t.numA f)

/-- DQT8 and DQT6 (R170). -/
def valDqt (t6 : Bool) (t : Thread) (f : Fields) : Nat :=
  let sc := (t.srcBi f .b32).toNat % 256
  let code := (t.reg f.a).toNat / 2 ^ (8 * (f.fn.toNat % 4)) % (if t6 then 64 else 256)
  (fmtOf f.ty).ofNum f.rm (dequantise t6 sc code)

/-- CVTI (R167). -/
def valCvti (t : Thread) (f : Fields) : Int :=
  let src := cvtSrc f
  if src.isFloat then
    match numOf src (t.reg f.a) with
    | .nan => 0
    | .inf n => if n then tyMin f.ty else tyMax f.ty
    | .fin n m e => tyClamp f.ty (intOf f.rm n m e)
  else
    let x := tyInt src (t.raw src.is64 f.a)
    if f.x = 1 then tyClamp f.ty x else x

/-- CVTF (R168). -/
def valCvtf (t : Thread) (f : Fields) : Nat :=
  let src := cvtSrc f
  let m := fmtOf f.ty
  if src.isFloat then m.ofNum f.rm (numOf src (t.reg f.a))
  else m.ofInt f.rm (tyInt src (t.raw src.is64 f.a)) 0 false

/-- The larger magnitude of two encodings of binary32, NaN prevailing (R171). -/
def absMax (a b : Nat) : Nat :=
  if single.decode a = .nan ∨ single.decode b = .nan then single.nan
  else if a % 2 ^ 31 < b then b else a % 2 ^ 31

/-- AMAX (R171): max(|a|, b), never negative. -/
def valAmax (t : Thread) (f : Fields) : Nat :=
  let b := (t.reg f.b).toNat
  let wide (e : Nat) : Nat := single.ofNum 0 ((fmtOf f.ty).decode (packElt (t.reg f.a).toNat e))
  let a := if f.ty = .f32 then absMax (t.reg f.a).toNat 0 else absMax (wide 0) (absMax (wide 1) 0)
  if single.decode b = .nan ∨ single.decode a = .nan then single.nan
  else if b / 2 ^ 31 = 1 then a else absMax a b

/-- FGETE (R172). -/
def valFgete (t : Thread) (f : Fields) : Word :=
  match t.numA f with
  | .fin _ m e =>
    if m = 0 then (if f.fn = 1 then 127 else 0x80000000)
    else
      let k : Int := Nat.log2 m + e
      if f.fn = 1 then BitVec.ofInt 32 (max 0 (min (k + 127) 254)) else BitVec.ofInt 32 k
  | _ => if f.fn = 1 then 255 else 0x7FFFFFFF

/-- PACK (R173). -/
def valPack (t : Thread) (f : Fields) : Word :=
  if f.fn = 0 then
    let m := fmtOf f.ty
    BitVec.ofNat 32 (m.ofNum f.rm (single.decode (t.reg f.a).toNat)
      + 65536 * m.ofNum f.rm (single.decode (t.reg f.b).toNat))
  else BitVec.ofNat 32 ((List.range 4).foldl (fun acc k =>
    acc + (t.reg f.a).toNat / 2 ^ (8 * k) % 64 * 2 ^ (6 * k)) 0)

/-- UNPK (R173). -/
def unpack (t : Thread) (f : Fields) : Thread :=
  let a := (t.reg f.a).toNat
  if f.fn = 0 then
    let wide (e : Nat) : Nat := single.ofNum 0 ((fmtOf f.ty).decode (packElt a e))
    t.setPair f.d (BitVec.ofNat 64 (wide 0 + 2 ^ 32 * wide 1))
  else t.setReg f.d (BitVec.ofNat 32 ((List.range 4).foldl (fun acc k => acc + a / 2 ^ (6 * k) % 64 * 2 ^ (8 * k)) 0))

def execCvti (f : Fields) (s : State) : Result :=
  .next (s.regOp (.cvti f) f.g (fun t => t.putInt f.d f.ty (valCvti t f)))
def execCvtf (f : Fields) (s : State) : Result := .next (s.regOp (.cvtf f) f.g (fun t => t.putNum f (valCvtf t f)))
def execQt8 (f : Fields) (s : State) : Result :=
  .next (s.regOp (.qt8 f) f.g (fun t => t.setReg f.d (BitVec.ofNat 32 (valQt false t f))))
def execQt6 (f : Fields) (s : State) : Result :=
  .next (s.regOp (.qt6 f) f.g (fun t => t.setReg f.d (BitVec.ofNat 32 (valQt true t f))))
def execDqt8 (f : Fields) (s : State) : Result := .next (s.regOp (.dqt8 f) f.g (fun t => t.putNum f (valDqt false t f)))
def execDqt6 (f : Fields) (s : State) : Result := .next (s.regOp (.dqt6 f) f.g (fun t => t.putNum f (valDqt true t f)))
def execAmax (f : Fields) (s : State) : Result :=
  .next (s.regOp (.amax f) f.g (fun t => t.setReg f.d (BitVec.ofNat 32 (valAmax t f))))
def execFgete (f : Fields) (s : State) : Result := .next (s.regOp (.fgete f) f.g (fun t => t.setReg f.d (valFgete t f)))
def execPack (f : Fields) (s : State) : Result := .next (s.regOp (.pack f) f.g (fun t => t.setReg f.d (valPack t f)))
def execUnpk (f : Fields) (s : State) : Result := .next (s.regOp (.unpk f) f.g (fun t => unpack t f))

end Sys2Proof.Machine
end

