-- ==== Sys2Proof/Machine/TxLog.lean ====
section
/-!
DEFINITION. The logs of a transaction (R306, R307) and the trump token (R318 to R321).
-/
namespace Sys2Proof.Machine
open Sys2Proof

/-- Read entries, and write entries, that the threads of a core hold (R307). -/
def State.poolReads (s : State) (core : Nat) : Nat :=
  (s.crewList.filter (fun e => e.2.loc.map (·.1) == some core)).foldl (fun n e =>
    e.2.threadList.foldl (fun m t => m + t.2.tx.reads.length) n) 0
def State.poolWrites (s : State) (core : Nat) : Nat :=
  (s.crewList.filter (fun e => e.2.loc.map (·.1) == some core)).foldl (fun n e =>
    e.2.threadList.foldl (fun m t => m + t.2.tx.writes.length) n) 0

/-- What a transactional access does. -/
inductive TxOut (α : Type) where
  | ok (v : α)
  /-- The transaction aborts with a cause of Table 17-5. -/
  | abort (cause : Nat)
  | fault (c : Cause)
  /-- The access waits at the home slice (R312). -/
  | wait

/-- The granules of a run of bytes (R306). -/
def granules (pa n : Nat) : List Nat := (List.range ((pa + n - 1) / 8 - pa / 8 + 1)).map (pa / 8 + ·)

/-- Whether the write log holds a byte. -/
def Tx.written (x : Tx) (pa : Nat) : Bool :=
  match x.writes.get (pa / 8) with
  | some (_, m) => m.getLsbD (pa % 8)
  | none => false

/-- A byte as the transaction sees it: its write log, then its read log (R306). -/
def Tx.byte (x : Tx) (pa : Nat) : Byte :=
  match x.writes.get (pa / 8) with
  | some (v, m) => if m.getLsbD (pa % 8) then v.extractLsb' (8 * (pa % 8)) 8
    else ((x.reads.get (pa / 8)).getD 0).extractLsb' (8 * (pa % 8)) 8
  | none => ((x.reads.get (pa / 8)).getD 0).extractLsb' (8 * (pa % 8)) 8

/-- Enters the read granules that an access needs and the logs do not hold, read at their home slices (R195, R285, R306,
R307, R319). -/
def State.txEnter (s : State) (r : ThreadRef) (c : Crew) : List Nat → Tx → TxOut Tx
  | [], x => .ok x
  | g :: gs, x =>
    if (x.reads.get g).isSome then s.txEnter r c gs x
    else if Config.txReads ≤ x.reads.length ∨ Config.txPoolReads ≤ s.poolReads c.core + x.reads.length -
        ((s.thread r).map (·.tx.reads.length)).getD 0 then .abort 3
    else if (s.walker c.part).trump.lines.contains (g * 8 / 128) then .abort 7
    else if s.marked (g * 8 / 128) (some r) true || s.writePending r (g * 8) 8 || s.homeBusy (g * 8) then .wait
    else if !s.ownedBy (ownerCode c.fn) (g * 8) then .fault .owner
    else if s.runBad (g * 8) 8 then .fault .poison
    else s.txEnter r c gs { x with reads := x.reads.set g (some (BitVec.ofNat 64 (s.valueAt (g * 8) 8))) }

/-- A transactional load: its bytes, and the logs after it (R306). -/
def State.txLoad (s : State) (r : ThreadRef) (c : Crew) (x : Tx) (pa n : Nat) : TxOut (List Byte × Tx) :=
  let need := (granules pa n).filter (fun g =>
    (List.range n).any (fun i => (pa + i) / 8 == g && !x.written (pa + i)))
  match s.txEnter r c need x with
  | .ok y => .ok ((List.range n).map (fun i => y.byte (pa + i)), y)
  | .abort c => .abort c
  | .fault c => .fault c
  | .wait => .wait

/-- The granules that an access enters in the read log are asked for at the shared cache, as the thread's loads are (R276). -/
def State.txWant (s : State) (fn : Nat) (x y : Tx) : State :=
  (y.reads.keys.filter (fun g => (x.reads.get g).isNone)).foldl (fun s g => s.want fn 0 (g * 8) 8) s

/-- Places a byte in the write log. -/
def Tx.putByte (x : Tx) (pa : Nat) (b : Byte) : Tx :=
  let (v, m) := (x.writes.get (pa / 8)).getD (0, 0)
  let sh := 8 * (pa % 8)
  let v' := (v &&& ~~~(BitVec.ofNat 64 (255 * 2 ^ sh))) ||| BitVec.ofNat 64 (b.toNat * 2 ^ sh)
  { x with writes := x.writes.set (pa / 8) (some (v', m ||| BitVec.ofNat 8 (2 ^ (pa % 8)))) }

/-- Places bytes in the write log (R306). -/
def Tx.putBytes (x : Tx) : Nat → List Byte → Tx
  | _, [] => x
  | pa, b :: bs => (x.putByte pa b).putBytes (pa + 1) bs

/-- A transactional store (R306, R307). -/
def State.txStore (s : State) (r : ThreadRef) (core : Nat) (x : Tx) (pa : Nat) (bytes : List Byte) : TxOut Tx :=
  let fresh := ((granules pa bytes.length).filter (fun g => (x.writes.get g).isNone)).length
  let mine := ((s.thread r).map (·.tx.writes.length)).getD 0
  if fresh ≠ 0 ∧ (Config.txWrites < x.writes.length + fresh ∨
      Config.txPoolWrites < s.poolWrites core - mine + x.writes.length + fresh) then .abort 3
  else .ok (x.putBytes pa bytes)

/-! ## The trump -/

/-- Grants the token to a thread: it becomes Irrevocable and goes on at its TXB's successor (R318). -/
def Thread.grantTrump (t : Thread) : Thread :=
  { t with
    tx := { t.tx with state := .irrevocable }
    pc := successor t.pc 12, status := .runnable, age := 0 }

/-- Frees the token and clears its set; it passes to the head of the FIFO (R318 to R320). -/
def State.freeTrump (s : State) (fn : Nat) : State :=
  match (s.shareOf fn).trump.fifo with
  | [] => s.onShare fn (fun w => { w with trump := { holder := none, fifo := [], lines := [] } })
  | r :: rest =>
    (s.onShare fn (fun w => { w with trump := { holder := some r, fifo := rest, lines := [] } })).onThread r (·.grantTrump)

/-- A lost or discarded crew's trump is freed, and its places in the FIFO (R321). -/
def State.dropTrump (s : State) (fn crew : Nat) : State :=
  let s1 := s.onShare fn (fun w => { w with trump := { w.trump with fifo := w.trump.fifo.filter (fun r => r.crew != crew) } })
  match (s1.shareOf fn).trump.holder with
  | some r => if r.crew = crew then s1.freeTrump fn else s1
  | none => s1

/-- Ends a thread's trump: COUNT and MASK go to zero, the thread is Outside (R320). -/
def State.endTrump (s : State) (r : ThreadRef) : State :=
  (s.onThread r (fun t => { t with tx := { t.tx with state := .outside, count := 0, mask := 0 } })).freeTrump (s.fnOf r.crew)

/-- A line that the holder reads or writes enters the trump set at its home slice (R319). -/
def State.trumpLine (s : State) (r : ThreadRef) (pa : Nat) : State :=
  match s.thread r, s.crew r.crew with
  | some t, some c =>
    if t.tx.state = .irrevocable then
      let ls := (s.shareOf c.fn).trump.lines
      let ls' := if ls.contains (pa / 128) then ls else ls ++ [pa / 128]
      s.onShare c.fn (fun w => { w with trump := { w.trump with lines := ls' } })
    else s
  | _, _ => s

/-- Instructions that abort a transaction with SCOPE (Table 17-4) run `k` outside one only. -/
def State.outsideTx (s : State) (r : ThreadRef) (t : Thread) (k : State → State) : State :=
  if t.tx.state = .transactional then s.abortTx r 9 0 0 else k s

end Sys2Proof.Machine
end

