-- ==== Sys2Proof/Machine/Units.lean ====
section
/-!
DEFINITION. Accesses of units that act for a function without a cluster TLB: front ends, walkers and the fault
and hot rings (R31, R41, R188 to R197); and the fault records (R350).
-/
namespace Sys2Proof.Machine
open Sys2Proof

/-- Translates and checks an access of a unit for a function. -/
def State.translateUnit (s : State) (fn va : Nat) (need : Need) : Except Cause Target × State :=
  if !canonical va then (.error .perm, s)
  else
    let w := s.walk fn va need
    let s0 := s.sawEntries fn w.seen
    match w.out with
    | .error c => (.error c, s0)
    | .ok x =>
      let s1 := x.touched.foldl (fun s l => s.touchPte fn l.1 l.2) s0
      (s1.checkPa fn need false x.kind (s1.ownerAt (s1.localPa x.pa)) x.pa, s1)

/-! ## Global accesses to private slots (R187) -/

/-- The private slot of a living crew of a function that holds a virtual address: the crew, and the offset (R187). -/
def State.arenaOf (s : State) (fn va : Nat) : Option (Nat × Nat) :=
  s.crewList.findSome? (fun e =>
    let lo := s.privAddr e.2 0
    if e.2.fn = fn ∧ e.2.privSlot.isSome ∧ lo ≤ va ∧ va < lo + 2 ^ 24 then some (e.1, va - lo) else none)

/-- What a global access returns of a living crew's private slot is indeterminate (R187, log 71). -/
def State.blurred (s : State) (fn va : Nat) (bytes : List Byte) : List Byte × State :=
  match s.arenaOf fn va with
  | some _ => (freeBytes s.fresh bytes.length, { s with fresh := s.fresh + bytes.length })
  | none => (bytes, s)

/-- A global access that writes into a living crew's private slot leaves indeterminate bytes there (R187). -/
def State.spoilPriv (s : State) (fn va pa n : Nat) : State :=
  match s.arenaOf fn va with
  | some (crew, off) =>
    let bs := freeBytes s.fresh n
    if s.isPeer pa then s
    else ({ s with fresh := s.fresh + n } : State).onCrew crew (fun c => { c with
      own := c.own.setList off (bs.map some)
      ownPa := c.ownPa.setList off ((List.range n).map (pa + ·)) })
  | none => s

/-- The bytes that a store of a function leaves, with what it does to a living crew's private slot (R187). -/
def State.blurStore (s : State) (fn va : Nat) (tg : Target) (bytes : List Byte) : List Byte × State :=
  (s.spoilPriv fn va tg.pa bytes.length).blurred fn va bytes

/-! ## Reads and writes of units -/

/-- Reads bytes that lie in one page, at their points of performance, by requests of a class (R276); what another device holds
is a free value (log 2). -/
def State.unitReadAs (s : State) (cls fn va n : Nat) : Except Cause (List Byte) × State :=
  match s.translateUnit fn va .read with
  | (.error c, s1) => (.error c, s1)
  | (.ok tg, s1) =>
    if tg.peer then (.ok (freeBytes s1.fresh n), { s1 with fresh := s1.fresh + n })
    else
      let s2 := s1.want fn cls tg.pa n
      if s2.runBad tg.pa n then (.error .poison, s2.meetPoison tg.pa n)
      else
        let (bs, s3) := s2.blurred fn va (s2.bytesAt tg.pa n)
        (.ok bs, s3)

/-- A read of a unit of the latency class. -/
def State.unitRead (s : State) (fn va n : Nat) : Except Cause (List Byte) × State := s.unitReadAs 0 fn va n

/-- An access of a unit waits at its home slice: for a view that is going into or out of service (R162), or for a lost unit's
stripe (R265). -/
def State.unitBusy (s : State) (fn va : Nat) : Bool :=
  match (s.translateUnit fn va .read).1 with
  | .ok tg => !tg.peer && s.homeBusy tg.pa
  | .error _ => false

/-- Reads `k` runs of `n` bytes one after another. -/
def State.unitReads (s : State) (fn va n : Nat) : Nat → Except Cause (List (List Byte)) × State
  | 0 => (.ok [], s)
  | k + 1 =>
    match s.unitRead fn va n with
    | (.error c, s1) => (.error c, s1)
    | (.ok bs, s1) =>
      match s1.unitReads fn (va + n) n k with
      | (.error c, s2) => (.error c, s2)
      | (.ok rest, s2) => (.ok (bs :: rest), s2)

/-- Sends a write of a unit of a function to a translated place. -/
def State.unitSend (s : State) (w : Writer) (fn va : Nat) (tg : Target) (bytes : List Byte) (atom : Option AtomOp) :
    State :=
  let (id, s0) := s.newId
  let (bs, s1) := s0.blurStore fn va tg bytes
  s1.pushWrite { unitWrite id w fn tg.pa bs (s.lazyFor fn) tg.peer with
    va := va, kind := tg.kind, atom := atom
    tag := s.tagFor tg.peer, sent := s.fab }

/-- Stores bytes of one page for a function; nothing is written where the access faults. -/
def State.unitStore (s : State) (w : Writer) (fn va : Nat) (bytes : List Byte) : Option Cause × State :=
  match s.translateUnit fn va .write with
  | (.error c, s1) => (some c, s1)
  | (.ok tg, s1) => (none, s1.unitSend w fn va tg bytes none)

/-! ## Fault records (R350, Table 19-5) -/

/-- What a fault record says. -/
structure FaultRec where
  cause : Nat
  kind : Nat
  code : Nat
  handle : Nat
  tid : Nat
  pc : DWord
  faddr : DWord
  nest : Nat
  core : Nat
  pt : List Word
  deriving DecidableEq, Repr

/-- The four walked coordinates. -/
def ptBytes (pt : List Word) : List Byte := (List.range 4).flatMap (fun k => leBytes 4 (pt.getD k 0).toNat)

/-- The 64 bytes of a record. -/
def State.recordBytes (s : State) (fn : Nat) (r : FaultRec) : List Byte :=
  leBytes 1 r.cause ++ leBytes 1 r.kind ++ leBytes 1 r.code ++ leBytes 1 (s.genOf fn) ++ leBytes 2 r.handle ++
    leBytes 2 r.tid ++ leBytes 8 r.pc.toNat ++ leBytes 8 r.faddr.toNat ++ leBytes 2 r.nest ++ leBytes 2 r.core ++
    leBytes 4 0 ++ ptBytes r.pt ++ leBytes 8 s.time ++ leBytes 8 0

/-- Queues a record for the ring of a function (R350). -/
def State.record (s : State) (fn : Nat) (r : FaultRec) : State :=
  let b := s.recordBytes fn r
  s.onFunc fn (fun f => { f with records := f.records ++ [b] })

/-! ## Acknowledgement (R205, R264, R282, R300) -/

/-- Nothing stands before the acknowledgement of a write: an HBM write has its delta applied, or only its data
in lazy-release mode; any other local write has been performed. -/
def Write.settled (w : Write) : Bool :=
  match w.stage with
  | .issued => false
  | .home => regionOf w.pa != .hbm && regionOf w.pa != .view
  | .delta => w.lazy
  | .applied => true

end Sys2Proof.Machine
end

