-- ==== Sys2Proof/Machine/Access.lean ====
section
/-!
DEFINITION. Loads and stores of every space, prefetch, line marks, and the landing of load data (R185, R197,
R202 to R209, R305, R306).
-/
namespace Sys2Proof.Machine
open Sys2Proof

/-- Checks an access of `n` bytes of a crew's thread to global memory (R197): ALIGN, a canonical address, the
translation, the owner. -/
def State.access (s : State) (c : Crew) (va n : Nat) (need : Need) (atomic : Bool) : Except Cause Target × State :=
  if va % n ≠ 0 then (.error .align, s) else s.translate c.cluster c.fn va need atomic

/-- Takes a fault of an access (R107, R189): a missing page carries the permissions it needs. -/
def State.accessFault (s : State) (r : ThreadRef) (c : Cause) (need : Need) (va : Addr) : State :=
  s.raiseCode r c (if c = .page then need.bits else 0) va

/-- Runs `k` on the translation of an access, or takes its fault (R197). -/
def State.withAccess (s : State) (r : ThreadRef) (va : Addr) (n : Nat) (need : Need) (atomic : Bool)
    (k : State → Crew → Target → State) : State :=
  match s.crew r.crew with
  | none => s
  | some c =>
    match s.access c va.toNat n need atomic with
    | (.error e, s1) => s1.accessFault r e need va
    | (.ok tg, s1) => if s1.viewBusy tg.pa then s1.stay r else k s1 c tg

/-- A load whose bytes the L1 of its core holds is served there before any translation; a line that is held may have been
evicted before, which is free (R193, R283). An Irrevocable thread reads at home (R319), and an earlier read of the same
bytes goes first (R285). -/
def State.l1Look (s : State) (r : ThreadRef) (c : Crew) (t : Thread) (va n : Nat) : Option (Target × List Byte) × State :=
  match (s.l1Find c.core c.fn va).filter (fun (x : L1Line) => x.holds (va % 128) n) with
  | none => (none, s)
  | some x =>
    let pa := x.pline * 128 + va % 128
    if t.tx.state = .irrevocable ∨ s.acqPending r ∨ s.readPending r .global pa n then (none, s)
    else
      let (k, s1) := s.choose 2
      if k = 0 then (some (⟨pa, x.kind, false⟩, x.data.getList (va % 128) n), s1)
      else (none, s1.dropL1 (fun (y : L1Line) => y.core == c.core && y.pline == x.pline))

/-- Runs `k` on a read that its L1 serves, with its bytes, or on the translation of one that misses, or that `home` sends
to the home slice (R193, R197). -/
def State.withLoad (s : State) (r : ThreadRef) (t : Thread) (va : Addr) (n : Nat) (home : Bool)
    (k : State → Crew → Target → Option (List Byte) → State) : State :=
  match s.crew r.crew with
  | none => s
  | some c =>
    if va.toNat % n ≠ 0 ∨ home then s.withAccess r va n .read false (fun s c tg => k s c tg none)
    else match s.l1Look r c t va.toNat n with
      | (some (tg, bs), s1) =>
        let (b, s2) := s1.blurred c.fn va.toNat bs
        k s2 c tg (some b)
      | (none, s1) => s1.withAccess r va n .read false (fun s c tg => k s c tg none)

/-- A load in flight of a thread. -/
def mkLoad (id : Nat) (r : ThreadRef) (t : Thread) (f : Fields) (sp : Space) (va pa : Nat) : Load :=
  { id := id, who := r, space := sp, va := va, pa := pa, width := tyBytes f.ty, count := vecCount f.x
    d := f.d.toNat, ty := f.ty, form := 0, kind := .pma, acq := .none, nowait := false, data := none
    atomic := false, tx := false, poison := false, cmp := none, sync := false, acc := none
    pc := t.pc, grp := 0, tag := none, sent := 0 }

/-- Issues a load: its destinations turn empty and the thread goes on (R89, R204). -/
def State.pushLoad (s : State) (r : ThreadRef) (l : Load) : State :=
  ({ s with loads := s.loads ++ [l] }).onThread r (fun t => (t.mark l.regs true).advance s.cur.next)

/-- A transaction's page (Table 17-4): PMA, and not another device's. -/
def Target.txOk (tg : Target) : Bool := tg.kind == .pma && !tg.peer

/-- A load of global memory by a thread whose access has passed its checks (R204 to R206, R305). -/
def State.globalLoad (s : State) (r : ThreadRef) (c : Crew) (t : Thread) (f : Fields) (va : Addr) (tg : Target)
    (form : Nat) (acq : Scope) (hit : Option (List Byte)) : State :=
  let (id, s0) := s.newId
  let n := tyBytes f.ty * vecCount f.x
  let base := { mkLoad id r t f (if tg.peer then .peer else .global) va.toNat tg.pa with
    form := if t.tx.state = .irrevocable then 2 + form % 2 else form, kind := tg.kind, acq := acq, grp := s.cur.grp
    data := hit
    tag := s.tagFor tg.peer, sent := s.fab }
  if t.tx.state = .transactional then
    if acq ≠ .none ∨ !tg.txOk then s.abortTx r 9 0 0
    else if s.acqPending r then s.stay r
    else match s.txLoad r c t.tx tg.pa n with
      | .ok (bs, x) =>
        let (b, s1) := (s0.txWant c.fn t.tx x).blurred c.fn va.toNat bs
        (s1.onThread r (fun t => { t with tx := x })).pushLoad r { base with tx := true, data := some b }
      | .abort k => s.abortTx r k 0 0
      | .fault e => (s.meetPoison tg.pa n).raise r e va
      | .wait => s.stay r
  else if s.acqPending r then s.stay r
  else s0.pushLoad r base

/-- LD (R204, R206). -/
def execLd (f : Fields) (s : State) : Result :=
  .next (s.issueOrdered (.ld f) f.g (fun s r t =>
    let va := t.globalAddr f
    let acq := if f.rm = 1 then f.sc else .none
    s.withLoad r t va (tyBytes f.ty * vecCount f.x) (t.tx.state == .transactional || f.fn == 2 || wideScope acq)
      (fun s c tg hit => s.globalLoad r c t f va tg f.fn.toNat acq hit)))

/-- A store of global memory after its checks and its release (R205). -/
def State.globalStore (s : State) (r : ThreadRef) (c : Crew) (t : Thread) (va : Addr) (tg : Target)
    (bytes0 : List Byte) : State :=
  if s.acqPending r ∨ s.readPending r (if tg.peer then .peer else .global) tg.pa bytes0.length then s.stay r
  else
    let (id, s0) := s.newId
    let (bytes, s1) := (s0.spoilPriv c.fn va.toNat tg.pa bytes0.length).blurred c.fn va.toNat (s.viewDrop tg.pa bytes0)
    let w : Write := {
      id := id, by_ := .thread r, owner := ownerCode c.fn, space := if tg.peer then .peer else .global
      va := va.toNat, pa := tg.pa, bytes := bytes, kind := tg.kind, stage := .issued, atom := none
      lazy := s.lazyFor c.fn, pc := t.pc, grp := s.cur.grp
      tag := s.tagFor tg.peer, sent := s.fab, old := none, core := some c.core }
    ((s1.threadWrite w r).l1Store c.core tg.pa bytes).proceed r

/-- ST (R205, R305). -/
def execSt (f : Fields) (s : State) : Result :=
  .next (s.issueOrdered (.st f) f.g (fun s r t =>
    let va := t.globalAddr f
    let bytes := t.storeBytes f
    s.withAccess r va bytes.length .write false (fun s c tg =>
      if t.tx.state = .transactional then
        if f.rm ≠ 0 ∨ !tg.txOk then s.abortTx r 9 0 0
        else
          let (b, s1) := (s.spoilPriv c.fn va.toNat tg.pa bytes.length).blurred c.fn va.toNat (s.viewDrop tg.pa bytes)
          match s.txStore r c.core t.tx tg.pa b with
          | .ok x => (s1.onThread r (fun t => { t with tx := x })).proceed r
          | .abort k => s.abortTx r k 0 0
          | .fault e => s.raise r e va
          | .wait => s.stay r
      else if f.rm = 2 then s.release r (fun s => s.globalStore r c t va tg bytes)
      else s.globalStore r c t va tg bytes)))

/-- Checks a local access (R197, R200): ALIGN, the extent, then an empty line unless `nowait`. -/
def State.withLocal (s : State) (r : ThreadRef) (a n al : Nat) (nowait : Bool) (k : State → Crew → State) : State :=
  match s.crew r.crew with
  | none => s
  | some c =>
    if a % al ≠ 0 then s.raise r .align (BitVec.ofNat 64 a)
    else if c.localSize < a + n then s.raise r .perm (BitVec.ofNat 64 a)
    else if !nowait && s.localEmpty r.crew a n then s.stay r
    else if s.acqPending r then s.stay r
    else k s c

/-- LDS (R204): the bank reads at issue, the data land later (log 7). -/
def execLds (f : Fields) (s : State) : Result :=
  .next (s.issue (.lds f) f.g (fun s r t =>
    let a := t.localAddr f
    let n := tyBytes f.ty * vecCount f.x
    s.withLocal r a n n (f.fn.getLsbD 0) (fun s c =>
      let (id, s0) := s.newId
      s0.pushLoad r { mkLoad id r t f .localMem a a with data := some (c.localBytes r.crew a n) })))

/-- Writes a crew's local memory. -/
def State.localWrite (s : State) (c a : Nat) (bytes : List Byte) : State :=
  s.onCrew c (fun cr => { cr with lmem := cr.lmem.setList a (bytes.map some) })

/-- The barrier object of a card in a crew: a multicast names it at the same offset in every core (R253). -/
def Card.barIn (k : Card) (crew : Nat) : Option Nat :=
  if k.kind = .multicast then k.bar.map (· - k.bases.get crew) else k.bar

/-- The barrier objects of a crew with updates of engines to come, that a store of local bytes meets (R256). -/
def State.objectsMet (s : State) (crew a n : Nat) : List Nat :=
  let cards := (s.cards ++ s.crewList.flatMap (fun e => e.2.cards)).filter (fun k =>
    (k.kind == .multicast && k.receivers.contains crew) || (k.kind != .multicast && k.who.crew == crew))
  let again := ((s.crew crew).map (fun c => c.lineReplay.map (·.card))).getD []
  (((cards ++ again).filterMap (·.barIn crew)).filter (fun o => overlaps o 16 a n)).dedup

/-- A thread's plain store to local memory: an object with updates pending becomes indeterminate (R256, log 112). -/
def State.localStore (s : State) (crew a : Nat) (bytes : List Byte) : State :=
  (s.objectsMet crew a bytes.length).foldl (fun (s : State) o =>
    ({ s with fresh := s.fresh + 16 } : State).localWrite crew o (freeBytes s.fresh 16)) (s.localWrite crew a bytes)

/-- STS (R205, R256). -/
def execSts (f : Fields) (s : State) : Result :=
  .next (s.issueOrdered (.sts f) f.g (fun s r t =>
    let a := t.localAddr f
    let bytes := t.storeBytes f
    s.withLocal r a bytes.length bytes.length (f.fn.getLsbD 0) (fun s _ =>
      (s.localStore r.crew a bytes).proceed r)))

/-! ## Private memory (R186, R187) -/

/-- Threads rounded up to a multiple of 32 (R186). -/
def Crew.stride (c : Crew) : Nat := (c.rcd.threads + 31) / 32 * 32

/-- Offset in the private slot of byte `o` of a thread (R186). -/
def privOffset (stride tid o : Nat) : Nat := (o / 4 * stride + tid) * 4 + o % 4

/-- The offsets of the bytes of a private access, one after another. -/
def privOffsets (stride tid o n : Nat) : List Nat := (List.range n).map (fun i => privOffset stride tid (o + i))

/-- The offsets of the words of a private access, from the first byte that it names in each (R186). -/
def wordOffsets (stride tid o n : Nat) : List Nat := (List.range ((n + 3) / 4)).map (fun i => privOffset stride tid (o + 4 * i))

/-- Their virtual addresses. -/
def State.privWords (s : State) (c : Crew) (tid o n : Nat) : List Nat := (wordOffsets c.stride tid o n).map (s.privAddr c)

/-- Translates the words of a private access one after another; OWNER of an earlier word comes after the translation
faults of a later one (R197). -/
def State.privTranslate (s : State) (c : Crew) (need : Need) : List Nat → Except (Cause × Nat) (List Target) × State
  | [] => (.ok [], s)
  | va :: vas =>
    match s.translate c.cluster c.fn va need false with
    | (.error e, s1) =>
      if e = .owner then
        match s1.privTranslate c need vas with
        | (.error (e2, va2), s2) => (if e2 = .owner then .error (e, va) else .error (e2, va2), s2)
        | (.ok _, s2) => (.error (e, va), s2)
      else (.error (e, va), s1)
    | (.ok tg, s1) =>
      match s1.privTranslate c need vas with
      | (.error e, s2) => (.error e, s2)
      | (.ok tgs, s2) => (.ok (tg :: tgs), s2)

/-- A private access goes to the home slice of its word, or to the device whose the word is: its page is never held in an L1
(R190, R193). -/
def Target.direct (tg : Target) : Bool := tg.peer || tg.kind == .io

/-- The places of the words of a private access whose lines the L1 holds dirty under the present tag; for a read it holds the bytes
as well. It is asked before any translation (R193). -/
def State.privHeld (s : State) (c : Crew) (tid o n : Nat) (need : Need) : Option (List Target) :=
  if need == .read && (privOffsets c.stride tid o n).any (fun off => (c.own.get off).isNone) then none
  else (wordOffsets c.stride tid o n).mapM (fun off => (c.tags.get (off / 128)).bind (fun (l : PrivTag) =>
    if l.vmid = s.vmid c.fn ∧ l.asid = s.asid c.fn then some (⟨l.pline * 128 + off % 128, l.kind, false⟩ : Target) else none))

/-- What an access does about the line of the L1 that one of its words would lie in, at an offset of the slot: what the L1 holds
there under another tag or for another place goes to memory; another name of the physical line goes, a dirty private one to memory
(R194). -/
def State.privLine (s : State) (crew : Nat) (x : Nat × Target) : State :=
  match s.crew crew with
  | none => s
  | some c =>
    let line := x.1 / 128
    let pl := x.2.pa / 128
    let fits (l : PrivTag) : Bool := l.vmid == s.vmid c.fn && l.asid == s.asid c.fn && l.pline == pl && !x.2.direct
    let s1 := if ((c.tags.get line).map fits).getD true then s else s.cleanPriv crew (fun off _ => off / 128 == line)
    if x.2.direct then s1
    else
      let here := s1.crewList.filter (fun e => e.2.loc.map (·.1) == some c.core && !e.2.own.isEmpty)
      (here.foldl (fun s e => s.cleanPriv e.1 (fun off pa => pa / 128 == pl && !(e.1 == crew && off / 128 == line))) s1).dropL1
        (fun (y : L1Line) => y.core == c.core && y.pline == pl)

/-- The lines of the words of a private access, at their offsets. -/
def State.privEnter (s : State) (crew : Nat) (xs : List (Nat × Target)) : State := xs.foldl (fun s x => s.privLine crew x) s

/-- What follows the look into the L1 or the translation of a private access: a page that is not PMA memory of this device aborts a
transaction (Table 17-4). -/
def State.privGo (s : State) (r : ThreadRef) (t : Thread) (o n : Nat) (tgs : List Target)
    (k : State → Crew → List Target → State) : State :=
  if t.tx.state = .transactional ∧ tgs.any (fun tg => !tg.txOk) then s.abortTx r 9 0 0
  else if s.acqPending r then s.stay r
  else match s.crew r.crew with
    | none => s
    | some c =>
      let s1 := s.privEnter r.crew ((wordOffsets c.stride r.tid o n).zip tgs)
      match s1.crew r.crew with
      | none => s1
      | some c1 => k s1 c1 tgs

/-- Checks a private access (R186, R197). The L1 is looked into before its words are translated; a line that it holds may have been
evicted before, which is free (R193). An access waits for its view (R162). -/
def State.withPrivate (s : State) (r : ThreadRef) (t : Thread) (o n : Nat) (need : Need)
    (k : State → Crew → List Target → State) : State :=
  match s.crew r.crew with
  | none => s
  | some c =>
    let fa := BitVec.ofNat 64 o
    if o % n ≠ 0 then s.raise r .align fa
    else if c.rcd.priv * 4 < o + n then s.raise r .privLimit fa
    else
      let miss (s : State) : State :=
        match s.privTranslate c need (s.privWords c r.tid o n) with
        | (.error (e, va), s1) => s1.accessFault r e need (BitVec.ofNat 64 va)
        | (.ok tgs, s1) => if tgs.any (fun tg => s1.viewBusy tg.pa) then s1.stay r else s1.privGo r t o n tgs k
      match s.privHeld c r.tid o n need with
      | none => miss s
      | some tgs =>
        let (x, s1) := s.choose 2
        if x = 0 then s1.privGo r t o n tgs k else miss s1

/-- The physical address of byte `i` of a private access. -/
def privPa (tgs : List Target) (i : Nat) : Nat := ((tgs.map (·.pa)).getD (i / 4) 0) + i % 4

/-- Byte `i` of a private access lies in a word that is never held. -/
def privDirect (tgs : List Target) (i : Nat) : Bool := ((tgs[i / 4]?).map (·.direct)).getD false

/-- The writes of a core's threads, and of units, that have not reached their points of performance. -/
def State.privPending (s : State) (core : Nat) : List Write :=
  s.writes.filter (fun (w : Write) => w.stage == .issued && w.atom == none &&
    match w.by_ with
    | .thread r => s.coreOf r == some core
    | .unit _ => w.space != .peer
    | _ => false)

/-- A private byte: the L1's, else memory's where the crew has written it, with the core's own unperformed stores over it; one that
the crew has not written is indeterminate (R187, R194). -/
def State.privByte (s : State) (crew : Nat) (c : Crew) (off pa : Nat) : Byte :=
  match c.own.get off with
  | some b => b
  | none => if c.backed.get off then (overlay (s.privPending c.core) pa [s.byteAt pa]).headD 0 else Config.freePriv crew off

/-- Bytes of a private access. -/
def State.privBytes (s : State) (crew : Nat) (c : Crew) (offs : List Nat) (tgs : List Target) : List Byte :=
  offs.zipIdx.map (fun x => s.privByte crew c x.1 (privPa tgs x.2))

/-- Some byte of a private access that is to be filled from its home slice is of a sort. -/
def privFill (c : Crew) (offs : List Nat) (tgs : List Target) (sort : Nat → Bool) : Bool :=
  offs.zipIdx.any (fun x => (c.own.get x.1).isNone && c.backed.get x.1 && !privDirect tgs x.2 && sort (privPa tgs x.2))

/-- The fault of a fill at its home slice: a frame of another owner, then poison (R193, R195). -/
def State.privFault (s : State) (c : Crew) (offs : List Nat) (tgs : List Target) : Option Cause :=
  if privFill c offs tgs (fun pa => !s.ownedBy (ownerCode c.fn) pa) then some .owner
  else if privFill c offs tgs s.sectorBad then some .poison
  else none

/-- The fills of a private access are asked for at the shared cache (R276). -/
def State.privWant (s : State) (c : Crew) (offs : List Nat) (tgs : List Target) (n : Nat) : State :=
  if privFill c offs tgs (fun _ => true) then (tgs.filter (!·.direct)).foldl (fun s tg => s.want c.fn 0 tg.pa n) s else s

/-- Issues the loads of an LDP whose words are not all held: one for each word, to its home slice or its device where it is never
held (R190, R193). -/
def State.privLoads (s : State) (r : ThreadRef) (c : Crew) (l : Load) (n : Nat) (offs : List Nat) (tgs : List Target) : State :=
  let w := min n 4
  tgs.zipIdx.foldl (fun s x =>
    let mine := (offs.drop (4 * x.2)).take w
    let (id, s0) := s.newId
    let one : Load := { l with
      id := id, width := w, count := 1, ty := if n = 8 then .b32 else l.ty
      d := if l.d = 127 then 127 else l.d + x.2 }
    let asked : Load :=
      if x.1.direct then { one with
        space := if x.1.peer then .peer else .global, va := s.privAddr c (mine.headD 0), pa := x.1.pa, kind := x.1.kind, form := 2
        grp := s.cur.grp, tag := s.tagFor x.1.peer, sent := s.fab, blur := some (mine.any (fun off => !c.backed.get off)) }
      else { one with data := some (mine.zipIdx.map (fun y => s.privByte r.crew c y.1 (x.1.pa + y.2))) }
    { s0 with loads := s0.loads ++ [asked] }) s

/-- LDP (R186, R204). -/
def execLdp (f : Fields) (s : State) : Result :=
  .next (s.issueOrdered (.ldp f) f.g (fun s r t =>
    let o := t.localAddr f
    let n := tyBytes f.ty
    s.withPrivate r t o n .read (fun s c tgs =>
      let offs := privOffsets c.stride r.tid o n
      let (id, s0) := (s.privWant c offs tgs (min 4 n)).newId
      let l := mkLoad id r t f .ownWords o o
      if privFill c offs tgs s.homeBusy then s.stay r
      else match s.privFault c offs tgs with
        | some e =>
          let s1 := if e = .poison then tgs.foldl (fun s tg => s.meetPoison tg.pa (min 4 n)) s else s
          (s1.stand r).raiseDeferred r e t.pc (BitVec.ofNat 64 (s.privAddr c (offs.headD 0))) s.cur.next l.regs
        | none =>
          if !tgs.any (·.direct) then s0.pushLoad r { l with data := some (s.privBytes r.crew c offs tgs) }
          else if tgs.any (fun tg => tg.direct && s.writePending r tg.pa (min 4 n)) then s.stay r
          else
            ((s.privWant c offs tgs (min 4 n)).privLoads r c l n offs tgs).onThread r (fun t => (t.mark l.regs true).advance s.cur.next))))

/-- The tag of a private line that the L1 of a crew's core takes (R193). -/
def State.privTag (s : State) (c : Crew) (off pa : Nat) (kind : Pbmt) : PrivTag :=
  let (page, psize, _) := s.pageOf c.core c.fn (s.privAddr c off)
  { vmid := s.vmid c.fn, asid := s.asid c.fn, pline := pa / 128, page := page, psize := psize, kind := kind }

/-- Writes private bytes into the L1: those of words that it may hold, with the tags of their lines. -/
def Crew.putOwn (c : Crew) (tag : Nat → Nat → Pbmt → PrivTag) (offs : List Nat) (tgs : List Target) (bytes : List Byte) : Crew :=
  let xs := (offs.zip bytes).zipIdx.filter (fun x => !privDirect tgs x.2)
  { c with
    own := xs.foldl (fun m x => m.set x.1.1 (some x.1.2)) c.own
    ownPa := xs.foldl (fun m x => m.set x.1.1 (privPa tgs x.2)) c.ownPa
    tags := xs.foldl (fun m x =>
      m.set (x.1.1 / 128) (some (tag x.1.1 (privPa tgs x.2) (((tgs[x.2 / 4]?).map (·.kind)).getD .pma)))) c.tags }

/-- What memory holds of dirty private bytes is open: a dirty line is written back whenever it is evicted (R187). -/
def State.veilWords (s : State) (tgs : List Target) (n : Nat) : State :=
  tgs.foldl (fun s tg => if tg.direct || regionOf tg.pa == .view then s else s.veilOver tg.pa (min n 4)) s

/-- The stores of an STP to words that are never held: each goes to its home slice or its device, and counts as any store
(R190, R193). -/
def State.privStores (s : State) (r : ThreadRef) (c : Crew) (t : Thread) (offs : List Nat) (tgs : List Target) (bytes : List Byte) :
    State :=
  tgs.zipIdx.foldl (fun s x =>
    if !x.1.direct then s
    else
      let mine := (offs.drop (4 * x.2)).take 4
      let bs := (bytes.drop (4 * x.2)).take 4
      let (id, s0) := s.newId
      let w : Write := {
        id := id, by_ := .thread r, owner := ownerCode c.fn, space := if x.1.peer then .peer else .global
        va := s.privAddr c (mine.headD 0), pa := x.1.pa, bytes := bs, kind := x.1.kind, stage := .issued, atom := none
        lazy := s.lazyFor c.fn, pc := t.pc, grp := s.cur.grp, tag := s.tagFor x.1.peer, sent := s.fab, old := none
        core := some c.core }
      ((s0.threadWrite w r).l1Store c.core x.1.pa bs).onCrew r.crew (fun c => { c with
        backed := mine.foldl (fun m off => m.set off true) c.backed })) s

/-- STP (R186, R205). A T6 view drops bits [7:6] of each byte (R164). -/
def execStp (f : Fields) (s : State) : Result :=
  .next (s.issueOrdered (.stp f) f.g (fun s r t =>
    let o := t.localAddr f
    let raw := t.storeBytes f
    s.withPrivate r t o raw.length .write (fun s c tgs =>
      let offs := privOffsets c.stride r.tid o raw.length
      let bytes := tgs.zipIdx.flatMap (fun x => s.viewDrop x.1.pa ((raw.drop (4 * x.2)).take 4))
      if tgs.any (fun tg => tg.direct && s.readPending r (if tg.peer then .peer else .global) tg.pa (min 4 raw.length)) then s.stay r
      else
        let s1 := ((s.veilWords tgs raw.length).putCrew r.crew (c.putOwn (s.privTag c) offs tgs bytes)).l1Room c.core
        (s1.privStores r c t offs tgs bytes).proceed r)))

/-! ## Prefetch and line marks -/

/-- PREFM (R208, R276): it never faults; its reads are of the bulk class; `.l1` fills the line of a PMA or NC page of this device's
HBM or views, once its view and a lost unit's stripe let it be read (R162, R265). -/
def execPrefm (f : Fields) (s : State) : Result :=
  .next (s.issue (.prefm f) f.g (fun s r t =>
    let va := t.globalAddr f
    match s.crew r.crew with
    | none => s
    | some c =>
      match s.translate c.cluster c.fn va.toNat .read false with
      | (.error _, _) => s.proceed r
      | (.ok tg, s1) =>
        if tg.peer || tg.kind == .io || regionOf tg.pa == .capacity then s.proceed r
        else if !s1.ownedBy (ownerCode c.fn) tg.pa then s1.proceed r
        else
          let s2 := s1.want c.fn 1 (tg.pa / 128 * 128) 128
          if f.fn = 0 then
            if s1.homeBusy tg.pa || s1.homeBusy (tg.pa / 128 * 128) || s1.homeBusy (tg.pa / 128 * 128 + 64) then s1.stay r
            else (s2.l1Fill c.core c.fn (va.toNat / 128 * 128) (tg.pa / 128 * 128) 128).proceed r
          else s2.proceed r))

/-- Sets or clears the marks of a run of lines (R209). -/
def Crew.setMarks (c : Crew) (first n : Nat) (v : Bool) : Crew :=
  { c with marks := (List.range n).foldl (fun m k => m.set (first + k) v) c.marks }

/-- Checks the range of SPMK and SPWT (R209): with a count of 0 only ALIGN is checked. An `ordered` one aborts a
transaction (Table 17-4). -/
def State.withLines (s : State) (r : ThreadRef) (t : Thread) (ordered : Bool) (a k : Nat) (go : State → Crew → State) : State :=
  match s.crew r.crew with
  | none => s
  | some c =>
    if a % 128 ≠ 0 then s.raise r .align (BitVec.ofNat 64 a)
    else if k ≠ 0 ∧ c.localSize < a + 128 * k then s.raise r .perm (BitVec.ofNat 64 a)
    else if ordered ∧ t.tx.state = .transactional then s.abortTx r 9 0 0
    else if k = 0 then s.proceed r
    else go s c

/-- SPMK (R209). -/
def execSpmk (f : Fields) (s : State) : Result :=
  .next (s.issue (.spmk f) f.g (fun s r t =>
    let a := (t.reg f.a).toNat
    let k := (t.srcBi f .z32).toNat
    let doIt (s : State) : State :=
      (s.onCrew r.crew (fun c => c.setMarks (a / 128) k (f.fn == 0))).proceed r
    s.withLines r t (f.rm == 2) a k (fun s _ => if f.rm = 2 then s.release r doIt else doIt s)))

/-- SPWT (R209). -/
def execSpwt (f : Fields) (s : State) : Result :=
  .next (s.issue (.spwt f) f.g (fun s r t =>
    let a := (t.reg f.a).toNat
    let k := (t.srcBi f .z32).toNat
    s.withLines r t (f.rm == 1) a k (fun s _ =>
      if s.localEmpty r.crew a (128 * k) then s.stay r
      else (s.acquire r f.sc).proceed r)))

/-! ## Landing (R89, R204, R283, R288) -/

/-- An earlier read of the thread on the same bytes, or an IO access that goes first, is still in flight (R206,
R285). -/
def State.loadHeld (s : State) (l : Load) : Bool :=
  s.loads.any (fun (o : Load) => decide (o.id < l.id) &&
    ((o.who == l.who && o.space == l.space && overlaps o.pa (o.width * o.count) l.pa (l.width * l.count)) ||
     (l.kind == Pbmt.io && o.kind == Pbmt.io && (o.who == l.who || o.grp == l.grp)))) ||
  (l.kind == Pbmt.io && s.writes.any (fun (w : Write) => w.by_ == .thread l.who && w.kind == .io && decide (w.id < l.id)))

/-- The data of a load land: registers turn full, an acquire follows, `.last` drops the line (R204, R206). -/
def State.land (s : State) (l : Load) (bytes : List Byte) : State :=
  let s1 := { s with loads := s.loads.filter (fun (o : Load) => o.id != l.id) }
  let s2 := s1.onThread l.who (fun t => (t.setRegs l.d (loadRegs l.ty l.width l.count bytes)).mark l.regs false)
  let s3 := match s.coreOf l.who with
    | some core => if l.form % 2 = 1 ∧ l.space = Space.global then
        s2.dropL1 (fun (x : L1Line) => x.core == core && x.pline == l.pa / 128) else s2
    | none => s2
  let s4 := if l.space = Space.global then s3.trumpLine l.who l.pa else s3
  s4.acquire l.who l.acq

/-- The load is served at its home slice whatever the L1 holds (R193, R206, R289, R319). -/
def Load.atHome (l : Load) : Bool := decide (2 ≤ l.form) || l.kind == .io || wideScope l.acq

/-- A read finds poison, a frame that its function does not own, or a view out of service: a deferred fault (R195, R390). -/
def State.loadFault (s0 : State) (l : Load) (c : Cause) : State :=
  let s := if c = .poison then s0.meetPoison l.pa (l.width * l.count) else s0
  let s1 := { s with loads := s.loads.map (fun (o : Load) => if o.id = l.id then { o with poison := true } else o) }
  s1.raiseDeferred l.who c l.pc (BitVec.ofNat 64 l.va) 0

/-- Reads the bytes of a load at its point of performance, or in the L1 view of its core (R283); those of a living
crew's private slot are indeterminate (R187). -/
def State.readFor (s : State) (c : Crew) (l : Load) : List Byte × State :=
  let n := l.width * l.count
  if l.blur.getD (s.arenaOf c.fn l.va).isSome then (freeBytes s.fresh n, { s with fresh := s.fresh + n })
  else if l.atHome then (s.bytesAt l.pa n, s)
  else
    let core := c.core
    let held (s : State) : Option L1Line :=
      (s.l1Find core c.fn l.va).filter (fun (x : L1Line) => x.pline == l.pa / 128 && x.holds (l.pa % 128) n)
    match held s with
    | some x => (x.data.getList (l.pa % 128) n, s)
    | none =>
      let s1 := s.l1Fill core c.fn l.va l.pa n
      match held s1 with
      | some x => (x.data.getList (l.pa % 128) n, s1)
      | none => (overlay (s.coreWrites core) l.pa (s1.bytesAt l.pa n), s1)

/-- An L1 copy serves the load whatever the home slice holds (R193, R283). -/
def State.servedByL1 (s : State) (c : Crew) (l : Load) : Bool :=
  !l.atHome &&
  match s.l1Find c.core c.fn l.va with
  | some x => x.pline == l.pa / 128 && x.holds (l.pa % 128) (l.width * l.count)
  | none => false

/-- Whether an L1 copy serves the load: one that is held may have been evicted before, which is free (R283). -/
def State.l1Serves (s : State) (c : Crew) (l : Load) : Bool × State :=
  if s.servedByL1 c l then
    let (k, s1) := s.choose 2
    if k = 0 then (true, s1)
    else (false, s1.dropL1 (fun (x : L1Line) => x.core == c.core && x.pline == l.pa / 128))
  else (false, s)

/-- LOAD_DATA_LANDS (R89): a read is performed when its data land. One that must wait stays in flight; for a saved crew
only the old values of atomics land, and the data of its reads are dropped (R345, R346). -/
def execLoadDataLands (id : Nat) (s : State) : Result :=
  .next (match s.loads.find? (fun (l : Load) => l.id == id && !l.poison) with
    | none => { s with strays := s.strays.filter (fun x => x.id != id || x.tag.isSome) }
    | some l =>
      match s.crew l.who.crew with
      | none => s
      | some c =>
        if s.loadHeld l || (c.loc.isNone && !l.atomic) then s
        else match l.data with
          | some bytes =>
            if l.blur = some true then
              { s with fresh := s.fresh + bytes.length }.land l (freeBytes s.fresh bytes.length)
            else s.land l bytes
          | none =>
            if l.atomic || l.sync || l.space != Space.global || l.cmp.isSome then s
            else match s.l1Serves c l with
              | (true, s1) =>
                let (b, s2) := s1.readFor c l
                s2.land l b
              | (false, s1) =>
                if s1.writePending l.who l.pa (l.width * l.count) && l.atHome then s1
                else if s1.marked (l.pa / 128) (some l.who) true || s1.homeBusy l.pa then s1
                else if regionOf l.pa = .view ∧ s1.viewOf l.pa = none then s1.loadFault l .perm
                else if !s1.ownedBy (ownerCode c.fn) l.pa then s1.loadFault l .owner
                else if s1.runBad l.pa (l.width * l.count) then s1.loadFault l .poison
                else
                  let (b, s2) := s1.readFor c l
                  s2.land l b)

/-! ## Reads for which a thread waits at its instruction (R141, R215, R217) -/

/-- What such a read gives. -/
inductive ReadOut where
  | ok (bytes : List Byte)
  | wait
  | fault (c : Cause)

/-- IO accesses of the thread are in flight (R206). -/
def State.ioBusy (s : State) (r : ThreadRef) : Bool :=
  s.loads.any (fun (l : Load) => l.who == r && l.kind == .io) ||
  s.writes.any (fun (w : Write) => w.by_ == .thread r && w.kind == .io)

/-- Drops the reads for which a thread waited: its instruction goes on. -/
def State.endSync (s : State) (r : ThreadRef) : State :=
  { s with loads := s.loads.filter (fun (l : Load) => !(l.sync && l.who == r)) }

/-- Asks a peer for bytes for which the thread waits. -/
def State.askSync (s : State) (r : ThreadRef) (t : Thread) (va pa n : Nat) : State :=
  let (id, s0) := s.newId
  { s0 with loads := s0.loads ++ [{
      id := id, who := r, space := .peer, va := va, pa := pa, width := n, count := 1, d := 127, ty := .b8, form := 0
      kind := .pma, acq := .none, nowait := false, data := none, atomic := false, tx := false, poison := false
      cmp := none, sync := true, acc := none, pc := t.pc, grp := 0, tag := s.tagFor true, sent := s.fab
      next := s.cur.next }] }

/-- Reads bytes for an instruction that waits for them, at the home slice or as a plain load (R204, R283). -/
def State.readNow (s : State) (r : ThreadRef) (c : Crew) (t : Thread) (va n : Nat) (tg : Target) (home : Bool) :
    ReadOut × State :=
  let home' := home || tg.kind == .io
  if s.acqPending r || (tg.kind == .io && s.ioBusy r) then (.wait, s)
  else if tg.peer then
    match s.loads.find? (fun (l : Load) => l.sync && l.who == r && l.pa == tg.pa && l.width == n && l.pc == t.pc) with
    | some l => match l.data with
      | some bs => (.ok bs, s)
      | none => (.wait, s)
    | none => (.wait, s.askSync r t va tg.pa n)
  else
    let l : Load := {
      id := 0, who := r, space := .global, va := va, pa := tg.pa, width := n, count := 1, d := 127, ty := .b8
      form := if home' then 2 else 0, kind := tg.kind, acq := .none, nowait := false, data := none, atomic := false
      tx := false, poison := false, cmp := none, sync := true, acc := none, pc := t.pc, grp := 0, tag := none, sent := 0 }
    match s.l1Serves c l with
    | (true, s1) =>
      let (b, s2) := s1.readFor c l
      (.ok b, s2)
    | (false, s1) =>
      if (home' && s1.writePending r tg.pa n) || s1.marked (tg.pa / 128) (some r) true || s1.homeBusy tg.pa then (.wait, s1)
      else if !s1.ownedBy (ownerCode c.fn) tg.pa then (.fault .owner, s1)
      else if s1.runBad tg.pa n then (.fault .poison, s1.meetPoison tg.pa n)
      else
        let (b, s2) := (s1.want c.fn 0 tg.pa n).readFor c l
        (.ok b, s2.trumpLine r tg.pa)

/-- A fault of such a read: it is deferred, and SKIP goes on at `next` with the registers `dest` full and zero (R390). -/
def State.syncFault (s : State) (r : ThreadRef) (t : Thread) (c : Cause) (va : Addr) (next : Addr) (dest : List Nat) : State :=
  ((s.endSync r).stand r).raiseDeferred r c t.pc va next dest

/-- Runs `k` on bytes for which the thread waits at its instruction, after the faults of R197; an Irrevocable thread reads
at home (R319). -/
def State.withRead (s : State) (r : ThreadRef) (c : Crew) (t : Thread) (va : Addr) (n : Nat) (tg : Target) (home : Bool)
    (dest : List Nat) (k : State → List Byte → State) : State :=
  match s.readNow r c t va.toNat n tg (home || t.tx.state == .irrevocable) with
  | (.ok bs, s1) => k s1 bs
  | (.wait, s1) => s1.stay r
  | (.fault e, s1) => s1.syncFault r t e va s.cur.next dest

/-- Runs `k` on bytes that the thread's L1 serves, or that it waits for. -/
def State.withBytes (s : State) (r : ThreadRef) (t : Thread) (va : Addr) (n : Nat) (pre : State → Target → State → State)
    (k : State → List Byte → State) : State :=
  s.withLoad r t va n false (fun s c tg hit =>
    pre s tg (match hit with
      | some bs => k s bs
      | none => s.withRead r c t va n tg false [] k))

/-- The bytes that `withBytes` would hand on at once, with the state after it; none where it faults or waits. -/
def State.bytesNow (s : State) (r : ThreadRef) (t : Thread) (va : Addr) (n : Nat) : Option (List Byte × State) :=
  match s.crew r.crew with
  | none => none
  | some c =>
    if va.toNat % n ≠ 0 then none
    else match s.l1Look r c t va.toNat n with
      | (some (_, bs), s1) => some (s1.blurred c.fn va.toNat bs)
      | (none, s1) =>
        match s1.crew r.crew with
        | none => none
        | some c =>
          match s1.access c va.toNat n .read false with
          | (.error _, _) => none
          | (.ok tg, s2) =>
            if s2.viewBusy tg.pa then none
            else match s2.readNow r c t va.toNat n tg (t.tx.state == .irrevocable) with
              | (.ok bs, s3) => some (bs, s3)
              | _ => none

end Sys2Proof.Machine
end

