-- ==== Sys2Proof/Machine/Atomic.lean ====
section
/-!
DEFINITION. Atomics (R210 to R213, R298): the new value, and where each is performed.
-/
namespace Sys2Proof.Machine
open Sys2Proof

/-- The new value of an atomic (Table 12-4); operation 7 is ACAS. -/
def atomNew (op : Nat) (ty : Ty) (old b c : DWord) : DWord :=
  if op = 7 then (if old = b then c else old)
  else if op = 0 then
    if ty = .f32 then
      BitVec.ofNat 64 (Fp.add single 0 (single.decode (old.toNat % 2 ^ 32)) (single.decode (b.toNat % 2 ^ 32)))
    else old + b
  else if op = 1 ∨ op = 2 then
    if ty = .f32 then BitVec.ofNat 64 (minMax single (op == 2) false (old.toNat % 2 ^ 32) (b.toNat % 2 ^ 32))
    else if op = 1 then (if tyInt ty b < tyInt ty old then b else old)
    else if tyInt ty old < tyInt ty b then b
    else old
  else if op = 3 then old &&& b
  else if op = 4 then old ||| b
  else if op = 5 then old ^^^ b
  else b

/-- The bytes that an atomic writes over the old ones, each of TY's width. -/
def AtomOp.newBytes (a : AtomOp) (old : List Byte) : List Byte :=
  leBytes old.length (atomNew a.op a.ty (BitVec.ofNat 64 (leValue old)) a.b a.c).toNat

/-- The atomic of an instruction's operands. -/
def mkAtom (t : Thread) (f : Fields) (op : Nat) (d : Option Nat) : AtomOp :=
  { op := op, ty := f.ty
    b := if tyWidth f.ty = 64 then t.pair f.b else (t.reg f.b).setWidth 64
    c := if tyWidth f.ty = 64 then t.pair f.c else (t.reg f.c).setWidth 64
    d := d, acq := if f.rm.getLsbD 0 then f.sc else .none }

/-- The read that an atomic leaves in flight for its old value (R204, R210). -/
def atomLoad (id : Nat) (r : ThreadRef) (t : Thread) (f : Fields) (a : AtomOp) (va : Nat) (tg : Target) : Load :=
  { mkLoad id r t f (if tg.peer then .peer else .global) va tg.pa with
    count := 1, kind := tg.kind, acq := a.acq, atomic := true }

/-- An atomic inside a transaction: a load and a store through the logs (R306). -/
def State.atomTx (s : State) (r : ThreadRef) (c : Crew) (t : Thread) (f : Fields) (a : AtomOp) (va : Addr) (tg : Target) :
    State :=
  let n := tyBytes f.ty
  if f.rm ≠ 0 ∨ !tg.txOk then s.abortTx r 9 0 0
  else if s.acqPending r then s.stay r
  else match s.txLoad r c t.tx tg.pa n with
    | .abort k => s.abortTx r k 0 0
    | .fault e => (s.meetPoison tg.pa n).raise r e va
    | .wait => s.stay r
    | .ok (old, x) =>
      match s.txStore r c.core x tg.pa (a.newBytes old) with
      | .abort k => s.abortTx r k 0 0
      | .fault e => s.raise r e va
      | .wait => s.stay r
      | .ok y =>
        let s1 := (s.txWant c.fn t.tx x).onThread r (fun t => { t with tx := y })
        match a.d with
        | none => s1.proceed r
        | some _ =>
          let (id, s2) := s1.newId
          s2.pushLoad r { atomLoad id r t f a va.toNat tg with tx := true, atomic := false, data := some old }

/-- A write of a thread's atomic or of its result. -/
def atomWrite (s : State) (id : Nat) (r : ThreadRef) (c : Crew) (t : Thread) (va : Nat) (tg : Target) (bytes : List Byte)
    (a : Option AtomOp) : Write :=
  { id := id, by_ := .thread r, owner := ownerCode c.fn, space := if tg.peer then .peer else .global
    va := va, pa := tg.pa, bytes := bytes, kind := tg.kind, stage := .issued, atom := a
    lazy := s.lazyFor c.fn, pc := t.pc, grp := s.cur.grp
    tag := s.tagFor tg.peer, sent := s.fab, old := none, core := some c.core }

/-- A value-returning atomic whose read faults: D stays empty, the fault is deferred (R213, R390); a RED sets a
mark (R291). -/
def State.atomFault (s : State) (r : ThreadRef) (t : Thread) (f : Fields) (a : AtomOp) (va : Addr) (tg : Target) (e : Cause) :
    State :=
  match a.d with
  | none => (s.markErr r e).proceed r
  | some _ =>
    let (id, s1) := s.newId
    (s1.pushLoad r { atomLoad id r t f a va.toNat tg with poison := true }).raiseDeferred r e t.pc va 0

/-- A core-scope atomic on a PMA or NC page, performed in the L1 view; its result goes out as a plain store (R211,
R298), which counts with the thread's atomics whatever the page (R287). -/
def State.atomL1 (s : State) (r : ThreadRef) (c : Crew) (t : Thread) (f : Fields) (a : AtomOp) (va : Addr) (tg : Target) :
    State :=
  match s.readNow r c t va.toNat (tyBytes f.ty) tg false with
  | (.wait, s1) => s1.stay r
  | (.fault e, s1) => s1.atomFault r t f a va tg e
  | (.ok old, s1) =>
    let (id, s2) := s1.newId
    let new := a.newBytes old
    let s3 := (s2.threadWrite { atomWrite s id r c t va.toNat tg new none with kind := .pma } r).l1Store c.core tg.pa new
    match a.d with
    | none => s3.proceed r
    | some _ => s3.pushLoad r { atomLoad id r t f a va.toNat tg with data := some old }

/-- An atomic sent to its home slice, or to a peer's (R211, R212). -/
def State.atomHome (s : State) (r : ThreadRef) (c : Crew) (t : Thread) (f : Fields) (a : AtomOp) (va : Addr) (tg : Target) :
    State :=
  let (id, s1) := s.newId
  let s2 := s1.threadWrite { atomWrite s id r c t va.toNat tg (List.replicate (tyBytes f.ty) 0) (some a) with sc := f.sc.code } r
  match a.d with
  | none => s2.proceed r
  | some _ => s2.pushLoad r { atomLoad id r t f a va.toNat tg with tag := s.tagFor tg.peer }

/-- An atomic outside a transaction, its release done. -/
def State.atomRun (s : State) (r : ThreadRef) (c : Crew) (t : Thread) (f : Fields) (a : AtomOp) (va : Addr) (tg : Target) :
    State :=
  if s.acqPending r ∨ s.readPending r (if tg.peer then .peer else .global) tg.pa (tyBytes f.ty) then s.stay r
  else if (s.arenaOf c.fn va.toNat).isSome ∧ !tg.peer then
    (s.spoilPriv c.fn va.toNat tg.pa (tyBytes f.ty)).atomHome r c t f a va tg
  else if f.sc = .core ∧ tg.kind ≠ .io ∧ !tg.peer then s.atomL1 r c t f a va tg
  else s.atomHome r c t f a va tg

/-- One thread's atomic (R197, R210 to R213). -/
def State.atomic (s : State) (r : ThreadRef) (t : Thread) (f : Fields) (op : Nat) (returns : Bool) : State :=
  let va := t.globalAddr f
  let a := mkAtom t f op (if returns then some f.d.toNat else none)
  s.withAccess r va (tyBytes f.ty) .write true (fun s c tg =>
    if t.tx.state = .transactional then s.atomTx r c t f a va tg
    else if f.rm.getLsbD 1 then s.release r (fun s => s.atomRun r c t f a va tg)
    else s.atomRun r c t f a va tg)

/-- ATOM (R212). -/
def execAtom (f : Fields) (s : State) : Result :=
  .next (s.issueOrdered (.atom f) f.g (fun s r t => s.atomic r t f f.fn.toNat true))

/-- ACAS (R212). -/
def execAcas (f : Fields) (s : State) : Result :=
  .next (s.issueOrdered (.acas f) f.g (fun s r t => s.atomic r t f 7 true))

/-- RED (R212, R213). -/
def execRed (f : Fields) (s : State) : Result :=
  .next (s.issueOrdered (.red f) f.g (fun s r t => s.atomic r t f f.fn.toNat false))

end Sys2Proof.Machine
end

