-- ==== Sys2Proof/Machine/Frame.lean ====
section
/-!
DEFINITION. Crew frames in memory and faults that reach a saved crew (R347, R348, R391).

A saved crew is held as a `Crew` without a place. Of its frame, the header alone is kept in memory; the regions
behind it are the device's own (log 20).
-/
namespace Sys2Proof.Machine
open Sys2Proof

/-- The SHAPE word of a record (R20). -/
def NestRec.shape (r : NestRec) : Nat := r.threads + 2 ^ 12 * r.regs + 2 ^ 20 * r.priv

/-- Physical address of a crew's frame (R347). -/
def State.frameAt (s : State) (c : Crew) : Nat := (s.field (.fframe c.fn) 21 43 + c.frame) * 2 ^ 21

/-- Writes bytes of a crew's frame, a sector at most, as owner 1 and in the bulk class (R276, R300). -/
def State.frameWrite (s : State) (c : Crew) (off : Nat) (bytes : List Byte) : State :=
  s.writeUnit 1 1 (s.frameAt c + off) bytes

/-- What a frame header and a fault record say of the reported thread: TID, PC, FADDR. -/
def reqTid (q : Option SaveReq) : Nat := ((q.bind (·.tid)).getD 0xFFFF)
def reqPc (q : Option SaveReq) : DWord := (q.map (·.pc)).getD 0
def reqFaddr (q : Option SaveReq) : DWord := (q.map (·.faddr)).getD 0
def reqCause (q : Option SaveReq) : Nat := (q.map (fun q => causeCode q.cause)).getD 0

/-- CAUSE, KIND and STATE of a header (Table 19-3). -/
def Crew.headState (c : Crew) : List Byte := leBytes 1 (reqCause c.fst.req) ++ leBytes 1 c.fst.kind ++ leBytes 1 c.fst.state

/-- TID, PC and FADDR of a header (Table 19-3). -/
def Crew.headFault (c : Crew) : List Byte :=
  leBytes 2 (reqTid c.fst.req) ++ leBytes 8 (reqPc c.fst.req).toNat ++ leBytes 8 (reqFaddr c.fst.req).toNat

/-- Rewrites the fields of a header that a command or a late fault changes (R391). -/
def State.frameUpdate (s : State) (c : Crew) : State := (s.frameWrite c 0 c.headState).frameWrite c 6 c.headFault

/-- The first 64 bytes of a header (Table 19-3). -/
def State.headBytes (s : State) (c : Crew) (check : Word) : List Byte :=
  c.headState ++ leBytes 1 c.fst.gen.toNat ++ leBytes 1 c.fn ++ leBytes 1 c.nest ++ c.headFault ++
    leBytes 4 c.rcd.shape ++ leBytes 4 check.toNat ++ ptBytes c.point.coords ++ leBytes 8 s.time ++ leBytes 8 0

/-- Writes a header whole: its reserved bytes, up to 4 KiB, are zero (R348). -/
def State.frameHeader (s : State) (c : Crew) (check : Word) : State :=
  (List.range 63).foldl (fun s i => s.frameWrite c (64 * (i + 1)) (List.replicate 64 0)) (s.frameWrite c 0 (s.headBytes c check))

/-- The fault record of a crew (Table 19-5). -/
def Crew.faultRec (c : Crew) (kind : Nat) (q : SaveReq) : FaultRec :=
  { cause := causeCode q.cause, kind := kind, code := q.code, handle := c.frame, tid := q.tid.getD 0xFFFF, pc := q.pc
    faddr := q.faddr, nest := c.nest, core := c.ran, pt := c.point.coords }

/-- A saved crew in STATE 2 becomes a fault save: its header is rewritten and a record follows (R391). -/
def State.becomeFault (s : State) (crew : Nat) (c : Crew) (q : SaveReq) : State :=
  let c1 := { c with fst := { c.fst with state := 3, kind := 2, req := some q } }
  ((s.putCrew crew c1).frameUpdate c1).record c.fn (c1.faultRec 0 q)

/-- A deferred fault of the accesses of one instruction, which one report covers (R390, log 113). -/
def SaveReq.sameFault (o q : SaveReq) : Bool := o.deferred && q.deferred && o.pc == q.pc

/-- A fault that reaches a crew at any time: resident, it is saved; saved, R391 decides. -/
def State.lateFault (s : State) (crew : Nat) (q : SaveReq) : State :=
  match s.crew crew with
  | none => s
  | some c =>
    if c.loc.isSome then s.beginSave crew q
    else if c.fst.state = 2 then s.becomeFault crew c q
    else if (c.fst.req.map (·.sameFault q)).getD false then s
    else s.putCrew crew { c with fst := { c.fst with held := c.fst.held ++ [q] } }

end Sys2Proof.Machine
end

