-- ==== Sys2Proof/Machine/Place.lean ====
section
/-!
DEFINITION. Where crews may run: the clusters of a partition (R68, R69, R72), the resources of a core (R21), and
the bounds of a nest's levels (R24).
-/
namespace Sys2Proof.Machine
open Sys2Proof

/-! ## Clusters of a partition -/

/-- The first cluster of a partition (R68). -/
def State.firstCluster (s : State) (p : Nat) : Nat := p * (perPart s.parts').1

/-- The partition of a cluster (R68). -/
def State.clusterPart (s : State) (k : Nat) : Nat := k / (perPart s.parts').1

/-- The working guaranteed clusters of a partition by their numbers (R68, R69). -/
def State.guaranteed (s : State) (p : Nat) : List Nat :=
  let (c, g, _) := perPart s.parts'
  (List.range g).filterMap (fun n =>
    if !(s.cluster (p * c + n)).failed then some (p * c + n)
    else ((List.range c).map (p * c + ·)).find? (fun k => (s.cluster k).takes == some n && !(s.cluster k).failed))

/-- The working kitty clusters of a partition (R68, R69). -/
def State.kitty (s : State) (p : Nat) : List Nat :=
  let (c, g, n) := perPart s.parts'
  ((List.range n).map (p * c + g + ·)).filter (fun k => !(s.cluster k).failed && (s.cluster k).takes.isNone)

/-- Whether a core serves points of a partition with a placement (R26, R63, R69, R72). -/
def State.coreTakes (s : State) (p core place unit : Nat) : Bool :=
  let k := core / 4
  let cl := s.cluster k
  !cl.failed && !cl.revoking &&
  match cl.lent with
  | some q => q == p && place == 0
  | none =>
    let gs := s.guaranteed p
    if place = 0 then s.clusterPart k == p
    else if place = 1 then gs[unit % gs.length]? == some k
    else gs[unit % (4 * gs.length) / 4]? == some k && unit % (4 * gs.length) % 4 == core % 4

/-! ## Resources (R21) -/

/-- Threads rounded up to a multiple of 32. -/
def NestRec.rounded (r : NestRec) : Nat := (r.threads + 31) / 32 * 32

/-- Thread slots of a crew. -/
def NestRec.slots (r : NestRec) : Nat := if r.regs ≤ 64 then r.rounded / 2 else r.rounded

/-- Registers of a crew as R21 counts them. -/
def NestRec.coreRegs (r : NestRec) : Nat := r.rounded * ((r.regs + 7) / 8 * 8)

/-- The crews that hold resources of a core. -/
def State.crewsOn (s : State) (core : Nat) : List (Nat × Crew) :=
  s.crewList.filter (fun e => e.2.loc.map (·.1) == some core)

/-- Sum of a quantity over crews. -/
def total (cs : List (Nat × Crew)) (f : Crew → Nat) : Nat := cs.foldl (fun n e => n + f e.2) 0

/-- The lowest base at which `n` bytes lie clear of the runs taken, inside `limit` (log 14). -/
def lowestGap (taken : List (Nat × Nat)) (n limit : Nat) : Option Nat :=
  let ok (a : Nat) : Bool := decide (a + n ≤ limit) && taken.all (fun t => decide (a + n ≤ t.1) || decide (t.2 ≤ a))
  ((0 :: taken.map (·.2)).filter ok).foldl (fun m a => match m with | some b => some (min a b) | none => some a) none

/-- The base of a local reservation on a core: LOCAL is one run of consecutive bytes (log 99). -/
def State.localGap (s : State) (core n : Nat) : Option Nat :=
  if n = 0 then some 0
  else lowestGap ((s.crewsOn core).map (fun e => (e.2.lbase, e.2.lbase + e.2.localSize))) n Config.localBytes

/-- The lowest free thread slots of a core (R21, log 14). -/
def State.freeSlots (s : State) (core n : Nat) : List Nat :=
  ((List.range Config.slots).filter (fun k => !(s.crewsOn core).any (fun e => e.2.slots.contains k))).take n

/-- A load that carries the tag a context gives next is outstanding (R346). -/
def State.strayAt (s : State) (ctx : Nat) : Bool := s.strays.any (fun x => x.ctx == ctx && x.gen == s.gens.get ctx)

/-- The lowest free context of a core whose next tag no outstanding load carries (R346, log 14). -/
def State.freeContext (s : State) (core : Nat) : Option Nat :=
  (List.range Config.contexts).find? (fun x =>
    !(s.crewsOn core).any (fun e => e.2.context == x) && !s.strayAt (core * Config.contexts + x))

/-- A crew of a nest fits beside the crews of a core (R21). -/
def State.fits (s : State) (core : Nat) (r : NestRec) : Bool :=
  let cs := s.crewsOn core
  decide (total cs (·.rcd.slots) + r.slots ≤ Config.slots) &&
  decide (total cs (·.rcd.coreRegs) + r.coreRegs ≤ Config.coreRegs) &&
  (s.localGap core r.localBytes).isSome &&
  decide (total cs (·.rcd.accRows) + r.accRows ≤ Config.accRows) &&
  decide (total cs (·.rcd.copies) + r.copies ≤ Config.copyEntries) &&
  (s.freeContext core).isSome

/-- The lowest free frame slot of a function (R347, log 14). -/
def State.freeFrame (s : State) (fn : Nat) : Option Nat :=
  (List.range (s.field (.fframe fn) 0 14)).find? (fun h => !s.crewList.any (fun e => e.2.fn == fn && e.2.frame == h))

/-- The lowest free private slot of a function (R186, log 14). -/
def State.freePriv (s : State) (fn : Nat) : Option Nat :=
  (List.range (s.field (.fpriv fn) 0 14)).find? (fun h =>
    !s.crewList.any (fun e => e.2.fn == fn && e.2.privSlot == some h))

/-- A core has room to start a crew of a function's nest (R21, R63, R186, R347). -/
def State.roomFor (s : State) (core fn : Nat) (r : NestRec) : Bool :=
  s.fits core r && (s.freeFrame fn).isSome && (r.priv == 0 || (s.freePriv fn).isSome)

/-- A thermal halt is in force (R13, R349). -/
def State.thalt (s : State) : Bool := s.field .devstat 26 1 == 1

/-! ## Bounds (R24) -/

/-- Limits a sum to 32 signed bits (R24). -/
def clamp32 (x : Int) : Int := max (-(2 ^ 31)) (min x (2 ^ 31 - 1))

/-- A constant term and coefficients on the outer indices (R24). -/
def affine (c : Int) (cs outer : List Int) : Int := clamp32 (c + (List.zipWith (· * ·) cs outer).foldl (· + ·) 0)

/-- The inclusive lower bound of a walked level (R24). -/
def NestRec.lo (r : NestRec) (k : Nat) (outer : List Int) : Int :=
  let l := r.levels.getD k default
  affine l.lo l.loc (outer.take k)

/-- The exclusive upper bound of a walked level with the constant terms `his` (R24, R59). -/
def NestRec.hi (r : NestRec) (his : List Int) (k : Nat) (outer : List Int) : Int :=
  affine (his.getD k 0) (r.levels.getD k default).hic (outer.take k)

/-- The placement of a point (R26): PLACE and UNIT of Table 4-2, with `g` guaranteed clusters. -/
def NestRec.placement (r : NestRec) (g : Nat) (pt : List Int) : Nat × Nat :=
  (List.range r.walk).foldl (fun acc k =>
    let d := (r.levels.getD k default).domain
    if d = 1 then (1, (pt.getD k 0 % (g : Int)).toNat)
    else if d = 2 then (2, (pt.getD k 0 % ((4 * g : Nat) : Int)).toNat)
    else acc) (0, 0)

end Sys2Proof.Machine
end

