-- ==== Sys2Proof/Machine/Ring.lean ====
section
/-!
DEFINITION. The card ring and the dealer (R220, R222, R241 to R244): acceptance, predecessors, and what a card
waits for before it starts.
-/
namespace Sys2Proof.Machine
open Sys2Proof

/-- A card of the matrix engine; the others are copy-class cards (R241). -/
def CardKind.isMatrix : CardKind → Bool
  | .mma | .mmas | .mrsc => true
  | _ => false

/-- An empty card. -/
def blankCard : Card :=
  { id := 0, core := 0, who := ⟨0, 0⟩, fn := 0, kind := .linear, dir := 0, cls := 0, bar := none, src := 0, dst := 0
    bytes := 0, layout := default, laddr := 0, sdst := 0, coords := [], scales := false, receivers := [], op := 0
    thresh := 0, count := 0, span := 0, result := 0, group := 0, inst := 0, scope := .none, mat := none, reads := []
    writes := [], preds := [], started := false, startAt := 0, landed := [], finalRows := 0, paused := false
    req := none, stRow := [], pc := 0, ranks := [], sent := [], passed := [], asks := [], miss := none
    held := [], bases := [] }

/-- Cards in the ring of a core (R241). -/
def State.ring (s : State) (core : Nat) : List Card := s.cards.filter (·.core == core)

/-- A card of the ring. -/
def State.card (s : State) (id : Nat) : Option Card := s.cards.find? (·.id == id)

/-- Changes a card of the ring. -/
def State.onCard (s : State) (id : Nat) (f : Card → Card) : State :=
  { s with cards := s.cards.map (fun k => if k.id = id then f k else k) }

/-- Copy-class cards of a crew that are accepted and not completed (R241, R255). -/
def State.copyCards (s : State) (crew : Nat) : Nat :=
  (s.cards.filter (fun k => k.who.crew == crew && !k.kind.isMatrix)).length

/-- Two footprint ranges overlap (R243). -/
def Range.meets (a b : Range) : Bool :=
  a.rows == b.rows && a.crew == b.crew && overlaps a.first a.count b.first b.count

/-- Card `y`, in the ring before `x`, is a predecessor of `x` (R243). -/
def Card.before (y x : Card) : Bool :=
  y.writes.any (fun a => x.reads.any a.meets || x.writes.any a.meets) || y.reads.any (fun a => x.writes.any a.meets)

/-- A card is accepted: it enters the ring with its predecessor edges (R222, R241, R243). -/
def State.accept (s : State) (k : Card) : State :=
  let ps := ((s.ring k.core).filter (fun y => y.before k)).map (·.id)
  { s with cards := s.cards ++ [{ k with preds := ps }] }

/-- A card leaves the ring: the counts of its successors fall (R243). -/
def State.leaveRing (s : State) (id : Nat) : State :=
  { s with cards := (s.cards.filter (·.id != id)).map (fun k => { k with preds := k.preds.erase id }) }

/-- The cards accepted before a card. -/
def State.earlier (s : State) (id : Nat) : List Card := s.cards.takeWhile (·.id != id)

/-- A line is full for the start of a card: earlier cards, replayed ones and multicasts saved with their crews too, and software
marks alone make it empty (R243, R258). -/
def State.fullFor (s : State) (id crew line : Nat) : Bool :=
  !(s.earlier id).any (fun k => s.cardPends k crew line) &&
  !s.crewList.any (fun e => e.2.cards.any (fun k => k.kind == .multicast && decide (k.id < id) && s.cardPends k crew line)) &&
  match s.crew crew with
  | some c => !c.marks.get line && !c.lineReplay.any (fun p => p.line == line && decide (p.card.id < id))
  | none => true

/-- The rows that a matrix card has yet to make final (R231). -/
def Card.pendingRow (k : Card) (crew row : Nat) : Bool :=
  k.who.crew == crew &&
  match k.mat with
  | some p => (decide (p.row + k.finalRows ≤ row) && decide (row < p.row + p.m)) ||
      (k.kind == .mrsc && row == p.state)
  | none => false

/-- The accepted cards that hold a row of a crew pending, saved ones too (R231, R239). -/
def State.pendingCards (s : State) (crew row : Nat) : List Nat :=
  ((s.cards ++ ((s.crew crew).map (·.cards)).getD []).filter (fun k => k.pendingRow crew row)).map (·.id)

/-- A row is pending (R231). -/
def State.rowPending (s : State) (crew row : Nat) : Bool := !(s.pendingCards crew row).isEmpty

/-- A cell of a crew's accumulator store (R201). -/
def Crew.cell (c : Crew) (crew row col : Nat) : Word :=
  match c.acc.get (row * 256 + col) with
  | some v => v
  | none => if c.rowZero.get row then 0 else Config.freeAcc crew (row * 256 + col)

/-- Writes cells of a row. -/
def Crew.putCells (c : Crew) (row col : Nat) (vs : List Word) : Crew :=
  { c with acc := c.acc.setList (row * 256 + col) (vs.map some) }

/-- Sets rows to +0 (R236, R240). -/
def Crew.zeroRows (c : Crew) (first n : Nat) : Crew :=
  { c with
    acc := c.acc.keep (fun k => decide (k / 256 < first) || decide (first + n ≤ k / 256))
    rowZero := (List.range n).foldl (fun m i => m.set (first + i) true) c.rowZero }

/-- The register images that an ACCRD takes from its row (R235). -/
def AccRead.words (a : AccRead) (c : Crew) (crew n : Nat) : List Word :=
  let cell (i : Nat) : Nat := (c.cell crew a.row (a.col + i)).toNat
  if a.ty = .f32 then (List.range n).map (fun i => BitVec.ofNat 32 (cell i))
  else
    let rd (i : Nat) : Nat := (fmtOf a.ty).ofNum a.rm (single.decode (cell i))
    (List.range n).map (fun i => BitVec.ofNat 32 (rd (2 * i) + 2 ^ 16 * rd (2 * i + 1)))

/-- Words as little-endian bytes. -/
def wordBytes (ws : List Word) : List Byte := ws.flatMap (fun w => leBytes 4 w.toNat)

/-- ACCRDs whose awaited cards hold their rows no more take their values (R235). -/
def State.settleReads (s : State) (crew : Nat) : State :=
  match s.crew crew with
  | none => s
  | some c =>
    let take (l : Load) : Load :=
      match l.acc, l.data with
      | some a, none =>
        if l.who.crew = crew then
          let left := a.after.filter (fun id => (s.pendingCards crew a.row).contains id)
          if left = [] then { l with data := some (wordBytes (a.words c crew l.count)) }
          else { l with acc := some { a with after := left } }
        else l
      | _, _ => l
    { s with loads := s.loads.map take }

/-- A run of lines of a crew as a footprint range. -/
def lineRange (crew a n : Nat) : List Range :=
  if n = 0 then [] else [{ rows := false, crew := crew, first := a / 128, count := (a + n - 1) / 128 - a / 128 + 1 }]

end Sys2Proof.Machine
end

