-- ==== Sys2Proof/Machine/Matrix.lean ====
section
/-!
DEFINITION. The matrix engine (R219 to R240): the issue of MMA, MMAS and MRSC, products and recurrences block by
block, and the accumulator instructions.
-/
namespace Sys2Proof.Machine
open Sys2Proof

/-! ## The parameter block and the operands (R223 to R227) -/

/-- M, N and the K of a shape code for an element type (R224). -/
def shapeM (code : Nat) : Nat := 32 * 2 ^ (code % 4)
def shapeN (code : Nat) : Nat := 32 * 2 ^ (code / 4 % 4)
def baseDepth (etype : Nat) : Nat := if etype = 0 then 128 else if etype = 1 then 256 else 64
def shapeK (code etype : Nat) : Nat := baseDepth etype * 2 ^ (code / 16)

/-- Element bytes (Table 13-1). -/
def elemBytes (etype : Nat) : Nat := if etype < 2 then 1 else 2

/-- The operation that an issuing instruction asks for: kept values of a block of 128, and MRSC's steps. -/
structure MatOp where
  kind : CardKind
  nz : Nat
  steps : Nat
  deriving DecidableEq, Repr

/-- The parameters of a block, unless it breaks a rule of R223 or R224. -/
def blockPar (op : MatOp) (b : List Byte) : Option MatPar :=
  let f := fld b
  let code := f 0 1
  let et := f 1 1
  let fl := f 2 1
  let rec_ := op.kind == .mrsc
  let scaled := fl / 2 % 2 == 1
  let acc := fl % 2 == 1
  let m := if rec_ then op.steps else shapeM code
  let n := shapeN code
  let row := f 4 2
  let col := f 6 2
  let ok :=
    decide (code < 32) && decide (et < 4) && decide (fl < 4) && decide (f 3 1 < 4) && f 0x0A 6 == 0 && f 0x1C 36 == 0 &&
    (decide (et < 2) || !scaled) && (scaled || (f 0x10 4 == 0 && f 0x14 4 == 0)) &&
    (op.kind == .mmas || f 0x18 4 == 0) && (rec_ || f 8 2 == 0) &&
    row % (if rec_ then 16 else 32) == 0 && col % 32 == 0 && decide (col + n ≤ 256) &&
    (!rec_ || ((et == 0 || et == 2) && !acc && code % 4 == 0 && code / 16 == 0 && decide (row + op.steps ≤ 256)))
  if ok then some {
    m := m, n := n, k := if rec_ then 0 else shapeK code et, etype := et, scaled := scaled, acc := acc, slot := f 3 1
    row := row, col := col, state := f 8 2, ascale := f 0x10 4, bscale := f 0x14 4, metaAddr := f 0x18 4, nz := op.nz
    srcA := .band [], srcB := .band [] }
  else none

/-- A scratchpad descriptor, unless it breaks a rule of R225. -/
def scratchOf (lo hi : Word) : Option MatSrc :=
  let e := lo.toNat
  let o := hi.toNat
  if e / 2 ^ 30 ≠ 0 ∨ e / 2 ^ 14 % 4 ≠ 0 ∨ o / 2 ^ 20 ≠ 0 ∨ o / 2 ^ 14 % 4 ≠ 0 ∨ 4 ≤ o / 2 ^ 16 % 8 then none
  else
    let base := e % 2 ^ 14
    let xc := o / 2 ^ 19 % 2 == 1
    some (.scratch (if xc then some (base / 2 ^ 12) else none) (if xc then base % 2 ^ 12 else base) (e / 2 ^ 16 % 2 ^ 14)
      (o % 2 ^ 14) (o / 2 ^ 16 % 8))

/-- Registers of a band block: K · eb ÷ 4 (R226). -/
def bandLength (k etype : Nat) : Nat := k * elemBytes etype / 4

/-- A band operand is allowed: 32 rows or columns, at most 256 bytes of K, below REGS (R226). -/
def bandOk (c : Crew) (first mn k etype : Nat) : Bool :=
  mn == 32 && decide (k * elemBytes etype ≤ 256) && decide (first + bandLength k etype ≤ c.rcd.regs)

/-- The thread at a lane of the issuing thread's band, if it is live (R226). -/
def Crew.lane (c : Crew) (band l : Nat) : Option Thread :=
  (c.liveThreads.find? (fun t => t.2.pos == 32 * band + l)).map (·.2)

/-- The rows that a band supplies: zeros for a lane that holds no live thread (R226). -/
def Crew.capture (c : Crew) (band first n : Nat) : List (List Word) :=
  (List.range 32).map (fun l =>
    match c.lane band l with
    | some t => t.regs.getList first n
    | none => List.replicate n 0)

/-- Every captured register is full (R226). -/
def Crew.captureFull (c : Crew) (band first n : Nat) : Bool :=
  (List.range 32).all (fun l =>
    match c.lane band l with
    | some t => t.full ((List.range n).map (first + ·))
    | none => true)

/-- K-tiles of a row of `n` elements (R225). -/
def tileCount (n etype : Nat) : Nat := (n * elemBytes etype + 127) / 128

/-- The lines that a scratchpad operand of `rows` rows and `n` elements a row touches (R225). -/
def MatSrc.lines (src : MatSrc) (rows n etype : Nat) : List Nat :=
  match src with
  | .scratch _ base rp tp _ =>
    (List.range (tileCount n etype)).flatMap (fun t => (List.range rows).map (fun m => base + t * tp + m * rp))
  | .band _ => []

/-- First and last line of a scratchpad operand. -/
def MatSrc.bounds (src : MatSrc) (rows n etype : Nat) : Option (Nat × Nat) :=
  match src with
  | .scratch _ base rp tp _ => some (base, base + (tileCount n etype - 1) * tp + (rows - 1) * rp)
  | .band _ => none

/-- The crew whose local memory an operand's lines lie in: the issuing crew, or the one crew of the function
that holds a whole core of the cluster (R225). -/
def State.sourceCrew (s : State) (c : Crew) (self : Nat) : MatSrc → Option Nat
  | .scratch (some k) _ _ _ _ =>
    ((s.crewsOn (c.cluster * 4 + k)).find? (fun e => e.2.fn == c.fn && e.2.localSize == Config.localBytes)).map (·.1)
  | _ => some self

/-- An operand lies inside its reach (R225). -/
def State.reachOk (s : State) (c : Crew) (self : Nat) (src : MatSrc) (rows n etype : Nat) : Bool :=
  match src.bounds rows n etype with
  | none => true
  | some (_, last) =>
    match src with
    | .scratch (some _) _ _ _ _ => decide (last < 4096) && (s.sourceCrew c self src).isSome
    | _ => decide (last < c.localSize / 128)

/-- Stored elements of a row of operand A (R230, R233). -/
def MatPar.lenA (p : MatPar) (kind : CardKind) : Nat :=
  if kind = .mrsc then p.n else if p.nz = 0 then p.k else p.k * p.nz / 128

/-- Rows and row length of operand B (R225, R233). -/
def MatPar.rowsB (p : MatPar) (kind : CardKind) : Nat := if kind = .mrsc then p.m else p.n
def MatPar.lenB (p : MatPar) (kind : CardKind) : Nat := if kind = .mrsc then p.n else p.k

/-- Bytes of the scale tables of A and of B (R227, R233). -/
def MatPar.scaleA (p : MatPar) (kind : CardKind) : Nat :=
  if !p.scaled then 0 else if kind = .mrsc then p.m * (p.n / 32) else p.m * (p.k / 32)
def MatPar.scaleB (p : MatPar) (kind : CardKind) : Nat :=
  if !p.scaled then 0 else if kind = .mrsc then p.m * (p.n / 32) else p.n * (p.k / 32)

/-- Bytes of the sparsity metadata (R230). -/
def MatPar.metaBytes (p : MatPar) : Nat := if p.nz = 0 then 0 else p.m * (p.k * p.nz / 128)

/-- The lines of a crew's own local memory that a card's scales and metadata touch (R227, R230). -/
def MatPar.tableLines (p : MatPar) (kind : CardKind) : List Nat :=
  let run (a n : Nat) : List Nat := if n = 0 then [] else (List.range ((a + n - 1) / 128 - a / 128 + 1)).map (a / 128 + ·)
  run p.ascale (p.scaleA kind) ++ run p.bscale (p.scaleB kind) ++ run p.metaAddr p.metaBytes

/-- Scales and metadata lie below LOCAL (R227). -/
def MatPar.tablesOk (p : MatPar) (kind : CardKind) (size : Nat) : Bool :=
  (p.scaleA kind == 0 || decide (p.ascale + p.scaleA kind ≤ size)) &&
  (p.scaleB kind == 0 || decide (p.bscale + p.scaleB kind ≤ size)) &&
  (p.metaBytes == 0 || decide (p.metaAddr + p.metaBytes ≤ size))

/-- The operand's bounding range in the footprint, where it lies on the issuing core (R228). -/
def State.operandRange (s : State) (c : Crew) (self : Nat) (src : MatSrc) (rows n etype : Nat) : List Range :=
  match src.bounds rows n etype, s.sourceCrew c self src with
  | some (a, b), some k =>
    match s.crew k with
    | some ck => if ck.core = c.core then [{ rows := false, crew := k, first := a, count := b - a + 1 }] else []
    | none => []
  | _, _ => []

/-- One range that spans both scale tables (R228). -/
def MatPar.scaleRange (p : MatPar) (kind : CardKind) (self : Nat) : List Range :=
  if !p.scaled then []
  else
    let lo := min p.ascale p.bscale
    let hi := max (p.ascale + p.scaleA kind) (p.bscale + p.scaleB kind)
    lineRange self lo (hi - lo)

/-- Target rows and the state row (R228). -/
def MatPar.rowRanges (p : MatPar) (kind : CardKind) (self : Nat) : List Range :=
  { rows := true, crew := self, first := p.row, count := p.m } ::
    (if kind = .mrsc then [{ rows := true, crew := self, first := p.state, count := 1 }] else [])

/-! ## Issue (R222) -/

/-- The other crews whose local memory a card's operands lie in: they keep their reservations (R225). -/
def State.sourceCrews (s : State) (self : Nat) (c : Crew) (p : MatPar) : List Nat :=
  ([p.srcA, p.srcB].filterMap (fun src => match src with
    | .scratch (some _) _ _ _ _ => (s.sourceCrew c self src).filter (· != self)
    | _ => none)).dedup

/-- The matrix card of an issue. -/
def State.matrixCard (s : State) (r : ThreadRef) (c : Crew) (kind : CardKind) (p : MatPar) : Card :=
  let reads := s.operandRange c r.crew p.srcA p.m (p.lenA kind) p.etype ++
    s.operandRange c r.crew p.srcB (p.rowsB kind) (p.lenB kind) p.etype ++ p.scaleRange kind r.crew ++
    lineRange r.crew p.metaAddr p.metaBytes ++ (if p.acc then p.rowRanges kind r.crew else [])
  { blankCard with
    id := s.nextId, core := c.core, who := r, fn := c.fn, kind := kind, mat := some p, reads := reads
    pc := ((s.thread r).map (·.pc)).getD 0, receivers := s.sourceCrews r.crew c p
    writes := p.rowRanges kind r.crew }

/-- Acceptance of a matrix card: its slot's watermark restarts (R222, R232). -/
def State.acceptMatrix (s : State) (r : ThreadRef) (c : Crew) (kind : CardKind) (p : MatPar) : State :=
  let k := s.matrixCard r c kind p
  let (_, s1) := s.newId
  ((s1.accept k).onCrew r.crew (fun c => { c with tiles := c.tiles.set p.slot { card := some k.id, mark := 0 } })).proceed r

/-- The two operands of an issue: descriptors, or band blocks captured as they stand (R221, R225, R226). -/
def operand (t : Thread) (c : Crew) (reg : BitVec 7) (isBand : Bool) (n etype : Nat) : Option MatSrc :=
  if isBand then some (.band (c.capture (bandOf t.pos) reg.toNat (bandLength n etype)))
  else scratchOf ((t.pair reg).extractLsb' 0 32) ((t.pair reg).extractLsb' 32 32)

/-- The checks that follow the block: a broken rule, a range, a reset row (R222). -/
def State.matrixCheck (s : State) (self : Nat) (c : Crew) (kind : CardKind) (p : MatPar) : Option Cause :=
  let rows := (List.range p.m).map (p.row + ·) ++ (if kind = .mrsc then [p.state] else [])
  if rows.any (fun r => decide (c.rcd.accRows ≤ r)) ||
      !s.reachOk c self p.srcA p.m (p.lenA kind) p.etype ||
      !s.reachOk c self p.srcB (p.rowsB kind) (p.lenB kind) p.etype || !p.tablesOk kind c.localSize then some .perm
  else if rows.any (fun r => c.rowReset.get r) then some .engReset
  else none

/-- Issue of a matrix operation by one thread (R222). -/
def State.matrixIssue (s : State) (r : ThreadRef) (t : Thread) (f : Fields) (op : MatOp) : State :=
  match s.crew r.crew with
  | none => s
  | some c =>
    let a := (t.reg f.a).toNat
    let bandA := op.kind == .mma && f.x.getLsbD 0
    let bandB := op.kind != .mrsc && f.x.getLsbD 1
    if a % 64 ≠ 0 then s.raise r .align
    else if c.localSize < a + 64 then s.raise r .perm
    else if t.tx.state = .transactional then s.abortTx r 9 0 0
    else if s.localEmpty r.crew a 64 ∨ s.acqPending r then s.stay r
    else match blockPar op (c.localBytes r.crew a 64) with
      | none => s.raise r .cardBad
      | some p0 =>
        if (bandA && !bandOk c f.b.toNat p0.m p0.k p0.etype) || (bandB && !bandOk c f.c.toNat p0.n p0.k p0.etype) then
          s.raise r .cardBad
        else match operand t c f.b bandA p0.k p0.etype, operand t c f.c bandB p0.k p0.etype with
          | some sa, some sb =>
            let p := { p0 with srcA := sa, srcB := sb }
            match s.matrixCheck r.crew c op.kind p with
            | some e => s.raise r e
            | none =>
              if (bandA && !c.captureFull (bandOf t.pos) f.b.toNat (bandLength p.k p.etype)) ||
                  (bandB && !c.captureFull (bandOf t.pos) f.c.toNat (bandLength p.k p.etype)) then s.stay r
              else if Config.ringSlots ≤ (s.ring c.core).length then s.heldAt r
              else s.acceptMatrix r c op.kind p
          | _, _ => s.raise r .cardBad

/-- MMA (R222, R229). -/
def execMma (f : Fields) (s : State) : Result :=
  .next (s.issueOrdered (.mma f) f.g (fun s r t => s.matrixIssue r t f { kind := .mma, nz := 0, steps := 0 }))

/-- MMAS (R222, R230). -/
def execMmas (f : Fields) (s : State) : Result :=
  .next (s.issueOrdered (.mmas f) f.g (fun s r t =>
    s.matrixIssue r t f { kind := .mmas, nz := if f.fn = 1 then 32 else 64, steps := 0 }))

/-- MRSC (R222, R233). -/
def execMrsc (f : Fields) (s : State) : Result :=
  .next (s.issueOrdered (.mrsc f) f.g (fun s r t =>
    s.matrixIssue r t f { kind := .mrsc, nz := 0, steps := 16 * 2 ^ f.fn.toNat }))

/-! ## Products and recurrences (R229, R230, R233) -/

/-- A local byte of a crew; of a core that no such crew holds any more it is indeterminate (log 107). -/
def State.crewByte (s : State) (crew : Option Nat) (a : Nat) : Byte :=
  match crew, crew.bind s.crew with
  | some q, some c => c.localByte q a
  | _, _ => Config.freeLocal 0 a

/-- Byte address of element `k` of row `m` of a scratchpad operand (R225). -/
def elemAddr (base rp tp rot eb m k : Nat) : Nat :=
  let kt := 128 / eb
  let line := base + k / kt * tp + m * rp
  let o := k % kt * eb
  line * 128 + Nat.xor (o / 16) (m % 2 ^ rot) * 16 + o % 16

/-- The bits of element `k` of row `m` of an operand (R225, R226). -/
def State.elemBits (s : State) (crew : Option Nat) (src : MatSrc) (eb m k : Nat) : Nat :=
  match src with
  | .scratch _ base rp tp rot =>
    let a := elemAddr base rp tp rot eb m k
    leValue ((List.range eb).map (fun i => s.crewByte crew (a + i)))
  | .band rows => ((rows.getD m []).getD (k * eb / 4) 0).toNat / 2 ^ (8 * (k * eb % 4)) % 2 ^ (8 * eb)

/-- The value of an element (R160, R229). -/
def elemValue (etype v : Nat) : Fp :=
  if etype = 0 then taperDecode false v
  else if etype = 1 then taperDecode true (v % 64)
  else if etype = 2 then bfloat.decode v
  else half.decode v

/-- The exact sum of two numbers; opposite infinities give NaN (R229). -/
def Fp.addExact : Fp → Fp → Fp
  | .nan, _ | _, .nan => .nan
  | .inf n, .inf n' => if n = n' then .inf n else .nan
  | .inf n, _ | _, .inf n => .inf n
  | .fin n1 m1 e1, .fin n2 m2 e2 =>
    let s := exactAdd n1 m1 e1 n2 m2 e2
    .fin (if s.1 = 0 then Config.zeroSumNeg else decide (s.1 < 0)) s.1.natAbs s.2

/-- The sum of a list of products (R229). -/
def sumProducts (ps : List (Fp × Fp)) : Fp :=
  ps.foldl (fun acc p => acc.addExact (p.1.mulExact p.2)) (.fin Config.zeroSumNeg 0 0)

/-- A number under two block scales (R229). -/
def scaled2 (sa sb : Nat) (x : Fp) : Fp :=
  if sa = 255 ∨ sb = 255 then .nan else x.scale ((sa : Int) - 127 + ((sb : Int) - 127))

/-- Where a card's operands and tables are read. -/
structure MatView where
  p : MatPar
  kind : CardKind
  self : Nat
  crewA : Option Nat
  crewB : Option Nat
  deriving DecidableEq, Repr

/-- The scale byte of element `k` of row `m` of A or column `n` of B (R227, R233). -/
def State.matScale (s : State) (v : MatView) (base row len k : Nat) : Nat :=
  if v.p.scaled then (s.crewByte (some v.self) (base + row * (len / 32) + k / 32)).toNat else 127

/-- The elements of A in group `g` of row `m`, by dense position (R229, R230): a row holds `K · Nz / 128` of them, and one
that names a position beyond K stands in no group (log 107). -/
def State.groupA (s : State) (v : MatView) (m g : Nat) : List (Nat × Fp) :=
  let eb := elemBytes v.p.etype
  let val (j : Nat) : Fp := elemValue v.p.etype (s.elemBits v.crewA v.p.srcA eb m j)
  if v.p.nz = 0 then (List.range 16).map (fun i => (16 * g + i, val (16 * g + i)))
  else
    let block := g / 8
    let stored := v.p.k * v.p.nz / 128
    (((List.range v.p.nz).filter (fun i => decide (block * v.p.nz + i < stored))).map (fun i =>
      let j := block * v.p.nz + i
      (128 * block + (s.crewByte (some v.self) (v.p.metaAddr + m * stored + j)).toNat % 128, j))).filterMap
        (fun e => if e.1 / 16 = g then some (e.1, val e.2) else none)

/-- One target element of MMA or MMAS (R229). -/
def State.product (s : State) (v : MatView) (acc0 m n : Nat) : Nat :=
  let eb := elemBytes v.p.etype
  (List.range (v.p.k / 16)).foldl (fun acc g =>
    let ps := (s.groupA v m g).map (fun e => (e.2, elemValue v.p.etype (s.elemBits v.crewB v.p.srcB eb n e.1)))
    let sum := scaled2 (s.matScale v v.p.ascale m v.p.k (16 * g)) (s.matScale v v.p.bscale n v.p.k (16 * g)) (sumProducts ps)
    Fp.add single 0 (single.decode acc) sum) acc0

/-- One input of a recurrence as binary32 (R233). -/
def State.recInput (s : State) (v : MatView) (crew : Option Nat) (src : MatSrc) (table t c : Nat) : Nat :=
  let x := elemValue v.p.etype (s.elemBits crew src (elemBytes v.p.etype) t c)
  single.ofNum 0 (scaled2 (s.matScale v table t v.p.n c) 127 x)

/-- One step of a recurrence in every channel (R233). -/
def State.recStep (s : State) (v : MatView) (h : List Word) (t : Nat) : List Word :=
  (List.range v.p.n).map (fun c =>
    let av := s.recInput v v.crewA v.p.srcA v.p.ascale t c
    let bv := s.recInput v v.crewB v.p.srcB v.p.bscale t c
    BitVec.ofNat 32 (Fp.fma single 0 (single.decode av) (single.decode (h.getD c 0).toNat) (single.decode bv)))

/-- The steps of a block of a recurrence: the rows, and the last one. -/
def State.recBlock (s : State) (v : MatView) : Nat → Nat → List Word → List (List Word) × List Word
  | 0, _, h => ([], h)
  | k + 1, t, h =>
    let h1 := s.recStep v h t
    let (rest, last) := s.recBlock v k (t + 1) h1
    (h1 :: rest, last)

/-- The local lines that a matrix card's operands, scales and metadata touch, by crew (R220). -/
def State.matLines (s : State) (k : Card) (p : MatPar) (c : Crew) : List (Nat × Nat) :=
  let of (src : MatSrc) (rows n : Nat) : List (Nat × Nat) :=
    match s.sourceCrew c k.who.crew src with
    | some q => (src.lines rows n p.etype).map (fun l => (q, l))
    | none => []
  of p.srcA p.m (p.lenA k.kind) ++ of p.srcB (p.rowsB k.kind) (p.lenB k.kind) ++
    (p.tableLines k.kind).map (fun l => (k.who.crew, l))

/-- What a matrix card reads. -/
def State.matView (s : State) (k : Card) (p : MatPar) (c : Crew) : MatView :=
  { p := p, kind := k.kind, self := k.who.crew
    crewA := s.sourceCrew c k.who.crew p.srcA, crewB := s.sourceCrew c k.who.crew p.srcB }

/-- The rows of the next block of a card (R229, R231, R233): their cells, and MRSC's state after them. -/
def State.blockRows (s : State) (k : Card) (p : MatPar) (c : Crew) (n : Nat) : List (List Word) × List Word :=
  let v := s.matView k p c
  if k.kind = .mrsc then s.recBlock v n k.finalRows k.stRow
  else
    ((List.range n).map (fun i =>
      let m := k.finalRows + i
      (List.range p.n).map (fun j =>
        let acc0 := if p.acc then (c.cell k.who.crew (p.row + m) (p.col + j)).toNat else 0
        BitVec.ofNat 32 (s.product v acc0 m j))), [])

/-- Writes rows from `row` at column `col`. -/
def Crew.putRows (c : Crew) (row col : Nat) : List (List Word) → Crew
  | [] => c
  | r :: rs => (c.putCells row col r).putRows (row + 1) col rs

/-- MATRIX_BLOCK_FINAL (R231, R232): the next block of rows of a started card becomes final. -/
def execMatrixBlockFinal (id : Nat) (s : State) : Result :=
  .next (match s.card id with
    | none => s
    | some k =>
      match k.mat, s.crew k.who.crew with
      | some p, some c =>
        if !k.started || decide (p.m ≤ k.finalRows) then s
        else
          let n := min 32 (p.m - k.finalRows)
          let (rows, st) := s.blockRows k p c n
          let c1 := c.putRows (p.row + k.finalRows) p.col rows
          let t := c1.tiles.get p.slot
          let c2 := if t.card = some id then { c1 with tiles := c1.tiles.set p.slot { t with mark := t.mark + n } } else c1
          ((s.putCrew k.who.crew c2).onCard id (fun k => { k with finalRows := k.finalRows + n, stRow := st })).settleReads
            k.who.crew
      | _, _ => s)

/-! ## Accumulator instructions (R234 to R237) -/

/-- Faults of ACCRD and ACCWR on row `a`, column `b` and a count of elements (R235). -/
def accCheck (c : Crew) (a b count : Nat) : Option Cause :=
  if b % count ≠ 0 then some .align
  else if c.rcd.accRows ≤ a ∨ 256 < b + count then some .perm
  else if c.rowReset.get a then some .engReset
  else none

/-- Elements of ACCRD and ACCWR: two to a register for the 16-bit types (R235). -/
def accCount (f : Fields) : Nat := vecCount f.x * (if f.ty = .f32 then 1 else 2)

/-- ACCRD (R235). -/
def execAccrd (f : Fields) (s : State) : Result :=
  .next (s.issue (.accrd f) f.g (fun s r t =>
    match s.crew r.crew with
    | none => s
    | some c =>
      let row := (t.reg f.a).toNat
      let col := (t.srcBi f .z32).toNat
      match accCheck c row col (accCount f) with
      | some e => s.raise r e
      | none =>
        if s.acqPending r then s.stay r
        else
        let (id, s0) := s.newId
        let a : AccRead := { row := row, col := col, ty := f.ty, rm := f.rm, after := s.pendingCards r.crew row }
        let n := vecCount f.x
        s0.pushLoad r { mkLoad id r t f .accRows row col with
          width := 4, count := n, ty := .b32, acc := some a
          data := if a.after = [] then some (wordBytes (a.words c r.crew n)) else none }))

/-- A 16-bit number widened to binary32; a NaN becomes the canonical NaN (R235). -/
def widen (ty : Ty) (v : Nat) : Word := BitVec.ofNat 32 (single.ofNum 0 ((fmtOf ty).decode v))

/-- The cells that ACCWR writes (R235). -/
def accWords (t : Thread) (f : Fields) : List Word :=
  (List.range (vecCount f.x)).flatMap (fun i =>
    let v := t.reg (f.b + BitVec.ofNat 7 i)
    if f.ty = .f32 then [v] else [widen f.ty (v.toNat % 2 ^ 16), widen f.ty (v.toNat / 2 ^ 16)])

/-- ACCWR (R235). -/
def execAccwr (f : Fields) (s : State) : Result :=
  .next (s.issueOrdered (.accwr f) f.g (fun s r t =>
    match s.crew r.crew with
    | none => s
    | some c =>
      let row := (t.reg f.a).toNat
      let col := (t.srcCi f .z32).toNat
      match accCheck c row col (accCount f) with
      | some e => s.raise r e
      | none =>
        if s.rowPending r.crew row ∨ s.acqPending r then s.stay r
        else (s.onCrew r.crew (fun c => c.putCells row col (accWords t f))).proceed r))

/-- ACCZ (R236). -/
def execAccz (f : Fields) (s : State) : Result :=
  .next (s.issue (.accz f) f.g (fun s r t =>
    match s.crew r.crew with
    | none => s
    | some c =>
      let a := (t.reg f.a).toNat
      let b := (t.srcBi f .z32).toNat
      if b = 0 then s.proceed r
      else if c.rcd.accRows < a + b then s.raise r .perm
      else if (List.range b).any (fun i => s.rowPending r.crew (a + i)) ∨ s.acqPending r then s.stay r
      else (s.onCrew r.crew (fun c =>
        { c.zeroRows a b with rowReset := (List.range b).foldl (fun m i => m.set (a + i) false) c.rowReset })).proceed r))

/-- WMARK (R237). -/
def execWmark (f : Fields) (s : State) : Result :=
  .next (s.issue (.wmark f) f.g (fun s r t =>
    match s.crew r.crew with
    | none => s
    | some c =>
      s.putThread r ((t.setReg f.d (BitVec.ofNat 32 (c.tiles.get f.fn.toNat).mark)).advance s.cur.next)))

/-- A card of a crew on a slot of a mask, accepted before number `lim`, is in the ring (R237). -/
def State.slotBusy (s : State) (crew : Nat) (mask : Byte) (lim : Nat) : Bool :=
  s.cards.any (fun k => k.who.crew == crew && decide (k.id < lim) &&
    match k.mat with
    | some p => mask.getLsbD p.slot
    | none => false)

/-- MWAIT (R237). -/
def execMwait (f : Fields) (s : State) : Result :=
  .next (s.issue (.mwait f) f.g (fun s r t =>
    let lim := match t.status with
      | .waitingSince n | .runnableSince n => n
      | _ => s.nextId
    if s.slotBusy r.crew f.fn lim then s.putThread r { t with age := 0, status := .waitingSince lim }
    else s.proceed r))

end Sys2Proof.Machine
end

