-- ==== Sys2Proof/Machine/Schedule.lean ====
section
/-!
DEFINITION. Which thread issues next, its group, and the fetch of its instruction (R85, R96, R106 to R109).
-/
namespace Sys2Proof.Machine
open Sys2Proof

/-- A thread that a pipe may take, with its thread slot. -/
structure Candidate where
  core : Nat
  crew : Nat
  tid : Nat
  slot : Nat
  thread : Thread
  deriving DecidableEq, Repr

/-- Runnable (Table 7-1). -/
def mayIssue : Status → Bool
  | .runnable | .runnableSince _ => true
  | _ => false

/-- A resident crew that issues: no save is under way (R344). -/
def Crew.issues (c : Crew) : Bool := c.loc.isSome && c.save.isNone && !c.ended

/-- The slot of a thread: two threads of up to 64 registers share one (R21). -/
def Crew.slotOf (c : Crew) (tid : Nat) : Nat := c.slots.getD (if c.rcd.regs ≤ 64 then tid / 2 else tid) 0

/-- The runnable threads of the cores. -/
def State.candidates (s : State) : List Candidate :=
  (s.crewList.filter (fun e => e.2.issues)).flatMap (fun e =>
    (e.2.threadList.filter (fun t => mayIssue t.2.status)).map (fun t => ⟨e.2.core, e.1, t.1, e.2.slotOf t.1, t.2⟩))

/-- A thread stood runnable as this cycle began, and no pipe has taken it (R105, R106). -/
def State.awaits (s : State) (r : ThreadRef) : Bool := s.awake.contains r && !s.taken.contains r

/-- The runnable threads that a pipe may still take in this cycle (R106); one that issued YIELD in the last cycle sits this
one out (R140). -/
def State.offers (s : State) : List Candidate :=
  s.candidates.filter (fun c => s.awaits ⟨c.crew, c.tid⟩ && !s.rests.contains ⟨c.crew, c.tid⟩ && decide (s.pipes.get c.core < Config.pipes))

/-- Whether a pipe prefers a thread to another: the older, on equal ages the lower slot, the first of a slot (R106). -/
def Candidate.before (a b : Candidate) : Bool :=
  decide (b.thread.age < a.thread.age) || (a.thread.age == b.thread.age &&
    (decide (a.slot < b.slot) || (a.slot == b.slot && decide (a.tid < b.tid))))

/-- The leader (R106). -/
def oldest : List Candidate → Option Candidate
  | [] => none
  | c :: cs =>
    match oldest cs with
    | some d => some (if d.before c then d else c)
    | none => some c

/-- Whether a position comes before another in a group's order: the leader's band first (R106). -/
def groupKey (lead pos : Nat) : Nat :=
  (bandOf pos + 32 - bandOf lead % 32) % 32 * 32 + laneOf pos

/-- The members of the leader's group, at most 32, in ascending position (R106, R107). -/
def groupOf (lead : Candidate) (cs : List Candidate) : List Nat :=
  let same := cs.filter (fun c => c.crew == lead.crew && c.thread.pc == lead.thread.pc)
  let first := (sortBy (fun c => groupKey lead.thread.pos c.thread.pos) same).take 32
  (sortBy (fun c => c.thread.pos) first).map (·.tid)

/-- A cycle ends: every thread that stood runnable in it without issuing is one cycle older (R109). The next one has the
threads that are runnable now (R105), those that issued YIELD in this one sitting out (R140). -/
def State.newCycle (s : State) : State :=
  { s with
    awake := s.candidates.map (fun c => ⟨c.crew, c.tid⟩), taken := [], pipes := []
    yielded := [], rests := s.yielded
    crews := s.crews.map (fun e => (e.1, e.2.map (fun c =>
      if c.issues then
        c.mapThreads (fun tid t =>
          if mayIssue t.status && s.awaits ⟨e.1, tid⟩ then { t with age := t.age + 1 } else t)
      else c))) }

/-- The next pipe of a core takes its leader and the group (R106). Which core's pipe chooses next is free. -/
def State.take (s : State) (cs : List Candidate) : Option State :=
  let cores := (cs.map (·.core)).dedup
  let (k, s1) := s.choose cores.length
  let mine := cs.filter (fun c => some c.core == cores[k]?)
  match oldest mine with
  | none => none
  | some l =>
    let g := groupOf l mine
    some { s1 with
      cur := ⟨l.crew, g, l.thread.pc, l.thread.pc, s1.nextId⟩, lag := 0
      taken := s1.taken ++ g.map (fun tid => ⟨l.crew, tid⟩), pipes := s1.pipes.upd l.core (· + 1) }

/-- The group that issues next, in this cycle or, where no pipe of it has a thread left, in the next that has one (R106): no
thread sits out two cycles together (R140). All cores share the cycle (R9). -/
def State.select (s : State) : Option State :=
  match s.offers, s.newCycle.offers, s.newCycle.newCycle.offers with
  | c :: cs, _, _ => s.take (c :: cs)
  | [], c :: cs, _ => s.newCycle.take (c :: cs)
  | [], [], cs => s.newCycle.newCycle.take cs

/-- The members of the group that issue a YIELD (R140). -/
def State.noteYield (s : State) (i : Instr) : State :=
  match i with
  | .yield f => { s with yielded := s.yielded ++ (s.cur.members.map (fun tid => (⟨s.cur.crew, tid⟩ : ThreadRef))).filter (fun r =>
      ((s.thread r).map (·.guardOn f.g)).getD false) }
  | _ => s

/-- What a fetch gives. -/
inductive Fetched where
  | instr (i : Instr)
  /-- The bytes are not here yet: the group waits. -/
  | wait
  | fault (c : Cause) (code : Nat)
  deriving DecidableEq, Repr

/-- The instruction at the head of the bytes left of a fetch block, for a crew with `regs` registers a thread
(R85, R88, R93). -/
def decodeAt (regs : Nat) (bytes : List Byte) : Instr :=
  match decode bytes with
  | .ok i => if i.regsOk regs then i else .illegalFetch .illegal
  | .error e => .illegalFetch e

/-- The instruction's length in bytes; a word with LEN 0b00 counts 4 (R354). -/
def fetchLength (bytes : List Byte) : Nat :=
  match (bytes.headD 0).toNat % 4 with
  | 0 => 4
  | 1 => 8
  | 2 => 12
  | _ => 16

/-- The block that a core's instruction cache holds. -/
def State.blockHeld (s : State) (core fn va : Nat) : Option (List Byte) :=
  (s.icache.find? (fun b => b.core == core && b.va == va && b.vmid == s.vmid fn && b.asid == s.asid fn)).map (·.bytes)

/-- A block enters the instruction cache of a core. -/
def State.keepBlock (s : State) (core fn va : Nat) (bytes : List Byte) : State :=
  { s with icache := s.icache ++ [⟨core, va, s.vmid fn, s.asid fn, bytes⟩] }

/-- The bytes of a fetch block at a core: the block held, or memory; where they differ either may be returned
(R96). -/
def State.fetchBlock (s : State) (core fn va pa : Nat) : List Byte × State :=
  let new := s.bytesAt pa 32
  match s.blockHeld core fn va with
  | some b =>
    if b = new then (new, s)
    else
      let (k, s1) := s.choose 2
      (if k = 0 then b else new, s1)
  | none => (new, (s.want fn 0 pa 32).keepBlock core fn va new)

/-- The bytes of a fetch block of another device: the block held, or the answer to a READ, for which the group waits
(R190, R331). -/
def State.fetchPeer (s : State) (c : Crew) (va pa : Nat) : Option (List Byte) × State :=
  match s.blockHeld c.core c.fn va with
  | some b => (some b, s)
  | none =>
    match s.loads.find? (fun (l : Load) => l.code && l.who.crew == s.cur.crew && l.va == va && l.pa == pa) with
    | some l =>
      match l.data with
      | some b => (some b, { s with loads := s.loads.filter (fun (o : Load) => o.id != l.id) }.keepBlock c.core c.fn va b)
      | none => (none, s)
    | none =>
      let (id, s1) := s.newId
      (none, { s1 with loads := s1.loads ++ [{
        id := id, who := ⟨s.cur.crew, s.cur.members.headD 0⟩, space := .peer, va := va, pa := pa, width := 32, count := 1, d := 127
        ty := .b8, form := 2, kind := .pma, acq := .none, nowait := false, data := none, atomic := false, tx := false
        poison := false, cmp := none, sync := true, acc := none, pc := s.cur.pc, grp := 0, tag := s.tagFor true, sent := s.fab
        code := true }] })

/-- The instruction that the bytes of a fetch block give at the group's place. -/
def State.fetched (s : State) (c : Crew) (bytes : List Byte) : Fetched × State :=
  let rest := bytes.drop (s.cur.pc.toNat % 32)
  let i := decodeAt c.rcd.regs rest
  (.instr i, ({ s with cur := { s.cur with next := successor s.cur.pc (fetchLength rest) } } : State).noteYield i)

/-- Fetches the instruction of the current group (R85, R88, R95, R188). Where nothing can be fetched, SKIP goes on after
4 bytes (log 28). A read at home waits for its view, and for a lost unit's stripe (R162, R265). -/
def State.fetch (s0 : State) : Fetched × State :=
  let s := { s0 with cur := { s0.cur with next := successor s0.cur.pc 4 } }
  match s.crew s.cur.crew with
  | none => (.instr (.illegalFetch .illegal), s)
  | some c =>
    let pc := s.cur.pc.toNat
    if pc % 4 ≠ 0 ∨ pc % 32 = 28 then (.instr (.illegalFetch .fetchAlign), s)
    else
      let blk := pc / 32 * 32
      let (t, s1) := s.translate c.cluster c.fn blk .fetch false
      match t with
      | .error e => (.fault e Need.fetch.bits, s1)
      | .ok tg =>
        if tg.peer then
          match s1.fetchPeer c blk tg.pa with
          | (some bytes, s2) => s2.fetched c bytes
          | (none, s2) => (.wait, s2)
        else if s1.homeBusy tg.pa && (s1.blockHeld c.core c.fn blk).isNone then (.wait, s1)
        else if !s1.ownedBy (ownerCode c.fn) tg.pa then (.fault .owner 0, s1)
        else if s1.runBad tg.pa 32 then (.fault .poison 0, s1.meetPoison tg.pa 32)
        else
          let (bytes, s2) := s1.fetchBlock c.core c.fn blk tg.pa
          s2.fetched c bytes

/-- The group waits at its instruction for the bytes of a fetch. -/
def State.groupWaits (s : State) : State := s.cur.members.foldl (fun s tid => s.stay ⟨s.cur.crew, tid⟩) s

/-- Every member of the group takes a fault of the fetch (R94, R95). -/
def State.groupFault (s : State) (c : Cause) (code : Nat) (faddr : Addr) : State :=
  s.cur.members.foldl (fun s tid => s.raiseCode ⟨s.cur.crew, tid⟩ c code faddr) s

/-- A fetch that is not an instruction: every member takes the fault, whatever its guard (R94). -/
def execIllegalFetch (cause : DecodeFault) (s : State) : Host.Outcome State Fault Refusal :=
  .next (s.groupFault (match cause with | .illegal => .illegal | .fetchAlign => .fetchAlign) 0 0)

end Sys2Proof.Machine
end

