-- ==== Sys2Proof/Machine/Cards.lean ====
section
/-!
DEFINITION. Copy-class cards at issue (R241, R242, R244, R246 to R255, R261, R336) and barrier objects (R256,
R257).
-/
namespace Sys2Proof.Machine
open Sys2Proof

/-! ## Barrier objects (R256, R257) -/

/-- A barrier object (Table 14-7). -/
structure BarObj where
  bytes : Word
  expect : BitVec 16
  pend : BitVec 16
  phase : Word
  flags : Word
  deriving DecidableEq, Repr

/-- Reads the object at a local address. -/
def Crew.barGet (c : Crew) (crew a : Nat) : BarObj :=
  let w (o : Nat) : Word := BitVec.ofNat 32 (leValue (c.localBytes crew (a + o) 4))
  { bytes := w 0, expect := (w 4).extractLsb' 16 16, pend := (w 4).extractLsb' 0 16, phase := w 8, flags := w 12 }

/-- The bytes of an object. -/
def BarObj.image (b : BarObj) : List Byte :=
  leBytes 4 b.bytes.toNat ++ leBytes 2 b.pend.toNat ++ leBytes 2 b.expect.toNat ++ leBytes 4 b.phase.toNat ++
    leBytes 4 b.flags.toNat

/-- The check after every update (R256). -/
def BarObj.check (b : BarObj) : BarObj :=
  if b.pend ≠ 0 then b
  else if b.bytes = 0 then { b with phase := b.phase + 1, pend := b.expect }
  else if b.bytes.toInt < 0 then { b with flags := b.flags ||| 1 }
  else b

/-- Changes an object in one indivisible step. -/
def State.barSet (s : State) (crew a : Nat) (f : BarObj → BarObj) : State :=
  s.onCrew crew (fun c => { c with lmem := c.lmem.setList a ((f (c.barGet crew a)).image.map some) })

/-- An engine has landed bytes: they leave BYTES (R256). -/
def State.barLand (s : State) (crew : Nat) (bar : Option Nat) (n : Nat) : State :=
  match bar with
  | none => s
  | some a => s.barSet crew a (fun b => BarObj.check { b with bytes := b.bytes - BitVec.ofNat 32 n })

/-- An abandoned card sets its object's flag (R246). -/
def State.barAbandon (s : State) (crew : Nat) (bar : Option Nat) : State :=
  match bar with
  | none => s
  | some a => s.barSet crew a (fun b => { b with flags := b.flags ||| 2 })

/-- BINIT's object (R257). -/
def BarObj.init (n : Word) : BarObj := { bytes := 0, expect := n.setWidth 16, pend := n.setWidth 16, phase := 0, flags := 0 }

/-- BARR's arrival (R257). -/
def BarObj.arrive (b : BarObj) (n : Word) : BarObj :=
  if b.pend = 0 then { b with flags := b.flags ||| 1 }
  else BarObj.check { b with bytes := b.bytes + n, pend := b.pend - 1 }

/-- Checks the address of a barrier instruction (R257); an object is reached at its bank, whatever the line's
full/empty bit. -/
def State.withObject (s : State) (r : ThreadRef) (a : Nat) (k : State → Crew → State) : State :=
  match s.crew r.crew with
  | none => s
  | some c =>
    if a % 16 ≠ 0 then s.raise r .align (BitVec.ofNat 64 a)
    else if c.localSize < a + 16 then s.raise r .perm (BitVec.ofNat 64 a)
    else if s.acqPending r then s.stay r
    else k s c

/-- BINIT (R257). -/
def execBinit (f : Fields) (s : State) : Result :=
  .next (s.issue (.binit f) f.g (fun s r t =>
    let a := (t.reg f.a).toNat
    let b : Word := (t.srcBi f .z32).setWidth 32
    s.withObject r a (fun s _ =>
      if b = 0 ∨ 65535 < b.toNat then s.raise r .cardBad (BitVec.ofNat 64 a)
      else (s.barSet r.crew a (fun _ => BarObj.init b)).proceed r)))

/-- BARR (R257). -/
def execBarr (f : Fields) (s : State) : Result :=
  .next (s.issue (.barr f) f.g (fun s r t =>
    let a := (t.reg f.a).toNat
    let b : Word := (t.srcBi f .z32).setWidth 32
    let go (s : State) : State := (s.barSet r.crew a (fun o => o.arrive b)).proceed r
    s.withObject r a (fun s _ =>
      if f.sc = .none then go s else s.outsideTx r t (fun s => s.release r go))))

/-- BWAIT (R257). -/
def execBwait (f : Fields) (s : State) : Result :=
  .next (s.issue (.bwait f) f.g (fun s r t =>
    let a := (t.reg f.a).toNat
    let b : Word := (t.srcBi f .z32).setWidth 32
    let go (s : State) (c : Crew) : State :=
      let o := c.barGet r.crew a
      if o.flags &&& 3 ≠ 0 then s.raise r .cardBad (BitVec.ofNat 64 a)
      else if o.phase = b then s.stay r
      else (s.acquire r f.sc).proceed r
    s.withObject r a (fun s c => if f.sc = .none then go s c else s.outsideTx r t (fun s => go s c))))

/-! ## Tensor layout records (R247) -/

/-- A signed field. -/
def fldInt (b : List Byte) (off n : Nat) : Int := (BitVec.ofNat (8 * n) (fld b off n)).toInt

/-- The layout of a record of 256 bytes, unless it breaks a rule of R247. -/
def layoutOf (b : List Byte) : Option Layout :=
  let w := fld b 8 4
  let dims := w % 16
  let esize := w / 2 ^ 4 % 4
  let mode := w / 2 ^ 6 % 4
  let swz := w / 2 ^ 8 % 4
  let size := (List.range 10).map (fun i => fld b (0x10 + 4 * i) 4)
  let stride := (List.range 9).map (fun i => fldInt b (0x38 + 8 * i) 8)
  let box := (List.range 10).map (fun i => fld b (0x80 + 2 * i) 2)
  let l : Layout := {
    base := BitVec.ofNat 64 (fld b 0 8), swz := swz, esize := esize, dims := dims
    fill := leBytes (2 ^ esize) (if mode = 1 then fld b 0x0C 4 else 0), size := size, stride := stride, box := box }
  let inUse (i : Nat) : Bool := decide (i < dims)
  let ok :=
    w / 2 ^ 10 == 0 && decide (1 ≤ dims) && decide (dims ≤ 10) && decide (mode < 2) && fld b 0x94 108 == 0 &&
    (List.range 10).all (fun i =>
      let sz := size.getD i 0
      let bx := box.getD i 0
      if inUse i then decide (1 ≤ sz) && decide (sz ≤ 2 ^ 31) && decide (1 ≤ bx) && decide (bx ≤ 256)
      else sz == 0 && bx == 0) &&
    (List.range 9).all (fun i => let st := stride.getD i 0; st % 16 == 0 && (inUse (i + 1) || st == 0)) &&
    l.base.toNat % 16 == 0 && box.getD 0 0 * 2 ^ esize % 16 == 0 && decide (l.image ≤ 524288) &&
    (swz == 0 || l.image % 128 == 0) && (mode == 1 || fld b 0x0C 4 == 0)
  if ok then some l else none

/-! ## Card records (R242) -/

/-- A card as an instruction hands it over, before its checks. -/
structure CardForm where
  card : Card
  bar : Word
  /-- Declared range words, read and written (Table 14-3). -/
  reads : List Word
  writes : List Word
  /-- A field lies outside Table 14-1 or 14-2. -/
  bad : Bool
  /-- Cores of a multicast, as bits. -/
  mask : Nat
  /-- Layout record of a tensor card. -/
  record : Addr
  deriving DecidableEq, Repr

/-- The card of a record of 128 bytes (Tables 14-1 and 14-2); a TYPE that names no copy-class card has no body. -/
def cardForm (b : List Byte) : CardForm :=
  let ty := fld b 0 1
  let fl := fld b 1 1
  let dir := fl % 4
  let cls := fl / 2 ^ 2 % 4
  let scales := bitOf fl 4
  let foot := bitOf fl 5
  let words (off : Nat) : List Word := (List.range 4).map (fun i => BitVec.ofNat 32 (fld b (off + 4 * i) 4))
  let kind : CardKind := if ty = 2 then .tensor else if ty = 3 then .multicast else if ty = 4 then .collective
    else if ty = 1 then .linear else .mma
  let src := BitVec.ofNat 64 (fld b 8 8)
  let dst := BitVec.ofNat 64 (fld b 0x10 8)
  let n := fld b 0x18 4
  let body : Bool :=
    if ty = 1 then fld b 2 2 == 0 && fld b 0x1C 36 == 0 && decide (16 ≤ n) && decide (n ≤ 2 ^ 30) && !scales &&
      ((dir == 0 || dir == 2) || fld b 0x0C 4 == 0) && ((dir == 1 || dir == 2) || fld b 0x14 4 == 0)
    else if ty = 2 then fld b 2 2 == 0 && decide (dir < 2) && (!scales || dir == 0) && (scales || fld b 0x14 4 == 0)
    else if ty = 3 then fld b 2 2 == 0 && dir == 0 && !scales && decide (16 ≤ n) && decide (n ≤ 2 ^ 30) &&
      fld b 0x10 8 < 2 ^ 19 && fld b 0x1C 1 != 0 && fld b 0x1C 1 < 16 && fld b 0x1D 35 == 0
    else if ty = 4 then dir == 0 && !scales && fld b 2 1 < 2 && fld b 3 1 ≤ 8 &&
      (fld b 2 1 == 1 || fld b 0x1C 4 == 0) && fld b 0x2C 20 == 0
    else false
  { card := { blankCard with
      kind := kind, dir := dir, cls := cls, src := src, dst := dst, bytes := n, laddr := fld b 0x10 4
      sdst := fld b 0x14 4, scales := scales
      coords := (List.range 10).map (fun i => fldInt b (0x18 + 4 * i) 4)
      op := fld b 2 1, thresh := fld b 3 1, count := n, span := fld b 0x1C 4
      result := BitVec.ofNat 64 (fld b 0x20 8), group := fld b 0x28 4 }
    bar := BitVec.ofNat 32 (fld b 4 4), reads := words 0x40, writes := words 0x50
    bad := !(body && decide (fl < 64) && decide (cls < 3) && fld b 0x60 32 == 0 && (foot || fld b 0x40 32 == 0))
    mask := fld b 0x1C 1 % 16, record := src }

/-- A range word breaks Table 14-3. -/
def rangeBad (w : Word) : Bool :=
  let v := w.toNat
  v / 2 ^ 30 == 3 || v / 2 ^ 28 % 4 != 0 || v / 2 ^ 12 % 16 != 0 || (v / 2 ^ 30 == 0 && v != 0)

/-- The range of a range word (Table 14-3). -/
def rangeOf (crew : Nat) (w : Word) : List Range :=
  let v := w.toNat
  if v / 2 ^ 30 = 1 ∨ v / 2 ^ 30 = 2 then
    [{ rows := v / 2 ^ 30 == 2, crew := crew, first := v % 2 ^ 12, count := v / 2 ^ 16 % 2 ^ 12 + 1 }]
  else []

/-- A declared range reaches beyond the crew's lines or rows (R244). -/
def Crew.rangeOut (c : Crew) (g : Range) : Bool :=
  decide ((if g.rows then c.rcd.accRows else c.localSize / 128) < g.first + g.count)

/-! ## Checks (R246) -/

/-- A local run reaches beyond LOCAL. -/
def Crew.out (c : Crew) (a n : Nat) : Bool := decide (c.localSize < a + n)

/-- The barrier object of a form (Table 14-1). -/
def CardForm.barAt (f : CardForm) : Option Nat := if f.bar = 0xFFFFFFFF then none else some f.bar.toNat

/-- The first check: alignment (R246). -/
def CardForm.misaligned (f : CardForm) : Bool :=
  let k := f.card
  (match f.barAt with | some a => a % 16 != 0 | none => false) ||
  match k.kind with
  | .linear | .multicast => k.src.toNat % 16 != 0 || k.dst.toNat % 16 != 0 || k.bytes % 16 != 0
  | .tensor => k.laddr % 128 != 0
  | .collective => k.src.toNat % 64 != 0 || k.dst.toNat % 64 != 0 || k.result.toNat % 8 != 0
  | _ => false

/-- The receiver on core `j` of the cluster: one live crew of the function that holds the destination range and
the barrier object in its reservation (R253). -/
def State.receiver (s : State) (c : Crew) (f : CardForm) (j : Nat) : Option Nat :=
  let holds (x : Crew) (a n : Nat) : Bool := decide (x.lbase ≤ a) && decide (a + n ≤ x.lbase + x.localSize)
  ((s.crewsOn (c.cluster * 4 + j)).find? (fun e =>
    e.2.fn == c.fn && !e.2.ended && holds e.2 f.card.dst.toNat f.card.bytes &&
    match f.barAt with
    | some a => holds e.2 a 16
    | none => true)).map (·.1)

/-- The receivers of a multicast, none for an unsuitable one. -/
def State.receiversOf (s : State) (c : Crew) (f : CardForm) : List (Option Nat) :=
  ((List.range 4).filter (bitOf f.mask)).map (s.receiver c f)

/-- The second check: ranges beyond LOCAL, and multicast receivers (R246). -/
def State.formOut (s : State) (self : Nat) (c : Crew) (f : CardForm) : Bool :=
  let k := f.card
  let low (d : DWord) : Nat := d.toNat % 2 ^ 32
  (f.reads ++ f.writes).any (fun w => (rangeOf self w).any c.rangeOut) ||
  match k.kind with
  | .multicast => (s.receiversOf c f).any (·.isNone)
  | kd =>
    (match f.barAt with | some a => c.out a 16 | none => false) ||
    (kd == .linear && (((k.dir == 1 || k.dir == 3) && c.out (low k.src) k.bytes) ||
      ((k.dir == 0 || k.dir == 3) && c.out (low k.dst) k.bytes)))

/-- The third check: CARDBAD (R241, R246). -/
def CardForm.refused (f : CardForm) (c : Crew) : Bool :=
  f.bad || (f.reads ++ f.writes).any rangeBad || c.rcd.copies == 0

/-- The checks that need the layout record (R246, R247, R249): PERM, then CARDBAD. -/
def tensorFault (c : Crew) (k : Card) : Option Cause :=
  let n := k.layout.image
  let scaleBytes := n / 2 ^ k.layout.esize / 32
  if c.out k.laddr n || (k.scales && c.out k.sdst scaleBytes) then some .perm
  else if (k.coords.drop k.layout.dims).any (· != 0) ||
      (k.scales && (k.layout.esize != 0 || k.layout.box.getD 0 0 % 32 != 0 || k.coords.getD 0 0 % 32 != 0 ||
        overlaps k.laddr n k.sdst scaleBytes)) then some .cardBad
  else none

/-! ## Acceptance -/

/-- Lines of the receivers on the issuing core (R244). -/
def State.castRanges (s : State) (core : Nat) (k : Card) : List Range :=
  k.receivers.flatMap (fun q =>
    match s.crew q with
    | some c => if c.core = core then lineRange q (k.dst.toNat - k.bases.get q) k.bytes else []
    | none => [])

/-- The derived footprint (R244). -/
def State.footprint (s : State) (self core : Nat) (k : Card) : List Range × List Range :=
  match k.kind with
  | .linear =>
    (if k.dir = 1 ∨ k.dir = 3 then lineRange self k.src.toNat k.bytes else [],
     if k.dir = 0 ∨ k.dir = 3 then lineRange self k.dst.toNat k.bytes else [])
  | .tensor =>
    (if k.dir = 1 then lineRange self k.laddr k.layout.image else [],
     if k.dir = 0 then lineRange self k.laddr k.layout.image ++
       (if k.scales then lineRange self k.sdst (k.layout.image / 32) else []) else [])
  | .multicast => ([], s.castRanges core k)
  | _ => ([], [])

/-- A card whose writes go to global memory (R245). -/
def Card.global (k : Card) : Bool :=
  match k.kind with
  | .linear => k.dir == 1 || k.dir == 2
  | .tensor => k.dir == 1
  | .collective => true
  | _ => false

/-- Accepts a form that has passed its checks: an entry, then a ring slot, for which a thread is held (R241; Table 7-1 names it under
Waiting too, log 121). The issuing thread counts a global card's stores from here on (R245). -/
def State.takeCard (s : State) (r : ThreadRef) (t : Thread) (c : Crew) (f : CardForm) (k0 : Card) : State :=
  if c.rcd.copies ≤ s.copyCards r.crew ∨ s.acqPending r then s.stay r
  else if Config.ringSlots ≤ (s.ring c.core).length then s.heldAt r
  else
    let (id, s1) := s.newId
    let rs := if k0.kind = .multicast then (s.receiversOf c f).filterMap (·) else []
    let k1 := { k0 with
      id := id, core := c.core, who := r, fn := c.fn, pc := t.pc, bar := f.barAt, receivers := rs
      bases := rs.foldl (fun m q => m.set q (((s.crew q).map (·.lbase)).getD 0)) [] }
    let (rd, wr) := s.footprint r.crew c.core k1
    let k := { k1 with
      reads := rd ++ f.reads.flatMap (rangeOf r.crew), writes := wr ++ f.writes.flatMap (rangeOf r.crew) }
    let s2 := if k.global then s1.onThread r (fun t => { t with unack := t.unack + 1 }) else s1
    ((s2.accept k).endSync r).proceed r

/-- The first three checks of R246, then `k`. -/
def State.withForm (s : State) (r : ThreadRef) (f : CardForm) (k : State → Crew → State) : State :=
  match s.crew r.crew with
  | none => s
  | some c =>
    if f.misaligned then s.raise r .align
    else if s.formOut r.crew c f then s.raise r .perm
    else match s.thread r with
      | none => s
      | some t =>
        if t.tx.state = .transactional then s.abortTx r 9 0 0
        else if f.refused c then s.raise r .cardBad
        else k s c

/-- Reads `n` runs of 64 bytes of a descriptor for which the thread waits (R197, R390). -/
def State.withBlocks (s : State) (r : ThreadRef) (t : Thread) : Nat → Addr → List Byte → (State → List Byte → State) → State
  | 0, _, acc, k => k s acc
  | n + 1, va, acc, k =>
    s.withBytes r t va 64 (fun _ _ k => k) (fun s bs => s.withBlocks r t n (va + 64) (acc ++ bs) k)

/-- The `n` runs of 64 bytes that `withBlocks` would read, where none faults or waits. -/
def State.blocksNow (s : State) (r : ThreadRef) (t : Thread) : Nat → Addr → Option (List Byte)
  | 0, _ => some []
  | n + 1, va =>
    match s.bytesNow r t va 64 with
    | none => none
    | some (bs, s1) => (s1.blocksNow r t n (va + 64)).map (bs ++ ·)

/-- DIMS of the layout record at an address, where it can be read at once: how many coordinate registers CPYT names. -/
def State.dimsNow (s : State) (r : ThreadRef) (t : Thread) (va : Addr) : Option Nat :=
  ((s.blocksNow r t 4 va).bind layoutOf).map (·.dims)

/-- The coordinates of a tensor card: those of its record, or registers from C up (R252). -/
inductive Coords where
  | record
  | regs (first : Nat) (trap : Bool)

/-- Issue of a tensor card (R246, R247, R249, R252). -/
def State.issueTensor (s : State) (r : ThreadRef) (t : Thread) (f : CardForm) (cs : Coords) : State :=
  s.withForm r f (fun s c =>
    s.withBlocks r t 4 f.record [] (fun s bs =>
      match layoutOf bs with
      | none => (s.endSync r).raise r .layoutBad f.record
      | some l =>
        let finish (coords : List Int) : State :=
          let k := { f.card with layout := l, coords := coords }
          match tensorFault c k with
          | some e => (s.endSync r).raise r e
          | none => s.takeCard r t c f k
        match cs with
        | .record => finish f.card.coords
        | .regs first trap =>
          let rs := (List.range l.dims).map (first + ·)
          if c.rcd.regs < first + l.dims then (s.endSync r).raise r .illegal
          else if !t.full rs then (if trap then (s.endSync r).raise r .emptyReg else s.stay r)
          else finish (rs.map (fun i => (t.regs.get i).toInt))))

/-- Issue of a form of any type but collective. -/
def State.issueForm (s : State) (r : ThreadRef) (t : Thread) (f : CardForm) : State :=
  if f.card.kind = .tensor then s.issueTensor r t f .record
  else s.withForm r f (fun s c => s.takeCard r t c f f.card)

/-! ## Instructions -/

/-- A form without declared ranges. -/
def plainForm (k : Card) (bar : Word) : CardForm :=
  { card := k, bar := bar, reads := [], writes := [], bad := decide (2 < k.cls), mask := 0, record := 0 }

/-- The low and high words of a 128-bit instruction's extension (Table 14-6). -/
def extLow (f : Fields) : Word :=
  match f.ext with
  | .imm64 v => v.extractLsb' 0 32
  | .imm32 v => v
  | .none => 0
def extHigh (f : Fields) : Word :=
  match f.ext with
  | .imm64 v => v.extractLsb' 32 32
  | _ => 0

/-- A member's coordinate registers reach REGS: the instruction is ILLEGAL (R94, R252). -/
def State.cpytIllegal (s : State) (f : Fields) (tid : Nat) : Bool :=
  let r : ThreadRef := ⟨s.cur.crew, tid⟩
  match s.thread r, s.crew r.crew with
  | some t, some c => t.ready f.g (usesOf (.cpyt f)) == .go &&
    match s.dimsNow r t (t.pair f.a) with
    | some n => decide (c.rcd.regs < f.c.toNat + n)
    | none => false
  | _, _ => false

/-- The coordinate registers of a CPYT, as far as DIMS can be read, that are empty (R89, R95). -/
def State.cpytEmpty (s : State) (r : ThreadRef) (t : Thread) (f : Fields) : Bool :=
  match s.dimsNow r t (t.pair f.a) with
  | some n => !t.full ((List.range n).map (f.c.toNat + ·))
  | none => false

/-- CPYT (R252). The registers of its coordinates are tested before its other faults (R94, R95) wherever DIMS can be read; else
as its layout record is read (log 25). -/
def execCpyt (f : Fields) (s : State) : Result :=
  if s.cur.members.any (s.cpytIllegal f) then
    .next ((s.cur.members.foldl (fun s tid => s.endSync ⟨s.cur.crew, tid⟩) s).groupFault .illegal 0 0)
  else .next (s.issueOrdered (.cpyt f) f.g (fun s r t =>
    let k : Card := { blankCard with
      kind := .tensor, dir := (f.fn.extractLsb' 0 1).toNat, cls := (f.fn.extractLsb' 2 2).toNat
      scales := f.x.getLsbD 0, laddr := (t.reg f.b).toNat, sdst := if f.x.getLsbD 0 then (extHigh f).toNat else 0 }
    if s.cpytEmpty r t f then
      if f.ew.getLsbD 2 then (s.endSync r).raise r .emptyReg else s.stay r
    else s.issueTensor r t { plainForm k (extLow f) with record := t.pair f.a } (.regs f.c.toNat (f.ew.getLsbD 2))))

/-- CPYL (R253): a count of 0 accepts nothing (R246); as any card issue it aborts a transaction (Table 17-4). -/
def execCpyl (f : Fields) (s : State) : Result :=
  .next (s.issueOrdered (.cpyl f) f.g (fun s r t =>
    let dir := (f.fn.extractLsb' 0 2).toNat
    let n := (t.reg f.c).toNat
    let one (i : BitVec 7) : DWord := (t.reg i).setWidth 64
    let (src, dst) :=
      if dir = 0 then (t.pair f.a, one f.b)
      else if dir = 1 then (one f.b, t.pair f.a)
      else if dir = 2 then (t.pair f.b, t.pair f.a)
      else (one f.b, one f.a)
    if n = 0 then s.outsideTx r t (·.proceed r)
    else
      let k : Card := { blankCard with
        kind := .linear, dir := dir, cls := (f.fn.extractLsb' 2 2).toNat, src := src, dst := dst, bytes := n }
      let g := plainForm k (extLow f)
      s.issueForm r t { g with bad := g.bad || decide (2 ^ 30 < n) }))

/-- CPYM (R253). -/
def execCpym (f : Fields) (s : State) : Result :=
  .next (s.issueOrdered (.cpym f) f.g (fun s r t =>
    let n := (t.reg f.c).toNat
    if n = 0 then s.outsideTx r t (·.proceed r)
    else
      let k : Card := { blankCard with
        kind := .multicast, cls := (f.fn.extractLsb' 4 2).toNat, src := t.pair f.a, dst := (t.reg f.b).setWidth 64
        bytes := n }
      let g := plainForm k (extLow f)
      s.issueForm r t { g with
        mask := (f.fn.extractLsb' 0 4).toNat, bad := g.bad || decide (2 ^ 30 < n) || decide (2 ^ 19 ≤ k.dst.toNat) }))

/-- Reads a card record with LDS semantics (R254, R261). -/
def State.withRecord (s : State) (r : ThreadRef) (a : Nat) (k : State → Crew → List Byte → State) : State :=
  s.withLocal r a 128 128 false (fun s c => k s c (c.localBytes r.crew a 128))

/-- KICK (R254). -/
def execKick (f : Fields) (s : State) : Result :=
  .next (s.issueOrdered (.kick f) f.g (fun s r t =>
    s.withRecord r (t.reg f.a).toNat (fun s _ b =>
      let g := cardForm b
      s.issueForm r t { g with bad := g.bad || g.card.kind == .collective })))

/-- The entry of a collective group (R336): CARDBAD, LAYOUTBAD, or the ranks of its members. -/
def State.groupEntry (s : State) (fn g : Nat) : Except Cause (List Nat) :=
  if s.field (.cgbase fn) 0 10 ≤ g then .error .cardBad
  else
    let pa := s.field (.cgbase fn) 10 42 * 1024 + 1024 * g
    if s.runBad pa 1024 then .error .poison
    else
      let b := s.bytesAt pa 1024
      let n := fld b 0 2
      let ranks := (List.range n).map (fun i => fld b (0x40 + 2 * i) 2)
      let rising := (List.range (n - 1)).all (fun i => decide (ranks.getD i 0 < ranks.getD (i + 1) 0))
      let mine := match s.rank with | some r => ranks.contains r | none => false
      if decide (1 ≤ n) && decide (n ≤ 320) && fld b 2 62 == 0 && rising && mine &&
          fld b (0x40 + 2 * n) (1024 - (0x40 + 2 * n)) == 0 then .ok ranks
      else .error .layoutBad

/-- Issue of a collective card: each card of a function and group takes the next instance (R337). -/
def State.issueColl (s : State) (r : ThreadRef) (t : Thread) (f : Fields) (g : CardForm) : State :=
  s.withForm r { g with bad := g.bad || g.card.kind != .collective } (fun s c =>
    match s.groupEntry c.fn g.card.group with
    | .error e => s.raise r e
    | .ok ranks =>
      let inst := (s.func c.fn).collCount.get g.card.group
      let s1 := s.takeCard r t c g { g.card with ranks := ranks, inst := inst, scope := f.sc }
      if s1.nextId = s.nextId then s1
      else s1.onFunc c.fn (fun q => { q with collCount := q.collCount.set g.card.group (inst + 1) }))

/-- COLL (R261): a release at SC goes first. -/
def execColl (f : Fields) (s : State) : Result :=
  .next (s.issueOrdered (.coll f) f.g (fun s r t =>
    s.withRecord r (t.reg f.a).toNat (fun s _ _ =>
      s.outsideTx r t (fun s => s.release r (fun s =>
        s.withRecord r (t.reg f.a).toNat (fun s _ b => s.issueColl r t f (cardForm b)))))))

/-- CWAIT (R255). -/
def execCwait (f : Fields) (s : State) : Result :=
  .next (s.issue (.cwait f) f.g (fun s r t =>
    let n := (t.srcAi f .z32).toNat
    let go (s : State) : State :=
      match s.crew r.crew with
      | none => s
      | some c =>
        if c.rcd.copies ≤ n ∨ s.copyCards r.crew ≤ n then (s.acquire r f.sc).proceed r else s.stay r
    if f.sc = .none then go s else s.outsideTx r t go))

end Sys2Proof.Machine
end

