-- ==== Sys2Proof/Machine/Collective.lean ====
section
/-!
DEFINITION. Band and crew collectives: the rendezvous and what its completion does (R111 to R116, R132 to R136).
-/
namespace Sys2Proof.Machine
open Sys2Proof

/-- An active participant: its lane, its thread index and its thread. -/
structure Part where
  lane : Nat
  tid : Nat
  thread : Thread
  deriving DecidableEq, Repr

/-- A bit for each lane of a list (Table 8-5). -/
def laneMask (ls : List Nat) : Word := ls.foldl (fun m l => m ||| BitVec.ofNat 32 (2 ^ l)) 0

/-- A predicate source named in A[2:0], negated by A[3] (R132). -/
def Thread.predA (t : Thread) (f : Fields) : Bool := t.pred (f.a.extractLsb' 0 3) != f.a.getLsbD 3

/-- VOTE (Table 8-5). -/
def voteEffect (f : Fields) (ps : List Part) (t : Thread) : Thread :=
  let vs := ps.map (fun p => p.thread.predA f)
  let put (b : Bool) : Thread := t.setPred (f.d.extractLsb' 0 3) b
  if f.fn = 0 then put (vs.all id)
  else if f.fn = 1 then put (vs.any id)
  else if f.fn = 2 then put (vs.all id || !vs.any id)
  else t.setReg f.d (laneMask ((ps.filter (fun p => p.thread.predA f)).map (·.lane)))

/-- SHFL: the source lane that a lane selects, and whether it lies in the segment (R134). -/
def shflSource (f : Fields) (lane : Nat) (b : Word) : Nat × Bool :=
  let seg := 32 / 2 ^ (f.fn.extractLsb' 2 3).toNat
  let m := lane % seg
  let base := lane - m
  let mode := f.fn.extractLsb' 0 2
  if mode = 0 then (base + b.toNat % seg, true)
  else if mode = 1 then
    let j := (m : Int) + b.toInt
    if 0 ≤ j ∧ j < seg then (base + j.toNat, true) else (lane, false)
  else if mode = 2 then (base + (m + b.toNat) % seg, true)
  else (base + Nat.xor m (b.toNat % seg), true)
/-- SHFL's result in a lane: its own value where the source lane holds no active participant (R134). -/
def shflEffect (f : Fields) (ps : List Part) (t : Thread) : Thread :=
  let (src, ok) := shflSource f (laneOf t.pos) ((t.srcBi f .b32).setWidth 32)
  match ps.find? (fun p => ok && p.lane == src) with
  | some p => t.putRaw f.d f.ty.is64 (p.thread.srcA f)
  | none => t.putRaw f.d f.ty.is64 (t.srcA f)

/-- MATCH (Table 8-5). -/
def matchEffect (f : Fields) (ps : List Part) (t : Thread) : Thread :=
  let own := t.srcA f
  if f.fn = 0 then t.setReg f.d (laneMask ((ps.filter (fun p => p.thread.srcA f == own)).map (·.lane)))
  else t.setReg f.d (if ps.all (fun p => p.thread.srcA f == own) then laneMask (ps.map (·.lane)) else 0)

/-- ELECT: true in the lowest active lane (Table 8-5). -/
def electEffect (f : Fields) (ps : List Part) (t : Thread) : Thread :=
  t.setPred (f.d.extractLsb' 0 3) (ps.all (fun p => decide (laneOf t.pos ≤ p.lane)))

/-- The identity of a reduction (R133). -/
def redIdentity (op : Nat) (ty : Ty) : DWord :=
  if op = 1 then BitVec.ofInt 64 (tyMax ty)
  else if op = 2 then BitVec.ofInt 64 (tyMin ty)
  else if op = 3 then BitVec.ofNat 64 (2 ^ tyWidth ty - 1)
  else 0
/-- One step of a reduction by TY (R133). -/
def redStep (op : Nat) (ty : Ty) (a b : DWord) : DWord :=
  if op = 0 then a + b
  else if op = 1 then if tyInt ty b < tyInt ty a then b else a
  else if op = 2 then if tyInt ty a < tyInt ty b then b else a
  else if op = 3 then a &&& b
  else if op = 4 then a ||| b
  else a ^^^ b
/-- The reduction of a list of values (R133). -/
def reduce (op : Nat) (ty : Ty) (xs : List DWord) : DWord := xs.foldl (redStep op ty) (redIdentity op ty)

/-- BRED (Table 8-5). -/
def bredEffect (f : Fields) (ps : List Part) (t : Thread) : Thread :=
  t.putRaw f.d f.ty.is64 (reduce f.fn.toNat f.ty (ps.map (fun p => p.thread.srcA f)))
/-- BSCAN: the lanes at or below its own, strictly below under `.excl` (Table 8-5). -/
def bscanEffect (f : Fields) (ps : List Part) (t : Thread) : Thread :=
  let l := laneOf t.pos
  let below := ps.filter (fun p => if f.fn.getLsbD 3 then decide (p.lane < l) else decide (p.lane ≤ l))
  t.putRaw f.d f.ty.is64 (reduce (f.fn.toNat % 8) f.ty (below.map (fun p => p.thread.srcA f)))

/-- One level of the tree of R135: absent values pass the other. -/
def pairUp {α : Type} (op : α → α → α) : List (Option α) → List (Option α)
  | a :: b :: t =>
    (match a, b with
      | some x, some y => some (op x y)
      | some x, none => some x
      | none, y => y) :: pairUp op t
  | l => l
/-- FBRED: the fixed tree over 32 lanes (R135). -/
def fbredEffect (f : Fields) (ps : List Part) (t : Thread) : Thread :=
  let op (x y : Nat) : Nat :=
    if f.fn = 0 then Fp.add single f.rm (single.decode x) (single.decode y)
    else minMax single (f.fn == 2) false x y
  let v := (List.range 32).map (fun l => (ps.find? (fun p => p.lane == l)).map (fun p => (p.thread.reg f.a).toNat))
  let r := pairUp op (pairUp op (pairUp op (pairUp op (pairUp op v))))
  t.setReg f.d (numWord ((r.headD none).getD 0))

/-- BARC `.count` (Table 8-5). -/
def barcEffect (f : Fields) (ps : List Part) (t : Thread) : Thread :=
  if f.fn = 1 then t.setReg f.d (BitVec.ofNat 32 ((ps.filter (fun p => p.thread.predA f)).length)) else t

/-- What a completed collective does to an active participant. -/
def collEffect (i : Instr) (ps : List Part) (t : Thread) : Thread :=
  match i with
  | .vote f => voteEffect f ps t
  | .shfl f => shflEffect f ps t
  | .matchLanes f => matchEffect f ps t
  | .elect f => electEffect f ps t
  | .bred f => bredEffect f ps t
  | .bscan f => bscanEffect f ps t
  | .fbred f => fbredEffect f ps t
  | .barc f => barcEffect f ps t
  | _ => t

/-- The collective at which a thread waits, and whether it is active. -/
def atRendezvous (t : Thread) : Option (Instr × Bool) :=
  match t.status with
  | .rendezvous i a => some (i, a)
  | _ => none

/-- A live thread that waits at a band, or a crew, collective. -/
def atColl (crewWide : Bool) (t : Thread) : Bool :=
  match atRendezvous t with
  | some (i, _) => isCrewColl i == crewWide
  | none => false

/-- All threads of a list stand at one address. -/
def oneAddress (ts : List (Nat × Thread)) : Bool :=
  match ts with
  | [] => true
  | t :: _ => ts.all (fun u => u.2.pc == t.2.pc)

/-- The active participants of a list of threads. -/
def activeParts (ts : List (Nat × Thread)) : List Part :=
  (ts.filter (fun t => match atRendezvous t.2 with | some (_, a) => a | none => false)).map
    (fun t => ⟨laneOf t.2.pos, t.1, t.2⟩)

/-- A participant resumes at its successor, with the collective's effect if it is active (R111, R112). -/
def resumeFrom (ps : List Part) (t : Thread) : Thread :=
  match atRendezvous t with
  | some (i, a) => (if a then collEffect i ps t else t).advance (successor t.pc i.bytes)
  | none => t

/-- Replaces threads of a crew by a function of each. -/
def Crew.onThreads (c : Crew) (tids : List Nat) (f : Thread → Thread) : Crew :=
  c.mapThreads (fun tid t => if tids.contains tid then f t else t)

/-- Key of a thread at MELD: `a` for an active participant, 0 otherwise (R116). -/
def meldKey (t : Thread) : Nat :=
  match t.status with
  | .rendezvous (.meld f) true => (t.reg f.a).toNat
  | _ => 0

/-- MELD re-forms the bands: the live threads take positions 0 to n − 1 by key, stably (R116). -/
def meldOrder (ts : List (Nat × Thread)) : List Nat :=
  (sortBy (fun t => meldKey t.2) (sortBy (fun t => t.2.pos) ts)).map (·.1)

/-- Gives a thread its new position; an active participant receives the value of %band (R104, R136). -/
def meldThread (order : List Nat) (tid : Nat) (t : Thread) : Thread :=
  match order.idxOf? tid with
  | none => t
  | some p =>
    let t1 := { t with pos := p }
    match t.status with
    | .rendezvous (.meld f) true => t1.setReg f.d (BitVec.ofNat 32 (laneOf p + 32 * bandOf p))
    | _ => t1

/-- Clears the first-arrival time of a rendezvous. -/
def Crew.clearRend (c : Crew) (k : Nat) : Crew := { c with rend := c.rend.set k none }

/-- The lowest-positioned waiting thread, which a BANDWAIT save reports (R114). -/
def lowestWaiting (c : Crew) : Option (Nat × Thread) :=
  (sortBy (fun t : Nat × Thread => t.2.pos) (c.threadList.filter (fun t => (atRendezvous t.2).isSome))).head?

/-- The crew faults BANDWAIT (R114). -/
def State.bandWait (s : State) (c : Nat) : State :=
  match s.crew c with
  | none => s
  | some cr =>
    match lowestWaiting cr with
    | some (tid, t) => s.raiseCrew c .bandWait (some tid) t.pc
    | none => s

/-- Completes or faults the rendezvous of one band (R111, R114). -/
def State.settleBand (s : State) (c b : Nat) : State :=
  match s.crew c with
  | none => s
  | some cr =>
    let live := cr.liveThreads.filter (fun t => bandOf t.2.pos == b)
    if live.isEmpty || !live.all (fun t => (atRendezvous t.2).isSome) then s
    else if live.all (fun t => atColl false t.2) && oneAddress live then
      let ps := activeParts live
      s.putCrew c ((cr.onThreads (live.map (·.1)) (resumeFrom ps)).clearRend b)
    else if live.all (fun t => atColl true t.2) && oneAddress live then s
    else s.bandWait c

/-- Completes or faults the rendezvous of the crew (R111, R114, R116). -/
def State.settleCrew (s : State) (c : Nat) : State :=
  match s.crew c with
  | none => s
  | some cr =>
    let live := cr.liveThreads
    if live.isEmpty || !live.all (fun t => atColl true t.2) then s
    else if oneAddress live then
      let isMeld := live.any (fun t => match t.2.status with | .rendezvous (.meld _) _ => true | _ => false)
      let order := meldOrder live
      let ps := activeParts live
      let c1 := if isMeld then cr.mapThreads (meldThread order) else cr
      s.putCrew c ((c1.onThreads (live.map (·.1)) (resumeFrom ps)).clearRend 32)
    else s.bandWait c

/-- Looks at every rendezvous of a crew (R111, R113, R114). -/
def State.settle (s : State) (c : Nat) : State :=
  ((List.range 32).foldl (fun s b => s.settleBand c b) s).settleCrew c

/-- A thread arrives at a collective; the first arrival of a rendezvous starts its time (R111, R114). -/
def State.arriveAt (s : State) (r : ThreadRef) (i : Instr) (active : Bool) : State :=
  match s.thread r with
  | none => s
  | some t =>
    let k := if isCrewColl i then 32 else bandOf t.pos
    (s.putThread r { t with status := .rendezvous i active, age := 0 }).onCrew r.crew (fun c =>
      if (c.rend.get k).isSome then c else { c with rend := c.rend.set k (some s.fab) })

/-- One member of a group at a collective (R112, R136): a false guard still arrives; `.ar` releases first. -/
def State.arriveMember (s : State) (i : Instr) (f : Fields) (ordered : Bool) (tid : Nat) : State :=
  let r : ThreadRef := ⟨s.cur.crew, tid⟩
  match s.thread r with
  | none => s
  | some t =>
    match t.ready f.g (usesOf i) with
    | .off => s.arriveAt r i false
    | .wait => s.putThread r t.wait
    | .trap => s.raise r .emptyReg
    | .go =>
      if ordered then
        if t.tx.state = .transactional then s.abortTx r 9 0 0
        else s.release r (fun s => s.arriveAt r i true)
      else s.arriveAt r i true

/-- The members of a group arrive; then whatever is complete takes effect (R111). -/
def State.arrive (s : State) (i : Instr) (f : Fields) (ordered : Bool) : State :=
  (s.cur.members.foldl (fun s tid => s.arriveMember i f ordered tid) s).settle s.cur.crew

def execVote (f : Fields) (s : State) : Result := .next (s.arrive (.vote f) f false)
def execShfl (f : Fields) (s : State) : Result := .next (s.arrive (.shfl f) f false)
def execMatchLanes (f : Fields) (s : State) : Result := .next (s.arrive (.matchLanes f) f false)
def execElect (f : Fields) (s : State) : Result := .next (s.arrive (.elect f) f false)
def execBred (f : Fields) (s : State) : Result := .next (s.arrive (.bred f) f false)
def execBscan (f : Fields) (s : State) : Result := .next (s.arrive (.bscan f) f false)
def execFbred (f : Fields) (s : State) : Result := .next (s.arrive (.fbred f) f false)
def execMeld (f : Fields) (s : State) : Result := .next (s.arrive (.meld f) f false)
def execBarc (f : Fields) (s : State) : Result := .next (s.arrive (.barc f) f (f.sc != .none))

/-- A rendezvous of the crew has stood for 2^20 resident cycles (R114). -/
def State.rendezvousLate (s : State) (c : Crew) : Bool :=
  c.rend.any (fun e => match e.2 with
    | some t => decide (t + 2 ^ 20 * Config.fabPerCycle ≤ s.fab)
    | none => false)

/-- A resident crew with a rendezvous past its time faults BANDWAIT (R114). -/
def State.lateBand (s : State) (crew : Nat) : State :=
  match s.crew crew with
  | some c => if c.loc.isSome && c.save.isNone && s.rendezvousLate c then s.bandWait crew else s
  | none => s

/-- As time goes on, every crew with a rendezvous past its time faults at once (R110, R114). -/
def State.lateBands (s : State) : State := (s.crewList.map (·.1)).foldl State.lateBand s

/-- BANDWAIT_TIMEOUT (R114). -/
def execBandwaitTimeout (crew : Nat) (s : State) : Result := .next (s.lateBand crew)

end Sys2Proof.Machine
end

