-- ==== Sys2Proof/Machine/Merge.lean ====
section
/-!
DEFINITION. What a collective gives (R337 to R341): the tree, the sparse merge, the bytes at DST and the status
word.
-/
namespace Sys2Proof.Machine
open Sys2Proof

/-- The sum of two binary32 words (R338). -/
def addWord (a b : Word) : Word := BitVec.ofNat 32 (Fp.add single 0 (single.decode a.toNat) (single.decode b.toNat))

/-- The fixed tree over member indices: at most nine levels join 320 members (R338). -/
def treeOf {α : Type} (comb : α → α → α) (vs : List (Option α)) : Option α :=
  (((List.range 9).foldl (fun v _ => pairUp comb v) vs).headD none)

/-- A block of a sparse stream (R339). -/
inductive Block where
  | sparse (ps : List (Nat × Word))
  | dense (ws : List Word)
  deriving DecidableEq, Repr

/-- The values of a block: +0 where no pair stands (R339). -/
def Block.values (b : Nat) : Block → List Word
  | .dense ws => ws
  | .sparse ps => (List.range 4096).map (fun i => ((ps.find? (fun p => p.1 == 4096 * b + i)).map (·.2)).getD 0)

/-- Merges two ascending streams (R339). -/
def mergePairs : Nat → List (Nat × Word) → List (Nat × Word) → List (Nat × Word)
  | 0, xs, ys => xs ++ ys
  | _ + 1, [], ys => ys
  | _ + 1, xs, [] => xs
  | n + 1, x :: xs, y :: ys =>
    if x.1 < y.1 then x :: mergePairs n xs (y :: ys)
    else if y.1 < x.1 then y :: mergePairs n (x :: xs) ys
    else (x.1, addWord x.2 y.2) :: mergePairs n xs ys

/-- A block of more pairs than the limit goes dense (R339). -/
def Block.settle (b limit : Nat) (ps : List (Nat × Word)) : Block :=
  if limit < ps.length then .dense (Block.values b (.sparse ps)) else .sparse ps

/-- The combination of two blocks (R339). -/
def combBlock (b limit : Nat) : Block → Block → Block
  | .sparse xs, .sparse ys => Block.settle b limit (mergePairs (xs.length + ys.length) xs ys)
  | x, y => .dense (List.zipWith addWord (x.values b) (y.values b))

/-- The most pairs of a sparse block: THRESH sixteenths of 4,096, 6 where it is 0 (R242, R339). -/
def sparseLimit (thresh : Nat) : Nat := (if thresh = 0 then 6 else thresh) * 256

/-- Strictly ascending indices (R339). -/
def ascending : List (Nat × Word) → Bool
  | a :: b :: t => decide (a.1 < b.1) && ascending (b :: t)
  | _ => true

/-- A member's own block, after its own test (R339). -/
def ownBlock (c : Contribution) (b : Nat) : Block :=
  Block.settle b (sparseLimit c.thresh) (c.pairs.filter (fun p => decide (p.1 < c.span) && p.1 / 4096 == b))

/-- Pairs at or above SPAN (R339). -/
def droppedPairs (c : Contribution) : Nat := (c.pairs.filter (fun p => decide (c.span ≤ p.1))).length

/-- The values that all members of an instance must share (R337). -/
def agrees (a b : Contribution) : Bool :=
  a.op == b.op && a.span == b.span && a.thresh == b.thresh && (a.op == 1 || a.count == b.count) && a.ranks == b.ranks

/-- Blocks of a sparse result (R337). -/
def blockCount (span : Nat) : Nat := (span + 4095) / 4096

/-- The block of a result (R338, R339). -/
def resultBlock (cs : List Contribution) (limit b : Nat) : Block :=
  (treeOf (combBlock b limit) (cs.map (fun c => some (ownBlock c b)))).getD (.sparse [])

/-- The slot of a block, indeterminate after its pairs (R340). -/
def Block.slot : Block → List (Option Byte)
  | .dense ws => (wordBytes ws).map some
  | .sparse ps =>
    let bs := ps.flatMap (fun p => leBytes 4 p.1 ++ leBytes 4 p.2.toNat)
    bs.map some ++ List.replicate (16384 - bs.length) none

/-- The directory word of a block (R340). -/
def Block.entry : Block → Nat
  | .dense _ => 2 ^ 31
  | .sparse ps => ps.length

/-- Bytes at DST (R337). -/
def dstSize (op count span : Nat) : Nat := if op = 0 then 4 * count else 16388 * blockCount span

/-- The bytes that a finished instance leaves at DST (R337, R340). -/
def resultBytes (k : Card) (cs : List Contribution) : List (Option Byte) :=
  if k.op = 0 then
    (wordBytes ((treeOf (List.zipWith addWord) (cs.map (fun c => some c.dense))).getD [])).map some
  else
    let bs := (List.range (blockCount k.span)).map (resultBlock cs (sparseLimit k.thresh))
    bs.flatMap Block.slot ++ (bs.flatMap (fun b => leBytes 4 b.entry)).map some

/-- The status code of an instance, once it is known (R337, R339, R341). -/
def CollInst.code (i : CollInst) (ranks : List Nat) : Option Nat :=
  let got := (List.range ranks.length).filterMap (fun m => i.shares.get m)
  let differs := match got with
    | [] => false
    | c :: _ => got.any (fun d => !agrees c d) || c.ranks != ranks
  if differs then some 2
  else if i.late then some 3
  else if got.length < ranks.length then none
  else if got.any (fun c => c.op == 1 && !ascending c.pairs) then some 1
  else some 0

/-- The contributions of an instance by member index. -/
def CollInst.all (i : CollInst) (ranks : List Nat) : List Contribution :=
  (List.range ranks.length).filterMap (fun m => i.shares.get m)

/-- Pairs dropped by every member, saturating (R341); of an instance that no full set of members joined what the others
dropped is not known here (log 2). -/
def CollInst.drops (i : CollInst) (ranks : List Nat) (code : Nat) (fresh : Nat) : Nat :=
  if code < 2 ∨ (i.all ranks).length = ranks.length then min (2 ^ 32 - 1) (((i.all ranks).map droppedPairs).foldl (· + ·) 0)
  else (Config.freeWord fresh).toNat % 2 ^ 32

/-- The status word (R341). -/
def statusWord (code drops : Nat) : DWord := BitVec.ofNat 64 (code + 2 ^ 16 * drops)

/-- The instance of a collective card. -/
def State.instOf (s : State) (fn group inst : Nat) : Option CollInst :=
  s.insts.find? (fun i => i.fn == fn && i.group == group && i.inst == inst)

/-- Changes an instance, which is there from the first word of it on. -/
def State.onInst (s : State) (fn group inst : Nat) (f : CollInst → CollInst) : State :=
  match s.instOf fn group inst with
  | some _ => { s with insts := s.insts.map (fun i => if i.fn = fn ∧ i.group = group ∧ i.inst = inst then f i else i) }
  | none => { s with insts := s.insts ++ [f {
      fn := fn, group := group, inst := inst, card := none, shares := [], startAt := s.fab, late := false }] }

/-- CDATA (R337, R339): a member's contribution to an instance arrives. -/
def execCdata (fn group inst member : Nat) (share : Contribution) (s : State) : Result :=
  .next (if fn ≤ 64 ∧ member < 320 ∧ ((s.func fn).collCount.get group ≤ inst ∨ (s.instOf fn group inst).isSome) then
    s.onInst fn group inst (fun i =>
      if (i.shares.get member).isSome || i.late then i else { i with shares := i.shares.set member (some share) })
  else s)

/-- The time limit of a collective in fabric cycles (Table 18-6). -/
def State.collLimit (s : State) : Nat := max 1 (s.field .collto 0 16) * 1000 * Config.fabPerUs

/-- A member other than this device has not joined an instance, or this device has not (R337). -/
def State.collMissing (s : State) (i : CollInst) : Bool :=
  match i.card.bind (fun id => s.cards.find? (·.id == id)) with
  | none => true
  | some k => (List.range k.ranks.length).any (fun m => (i.shares.get m).isNone && k.ranks[m]? != s.rank)

/-- COLL_TIMEOUT (R337): a member has not joined in time. -/
def execCollTimeout (fn group inst : Nat) (s : State) : Result :=
  .next (match s.instOf fn group inst with
    | some i => if i.startAt + s.collLimit ≤ s.fab ∧ s.collMissing i then s.onInst fn group inst (fun i => { i with late := true }) else s
    | none => s)

end Sys2Proof.Machine
end

