-- ==== Sys2Proof/Machine/Txn.lean ====
section
/-!
DEFINITION. Transactions: TXB, TXC, TXA and TXS (R302 to R317, R320).
-/
namespace Sys2Proof.Machine
open Sys2Proof

/-- The abort target of TXB: its own address plus IMM32 (Table 17-2). -/
def txTarget (f : Fields) (pc : Addr) : Addr := pc + f.ext.imm.signExtend 64

/-- Begins a transaction (Table 17-3). -/
def Thread.beginTx (t : Thread) (target : Addr) : Thread :=
  { t with tx := { t.tx with state := .transactional, target := target, reads := [], writes := [] } }

/-- Ends a trump at TXA or a nested TXB: %txcause gets the cause, the code and IRREV, and the thread goes on at
the abort target (R320). -/
def State.trumpAway (s : State) (r : ThreadRef) (t : Thread) (cause ucode : Nat) : State :=
  (s.endTrump r).onThread r (fun u =>
    { u.advance t.tx.target with txcause := BitVec.ofNat 32 (cause + 2 ^ 8 * ucode + 2 ^ 24) })

/-- Requests the trump (R318): granted at once, queued, or held while the FIFO is full. -/
def State.askTrump (s : State) (r : ThreadRef) (t : Thread) (target : Addr) : State :=
  let part := ((s.crew r.crew).map (·.part)).getD 0
  let tr := (s.walker part).trump
  let t1 := { t with tx := { t.tx with target := target } }
  if tr.holder.isNone ∧ tr.fifo = [] then
    (s.onWalker part (fun w => { w with trump := { w.trump with holder := some r } })).putThread r
      ({ t1 with tx := { t1.tx with state := .irrevocable } }.advance s.cur.next)
  else if tr.fifo.length < Config.trumpFifo then
    (s.onWalker part (fun w => { w with trump := { w.trump with fifo := w.trump.fifo ++ [r] } })).putThread r
      { t1 with tx := { t1.tx with state := .queued }, status := .queued, age := 0 }
  else s.heldAt r

/-- TXB by one thread (Table 17-3). -/
def State.txb (s : State) (r : ThreadRef) (t : Thread) (f : Fields) : State :=
  match t.tx.state with
  | .transactional => s.abortTx r 8 0 0
  | .irrevocable => s.trumpAway r t 8 0
  | _ =>
    if f.fn = 1 ∧ t.txthr.toNat ≤ t.tx.count then s.askTrump r t (txTarget f t.pc)
    else s.putThread r ((t.beginTx (txTarget f t.pc)).advance s.cur.next)

/-- TXB (R304). -/
def execTxb (f : Fields) (s : State) : Result := .next (s.issue (.txb f) f.g (fun s r t => s.txb r t f))

/-! ## Commit (R309, R310) -/

/-- The lines of a list of granules. -/
def linesOf (gs : List Nat) : List Nat := (gs.map (· / 16)).dedup

/-- The home slice of a line (R70, R163). -/
def State.lineSlice (s : State) (line : Nat) : Nat :=
  s.homeSlice ((s.ownerAt (line * 128)).getD 0) (line * 128)

/-- What prepare finds at the lines of one slice: TRUMP, then CONFLICT (R310). -/
def State.prepareAt (s : State) (r : ThreadRef) (part : Nat) (x : Tx) (lines : List Nat) : Option Nat :=
  if lines.any (fun l => (s.walker part).trump.lines.contains l) then some 7
  else if lines.any (fun l => s.marked l (some r) true ||
      ((linesOf x.writes.keys).contains l && s.marked l (some r) false)) then some 1
  else if x.reads.any (fun e => lines.contains (e.1 / 16) &&
      some (BitVec.ofNat 64 (s.valueAt (e.1 * 8) 8)) != e.2) then some 1
  else none

/-- Slices in ascending order, each once. -/
def sortedSlices (s : State) (lines : List Nat) : List Nat :=
  (List.range Config.slices).filter (fun k => lines.any (fun l => s.lineSlice l == k))

/-- Prepare over the home slices in ascending order (R310). -/
def State.prepare (s : State) (r : ThreadRef) (part : Nat) (x : Tx) : Option Nat :=
  let lines := (linesOf x.reads.keys ++ linesOf x.writes.keys).dedup
  (sortedSlices s lines).findSome? (fun k => s.prepareAt r part x (lines.filter (fun l => s.lineSlice l == k)))

/-- The bytes that a written granule holds, as addresses and values. -/
def granuleBytes (g : Nat) (v : DWord) (m : Byte) : List (Nat × Byte) :=
  ((List.range 8).filter (fun i => m.getLsbD i)).map (fun i => (g * 8 + i, v.extractLsb' (8 * i) 8))

/-- Runs of consecutive bytes. -/
def runs : List (Nat × Byte) → List (Nat × List Byte)
  | [] => []
  | (a, b) :: t =>
    match runs t with
    | (a', bs) :: rest => if a' = a + 1 then (a, b :: bs) :: rest else (a, [b]) :: (a', bs) :: rest
    | [] => [(a, [b])]

/-- The stores of a transaction (R310). -/
def Tx.stores (x : Tx) : List (Nat × List Byte) :=
  runs (x.writes.flatMap (fun e => match e.2 with | some (v, m) => granuleBytes e.1 v m | none => []))

/-- Applies one store of a commit at its home slice, which checks the owner and the view as for any store; its data and delta
follow (R195, R263, R310). -/
def State.commitStore (s : State) (r : ThreadRef) (c : Crew) (pc : Addr) (st : Nat × List Byte) : State :=
  if regionOf st.1 = .view ∧ (s.viewOf st.1).isNone then s.markErr r .perm
  else if !s.ownedBy (ownerCode c.fn) st.1 then s.markErr r .owner
  else
    let (id, s0) := s.newId
    let (pa, bytes) := s.stored st.1 st.2
    let w : Write := {
      id := id, by_ := .thread r, owner := ownerCode c.fn, space := .global, va := st.1, pa := pa, bytes := bytes
      kind := .pma, stage := .home, atom := none, lazy := s.lazyFor c.fn, pc := pc, grp := 0
      tag := none, sent := 0, old := none, core := some c.core }
    ((s0.writeHome pa bytes).threadWrite w r).l1Store c.core st.1 st.2

/-- A store of the core's threads to a byte that a commit writes has not been performed: the commit comes after it (R283,
R285). -/
def State.commitBehind (s : State) (c : Crew) (x : Tx) : Bool :=
  x.stores.any (fun st => s.writes.any (fun (w : Write) =>
    w.core == some c.core && w.stage == .issued && overlaps w.pa w.bytes.length st.1 st.2.length))

/-- Some granule of the logs waits at its home slice (R162, R265). -/
def State.commitWaits (s : State) (x : Tx) : Bool := (x.reads.keys ++ x.writes.keys).any (fun g => s.homeBusy (g * 8))

/-- The marks of a commit (R310). -/
def commitMarks (r : ThreadRef) (x : Tx) : List Mark :=
  (linesOf x.writes.keys).map (fun l => ⟨l, r, true⟩) ++ (linesOf x.reads.keys).map (fun l => ⟨l, r, false⟩)

/-- One member's prepare: it aborts, or its marks stand from here on until its writes have been applied (R310). -/
def State.prepareCommit (s : State) (r : ThreadRef) : State :=
  match s.thread r, s.crew r.crew with
  | some t, some c =>
    match s.prepare r c.part t.tx with
    | some cause => s.abortTx r cause 0 0
    | none => ({ s with marks := s.marks ++ commitMarks r t.tx } : State).onThread r (fun u =>
        { u.wait with tx := { u.tx with prepared := some (s.fab, s.cur.next) } })
  | _, _ => s

/-- A prepared commit: its writes are applied, its marks clear, the thread goes on and acquires (R310, R311). -/
def State.applyCommit (s : State) (r : ThreadRef) : State :=
  match s.thread r, s.crew r.crew with
  | some t, some c =>
    match t.tx.prepared with
    | none => s
    | some (_, next) =>
      let s0 := { s with marks := s.marks.filter (fun m => m.who != r) }
      let s1 := t.tx.stores.foldl (fun s st => s.commitStore r c t.pc st) s0
      let s2 := s1.onThread r (fun u =>
        { u.advance next with tx := { u.tx with
            state := .outside, reads := [], writes := [], count := 0, mask := 0, pact := [], prepared := none } })
      s2.acquire r .device
  | _, _ => s

/-- The threads whose commits are prepared. -/
def State.preparedAll (s : State) : List (ThreadRef × Nat) :=
  s.crewList.flatMap (fun e => e.2.threadList.filterMap (fun t => t.2.tx.prepared.map (fun p => (⟨e.1, t.1⟩, p.1))))

/-- The commits that are applied now: 5 µs after their prepare, and at once where the crew is to be saved, which interrupts neither
phase (R310). -/
def State.commitsDue (s : State) : List ThreadRef :=
  (s.preparedAll.filter (fun x => decide (x.2 + 5 * Config.fabPerUs ≤ s.fab) ||
    ((s.crew x.1.crew).map (·.save.isSome)).getD false)).map (·.1)

/-- They are applied. -/
def State.applyDue (s : State) : State := s.commitsDue.foldl State.applyCommit s

/-- A failed error check at TXC: the crew is saved with the mark's cause, the transaction aborts with PREEMPT
(R309). -/
def State.commitError (s : State) (r : ThreadRef) (t : Thread) (e : Cause) : State :=
  let q := { faultSave e 0 (some r.tid) t.pc 0 s.cur.next false with faulters := [] }
  ((s.onThread r (fun u => { u with errs := [] })).abortTx r 6 0 0).beginSave r.crew q

/-- A thread that executes TXC while Transactional. -/
def State.committing (s : State) (f : Fields) (tid : Nat) : Bool :=
  match s.thread ⟨s.cur.crew, tid⟩ with
  | some t => t.guardOn f.g && t.tx.state == .transactional
  | none => false

/-- Two write sets share a granule. -/
def sharesGranule (x y : Tx) : Bool := x.writes.keys.any (fun g => y.writes.keys.contains g)

/-- The members whose write set meets that of a committing member of lower position (R309). -/
def State.siblings (s : State) (ms : List Nat) : List Nat :=
  ms.filter (fun tid => ms.any (fun o =>
    match s.thread ⟨s.cur.crew, tid⟩, s.thread ⟨s.cur.crew, o⟩ with
    | some t, some u => decide (u.pos < t.pos) && sharesGranule t.tx u.tx
    | _, _ => false))

/-- A committing thread has released, no earlier store of its core stands before its writes, and no home slice of its logs makes
it wait (R309 step 1, R162, R265, R285). -/
def State.commitReady (s : State) (r : ThreadRef) : Bool :=
  s.released r && match s.thread r, s.crew r.crew with
    | some t, some c => !s.commitBehind c t.tx && !s.commitWaits t.tx
    | _, _ => true

/-- The commit of a thread is prepared. -/
def State.isPrepared (s : State) (tid : Nat) : Bool := ((s.thread ⟨s.cur.crew, tid⟩).map (·.tx.prepared.isSome)).getD false

/-- The next member of an issue group prepares, unless the commit of one before it has yet to end (R309). -/
def State.commitNext (s : State) (ms : List Nat) (tid : Nat) : State :=
  if ms.any s.isPrepared then s.stay ⟨s.cur.crew, tid⟩ else s.prepareCommit ⟨s.cur.crew, tid⟩

/-- TXC of the committing threads of one issue group whose error checks have passed: group resolution, then one commit after
another. All of them wait until the last has released, and while one of them commits (R309). -/
def State.commitGroup (s : State) (ms : List Nat) : State :=
  let ref (tid : Nat) : ThreadRef := ⟨s.cur.crew, tid⟩
  let left := ms.filter (fun tid => !s.isPrepared tid)
  if ms.any s.isPrepared || !ms.all (fun tid => s.commitReady (ref tid)) then left.foldl (fun s tid => s.stay (ref tid)) s
  else
    let sib := s.siblings ms
    let s1 := sib.foldl (fun s tid => s.abortTx (ref tid) 2 0 0) s
    (ms.filter (fun tid => !sib.contains tid)).foldl (fun s tid => s.commitNext ms tid) s1

/-- The issue group with which a thread executes TXC; none where it has yet to (R309). -/
def State.pactOf (s : State) (tid : Nat) : List Nat := ((s.thread ⟨s.cur.crew, tid⟩).map (·.tx.pact)).getD []

/-- The threads that execute TXC for the first time are the issue group of R309 from then on, whatever group each issues in
after its wait (log 119). -/
def State.joinPact (s : State) (ms : List Nat) : State :=
  let new := ms.filter (fun tid => (s.pactOf tid).isEmpty)
  new.foldl (fun s tid => s.onThread ⟨s.cur.crew, tid⟩ (fun t => { t with tx := { t.tx with pact := new } })) s

/-- The threads of an issue group that have yet to commit or abort. -/
def State.pactLeft (s : State) (p : List Nat) : List Nat := p.filter (fun tid => decide (s.pactOf tid = p))

/-- TXC by a thread that is not Transactional: it ends the trump, or has no effect (R309, R320). -/
def State.txcOther (s : State) (r : ThreadRef) (t : Thread) : State :=
  if t.tx.state = .irrevocable then
    s.release r (fun s => ((s.endTrump r).acquire r .device).proceed r)
  else s.proceed r

/-- The threads of the issue groups `ps` whose error check fails now: every thread of such a group has released (R309). -/
def State.commitErrors (s : State) (ps : List (List Nat)) : List Nat :=
  (ps.map s.pactLeft).flatMap (fun ms =>
    if ms.all (fun tid => s.commitReady ⟨s.cur.crew, tid⟩) then
      ms.filter (fun tid => !s.isPrepared tid && ((s.thread ⟨s.cur.crew, tid⟩).map (fun t => !t.errs.isEmpty)).getD false)
    else [])

/-- Position of a thread of the issuing crew. -/
def State.posOf (s : State) (tid : Nat) : Nat := ((s.thread ⟨s.cur.crew, tid⟩).map (·.pos)).getD 0

/-- TXC (R309, R310, R320): commits that are prepared are applied; error checks fault in ascending position (R107), then each issue
group is resolved and its members prepare and commit one after another. -/
def execTxc (f : Fields) (s : State) : Result :=
  let done := s.cur.members.filter s.isPrepared
  let s0 := done.foldl (fun s tid => s.applyCommit ⟨s.cur.crew, tid⟩) s
  let rest := s.cur.members.filter (fun tid => !done.contains tid)
  let ms := rest.filter (s0.committing f)
  let s1 := s0.joinPact ms
  let ps := (ms.map s1.pactOf).dedup
  let bad := s1.commitErrors ps
  let all := sortBy s1.posOf (rest ++ bad.filter (fun tid => !rest.contains tid))
  let s2 := all.foldl (fun s tid =>
    if bad.contains tid then
      match s.thread ⟨s.cur.crew, tid⟩ with
      | some t => s.commitError ⟨s.cur.crew, tid⟩ t (t.errs.headD .poison)
      | none => s
    else s.member (.txc f) f.g (fun s r t => if t.tx.state = .transactional then s else s.txcOther r t) tid) s1
  .next (ps.foldl (fun s p => s.commitGroup (s.pactLeft p)) s2)

/-- TXA (R315, R320). -/
def execTxa (f : Fields) (s : State) : Result :=
  .next (s.issue (.txa f) f.g (fun s r t =>
    let code := f.ext.imm.toNat % 256
    match t.tx.state with
    | .transactional => s.abortTx r 4 code 0
    | .irrevocable => s.trumpAway r t 4 code
    | _ => s.proceed r))

/-- The word of TXS (Table 17-7). -/
def Thread.txStatus (t : Thread) : Word :=
  BitVec.ofNat 32 ((if t.tx.state = .transactional then 2 ^ 31 else 0) + (if t.tx.state = .irrevocable then 2 ^ 30 else 0) +
    2 ^ 16 * t.tx.mask.toNat + 2 ^ 8 * t.tx.count)

/-- TXS (R317). -/
def execTxs (f : Fields) (s : State) : Result := .next (s.regOp (.txs f) f.g (fun t => t.setReg f.d t.txStatus))

end Sys2Proof.Machine
end

