-- ==== Sys2Proof/Machine/CardRun.lean ====
section
/-!
DEFINITION. Cards as they run (R220, R240, R243, R245, R246, R248, R249, R256, R258 to R261): the start, the
landing of lines, completion, page pauses, abandonment, engine resets and the token buckets.
-/
namespace Sys2Proof.Machine
open Sys2Proof

/-! ## What a card moves (R248, R249, R253) -/

/-- Where a byte that a card writes comes from. -/
inductive ByteSrc where
  | glob (va : Nat)
  | loc (a : Nat)
  | val (b : Byte)
  /-- The scale of the view element at an address (R249). -/
  | tag (va : Nat)
  /-- An overlapping destination byte is indeterminate (R253). -/
  | anyByte
  deriving DecidableEq, Repr

/-- The lines of a run of bytes. -/
def runLines (a n : Nat) : List Nat := if n = 0 then [] else (List.range ((a + n - 1) / 128 - a / 128 + 1)).map (a / 128 + ·)

/-- The addresses of a run that lie in a line. -/
def runIn (line a n : Nat) : List Nat :=
  ((List.range 128).map (128 * line + ·)).filter (fun x => decide (a ≤ x) && decide (x < a + n))

/-- Indices of element `e` of a box, innermost first (R248). -/
def boxIndex : List Nat → Nat → List Nat
  | [], _ => []
  | b :: bs, e => e % b :: boxIndex bs (e / b)

/-- Global address of element `e` of a tensor card's box, and whether it lies inside the tensor (R248). -/
def Card.element (k : Card) (e : Nat) : Nat × Bool :=
  let l := k.layout
  let ix := (boxIndex (l.box.take l.dims) e).zipIdx.map (fun (x : Nat × Nat) => k.coords.getD x.2 0 + (x.1 : Int))
  let inside := ix.zipIdx.all (fun (x : Int × Nat) => decide (0 ≤ x.1) && decide (x.1 < (l.size.getD x.2 0 : Int)))
  let g := ix.zipIdx.foldl (fun (a : Int) (x : Int × Nat) =>
    a + x.1 * (if x.2 = 0 then 2 ^ l.esize else l.stride.getD (x.2 - 1) 0)) (l.base.toNat : Int)
  ((g % 2 ^ 64).toNat, inside)

/-- Image offset of a local address of the image (R248). -/
def Card.imageOff (k : Card) (x : Nat) : Nat :=
  let o := x - k.laddr
  let line := o / 128
  line * 128 + Nat.xor (o % 128 / 16) (line % 2 ^ k.layout.swz) * 16 + o % 16

/-- Local address of an image offset (R248). -/
def Card.imageLoc (k : Card) (o : Nat) : Nat :=
  k.laddr + o / 128 * 128 + Nat.xor (o % 128 / 16) (o / 128 % 2 ^ k.layout.swz) * 16 + o % 16

/-- A source byte of the image, read in (R248). -/
def Card.imageSrc (k : Card) (o : Nat) : ByteSrc :=
  let eb := 2 ^ k.layout.esize
  let (va, inside) := k.element (o / eb)
  if inside then .glob ((va + o % eb) % 2 ^ 64) else .val (k.layout.fill.getD (o % eb) 0)

/-- The scale of 32 image elements (R249). -/
def Card.scaleSrc (k : Card) (i : Nat) : ByteSrc :=
  let (va, inside) := k.element (32 * i)
  if inside then .tag va else .val 127

/-- Elements of the box. -/
def Card.elements (k : Card) : Nat := k.layout.image / 2 ^ k.layout.esize

/-- First byte of a linear or multicast card's destination in a crew's local memory. -/
def Card.localDst (k : Card) (crew : Nat) : Nat :=
  if k.kind = .multicast then k.dst.toNat - k.bases.get crew else k.dst.toNat

/-- The lines that a copy card writes: crew and local line, crew 0 standing for global memory. -/
def State.targets (s : State) (k : Card) : List (Nat × Nat) :=
  let own (ls : List Nat) : List (Nat × Nat) := ls.map (fun l => (k.who.crew, l))
  match k.kind with
  | .linear => if k.global then (runLines k.dst.toNat k.bytes).map (fun l => (0, l)) else own (runLines k.dst.toNat k.bytes)
  | .tensor =>
    if k.global then
      (((List.range k.elements).filter (fun e => (k.element e).2)).map (fun e => (k.element e).1 / 128)).dedup.map (fun l => (0, l))
    else
      own ((runLines k.laddr k.layout.image ++ (if k.scales then runLines k.sdst (k.layout.image / 32) else [])).dedup)
  | .multicast => k.receivers.flatMap (fun q => (runLines (k.localDst q) k.bytes).map (fun l => (q, l)))
  | _ => []

/-- The bytes that a card writes in one of its lines, with their sources. -/
def State.lineMoves (s : State) (k : Card) (crew line : Nat) : List (Nat × ByteSrc) :=
  match k.kind with
  | .linear =>
    let fromGlobal := k.dir == 0 || k.dir == 2
    (runIn line k.dst.toNat k.bytes).map (fun x =>
      let a := k.src.toNat + (x - k.dst.toNat)
      let overlap := (k.dir == 2 || k.dir == 3) && decide (k.src.toNat ≤ x) && decide (x < k.src.toNat + k.bytes)
      (x, if overlap then .anyByte else if fromGlobal then .glob a else .loc a))
  | .tensor =>
    if k.global then
      ((List.range k.layout.image).filterMap (fun o =>
        match k.imageSrc o with
        | .glob va => if va / 128 = line then some (va, .loc (k.imageLoc o)) else none
        | _ => none))
    else
      (runIn line k.laddr k.layout.image).map (fun x => (x, k.imageSrc (k.imageOff x))) ++
        (if k.scales then (runIn line k.sdst (k.layout.image / 32)).map (fun x => (x, k.scaleSrc (x - k.sdst))) else [])
  | .multicast =>
    let d := k.localDst crew
    (runIn line d k.bytes).map (fun x => (x, .glob (k.src.toNat + (x - d))))
  | _ => []

/-- The moves whose source has yet to be read: a multicast keeps the bytes of every sector that it has read (R253). -/
def Card.unread (k : Card) (crew : Nat) (ms : List (Nat × ByteSrc)) : List (Nat × ByteSrc) :=
  if k.kind = .multicast then ms.filter (fun m => (k.held.get (m.1 - k.localDst crew)).isNone) else ms

/-- The offsets of a multicast's source that lie in some sectors. -/
def Card.sourceOffsets (k : Card) (sectors : List Nat) : List Nat :=
  let src := k.src.toNat
  (sectors.flatMap (fun v => (List.range 64).map (64 * v + ·))).filterMap (fun va =>
    if src ≤ va ∧ va < src + k.bytes then some (va - src) else none)

/-! ## Reads and writes of global memory -/

/-- What stands before the landing of a line. -/
inductive LineOut where
  | ok (rs ws : List (Nat × Target))
  | wait
  | page (need : Need) (va : Nat)
  | fault (c : Cause) (va : Nat)

/-- Translates sectors of 64 bytes; an IO page is refused (R246). -/
def State.sectors (s : State) (cluster fn : Nat) (need : Need) : List Nat → Except (Cause × Nat) (List (Nat × Target)) × State
  | [] => (.ok [], s)
  | v :: vs =>
    match s.translate cluster fn (64 * v) need false with
    | (.error c, s1) => (.error (c, 64 * v), s1)
    | (.ok tg, s1) =>
      if tg.kind = .io then (.error (.perm, 64 * v), s1)
      else match s1.sectors cluster fn need vs with
        | (.error e, s2) => (.error e, s2)
        | (.ok ts, s2) => (.ok ((v, tg) :: ts), s2)

/-- What a sector that a card reads gives at its home slice (R162, R245, R267, R312); a peer's waits for its
answer (R331). -/
def State.sectorReady (s : State) (k : Card) (x : Nat × Target) : LineOut :=
  let tg := x.2
  if tg.peer then
    if k.asks.any (fun a => a.key == x.1 && a.data.isSome) then .ok [] [] else .wait
  else if s.homeBusy tg.pa then .wait
  else if s.writes.any (fun (w : Write) => w.by_ == .thread k.who && decide (w.id < k.id) && w.stage == .issued &&
      overlaps tg.pa 64 w.pa w.bytes.length) || s.marked (tg.pa / 128) none true then .wait
  else if !s.ownedBy (ownerCode k.fn) tg.pa then .fault .owner (64 * x.1)
  else if s.runBad tg.pa 64 then .fault .poison (64 * x.1)
  else .ok [] []

/-- The first sector that does not give its data. -/
def State.sectorsReady (s : State) (k : Card) : List (Nat × Target) → LineOut
  | [] => .ok [] []
  | x :: xs =>
    match s.sectorReady k x with
    | .ok _ _ => s.sectorsReady k xs
    | o => o

/-- The sectors that a list of moves reads. -/
def readSectors (ms : List (Nat × ByteSrc)) : List Nat :=
  (ms.filterMap (fun m => match m.2 with | .glob va => some (va / 64) | .tag va => some (va / 64) | _ => none)).dedup

/-- A translation error as the card sees it. -/
def lineError (need : Need) (e : Cause × Nat) : LineOut := if e.1 = .page then .page need e.2 else .fault e.1 e.2

/-- Translates the accesses of a line (R246). -/
def State.lineTargets (s : State) (k : Card) (cluster : Nat) (rd wr : List Nat) : LineOut × State :=
  match s.sectors cluster k.fn .read rd with
  | (.error e, s1) => (lineError .read e, s1)
  | (.ok rs, s1) =>
    match s1.sectors cluster k.fn .write wr with
    | (.error e, s2) => (lineError .write e, s2)
    | (.ok ws, s2) => (.ok rs ws, s2)

/-- Looks at the accesses of a line (R246). -/
def State.lineReady (s : State) (k : Card) (cluster : Nat) (rd wr : List Nat) : LineOut × State :=
  match s.lineTargets k cluster rd wr with
  | (.ok rs ws, s1) =>
    match s1.sectorsReady k rs with
    | .ok _ _ => (.ok rs ws, s1)
    | o => (o, s1)
  | (o, s1) => (o, s1)

/-- The translated sector of an address. -/
def sectorAt (xs : List (Nat × Target)) (va : Nat) : Option Target := (xs.find? (·.1 == va / 64)).map (·.2)

/-- A byte of a sector that a peer has answered with. -/
def Card.answered (k : Card) (va : Nat) : Option Byte :=
  (k.asks.find? (fun a => a.key == va / 64)).bind (fun a => a.data.bind (fun bs => bs[va % 64]?))

/-- The value of a source byte; the scale of another device's view is a free value (log 2), and so is a byte of a living crew's
private slot (R187). -/
def State.srcByte (s : State) (k : Card) (rs : List (Nat × Target)) (i : Nat) : ByteSrc → Byte
  | .val b => b
  | .loc a => match s.crew k.who.crew with
    | some c => c.localByte k.who.crew a
    | none => 0
  | .anyByte => (Config.freeWord (s.fresh + i)).setWidth 8
  | .glob va => match sectorAt rs va with
    | some tg =>
      if (s.arenaOf k.fn va).isSome then (Config.freeWord (s.fresh + i)).setWidth 8
      else if tg.peer then (k.answered va).getD ((Config.freeWord (s.fresh + i)).setWidth 8)
      else s.byteAt (tg.pa + va % 64)
    | none => 0
  | .tag va => match sectorAt rs va with
    | some tg =>
      if tg.peer then (Config.freeWord (s.fresh + i)).setWidth 8
      else if regionOf tg.pa = .view then
        match s.viewOf tg.pa with
        | some w => s.viewScale w (tg.pa + va % 64 - w.base)
        | none => 127
      else 127
    | none => 127

/-- The bytes of a line as they land. -/
def State.moveBytes (s : State) (k : Card) (rs : List (Nat × Target)) (ms : List (Nat × ByteSrc)) : List (Nat × Byte) × State :=
  (ms.zipIdx.map (fun (m : (Nat × ByteSrc) × Nat) => (m.1.1, s.srcByte k rs m.2 m.1.2)),
    { s with fresh := s.fresh + ms.length })

/-- Writes bytes into a crew's local memory. -/
def Crew.putLocal (c : Crew) (bs : List (Nat × Byte)) : Crew :=
  { c with lmem := bs.foldl (fun m b => m.set b.1 (some b.2)) c.lmem }

/-! ## Landing (R245, R256) -/

/-- A line of a card is done: it turns full, and the barrier object counts its bytes (R256). -/
def State.lineDone (s : State) (k : Card) (crew line n : Nat) : State :=
  let owner := if crew = 0 then k.who.crew else crew
  (s.onCard k.id (fun k => { k with landed := k.landed ++ [(crew, line)] })).barLand owner (k.barIn owner) n

/-- Sends the stores of a run of bytes of one sector. -/
def State.cardStore (s : State) (k : Card) (tg : Target) (run : Nat × List Byte) : State :=
  let (id, s0) := s.newId
  let (bytes, s1) := s0.blurStore k.fn run.1 { tg with pa := tg.pa + run.1 % 64 } run.2
  s1.pushWrite {
    id := id, by_ := .card k.who k.id, owner := ownerCode k.fn, space := if tg.peer then .peer else .global, va := run.1
    pa := tg.pa + run.1 % 64, bytes := bytes, kind := tg.kind, stage := .issued, atom := none, lazy := s.lazyFor k.fn
    pc := k.pc, grp := 0, tag := s.tagFor tg.peer, sent := s.fab, old := none
    core := none }

/-- Sends the stores of bytes, sector by sector. -/
def State.cardStores (s : State) (k : Card) (ws : List (Nat × Target)) (bs : List (Nat × Byte)) : State :=
  ws.foldl (fun s x => (runs (bs.filter (fun b => b.1 / 64 == x.1))).foldl (fun s r => s.cardStore k x.2 r) s) s

/-- Stores of a card in flight, in a line of global memory or anywhere. -/
def State.cardFlying (s : State) (id : Nat) (line : Option Nat) : Bool :=
  s.writes.any (fun (w : Write) => (match w.by_ with | .card _ j => j == id | _ => false) &&
    match line with
    | some l => w.va / 128 == l
    | none => true)

/-- The lines of a card that have not landed. -/
def State.unlanded (s : State) (k : Card) : List (Nat × Nat) := (s.targets k).filter (fun t => !k.landed.contains t)

/-! ## Collective cards (R261, R337 to R341) -/

/-- Bytes at SRC (R242, R337). -/
def Card.srcSize (k : Card) : Nat := if k.op = 0 then 4 * k.count else 8 * k.count

/-- SRC and DST overlap: DST is indeterminate (R337). -/
def Card.collides (k : Card) : Bool :=
  overlaps k.src.toNat k.srcSize k.dst.toNat (dstSize k.op k.count k.span)

/-- This device's contribution, from the bytes at SRC (R337, R339). -/
def Card.contribution (k : Card) (bs : List Byte) : Contribution :=
  let w (i : Nat) : Word := BitVec.ofNat 32 (fld bs (4 * i) 4)
  { op := k.op, span := k.span, thresh := k.thresh, count := k.count, ranks := k.ranks
    dense := if k.op = 0 then (List.range k.count).map w else []
    pairs := if k.op = 1 then (List.range k.count).map (fun i => ((w (2 * i)).toNat, w (2 * i + 1))) else [] }

/-- Member index of this device in a card's group (R336). -/
def State.memberIndex (s : State) (k : Card) : Nat := ((s.rank.bind (fun r => k.ranks.idxOf? r))).getD 0

/-- The bytes at consecutive addresses. -/
def placed (va : Nat) (bs : List Byte) : List (Nat × Byte) := bs.zipIdx.map (fun (b : Byte × Nat) => (va + b.2, b.1))

/-- Indeterminate bytes take free values. -/
def State.fillFree (s : State) (bs : List (Option Byte)) : List Byte × State :=
  (bs.zipIdx.map (fun (b : Option Byte × Nat) => b.1.getD ((Config.freeWord (s.fresh + b.2)).setWidth 8)),
    { s with fresh := s.fresh + bs.length })

/-- What a collective card does next: it reads SRC, writes DST, then writes RESULT (R261, R341). -/
inductive CollStage where
  | read
  | dst
  | result
  | over
  deriving DecidableEq, Repr

/-- The stage of a started collective card, none while it waits for other members or for its stores. -/
def State.collStage (s : State) (k : Card) : Option CollStage :=
  match s.instOf k.fn k.group k.inst with
  | none => none
  | some i =>
    if s.cardFlying k.id none then none
    else if k.sent.contains 1 then some .over
    else if k.sent.contains 0 then some .result
    else if (i.code k.ranks).isSome then some .dst
    else if (i.shares.get (s.memberIndex k)).isNone then some .read
    else none

/-- The sectors that a stage reads and writes. -/
def State.collSectors (s : State) (k : Card) : List Nat × List Nat :=
  match s.collStage k with
  | some .read => (sectorRun k.src.toNat k.srcSize, [])
  | some .dst => ([], sectorRun k.dst.toNat (dstSize k.op k.count k.span))
  | some .result => ([], sectorRun k.result.toNat 8)
  | _ => ([], [])

/-! ## Tokens (R259, R260) -/

/-- Key of a function's bucket at a cluster. -/
def bucketKey (cluster fn : Nat) : Nat := cluster * 65 + fn

/-- BURST of a bucket (Table 14-9). -/
def Bucket.burst (b : Bucket) : Nat := max 1 (b.cfg.toNat / 2 ^ 32 % 2 ^ 16)

/-- The requests of a line of a card: the sectors it reads, then those it writes. -/
def requestsOf (rd wr : List Nat) : List (Bool × Nat) := rd.map (fun v => (false, v)) ++ wr.map (fun v => (true, v))

/-- The requests of a card's line that have not passed the transfer units; a line whose stores have been sent has none, and a
multicast reads its source once (R253). -/
def State.lineRequests (s : State) (k : Card) (t : Nat × Nat) : List (Bool × Nat) :=
  if t.1 = 0 ∧ k.sent.contains t.2 then []
  else
    let ms := s.lineMoves k t.1 t.2
    (requestsOf (readSectors (k.unread t.1 ms)) (if t.1 = 0 then (ms.map (fun m => m.1 / 64)).dedup else [])).filter
      (fun q => !k.passed.contains q)

/-- A card has a request waiting at the transfer units of its cluster. -/
def State.cardAsks (s : State) (k : Card) : Bool :=
  k.started && !k.paused && !k.kind.isMatrix &&
  if k.kind = .collective then
    let (rd, wr) := s.collSectors k
    (requestsOf rd wr).any (fun q => !k.passed.contains q)
  else (s.unlanded k).any (fun t => !(s.lineRequests k t).isEmpty)

/-- A card accepted before card `id` still reads or writes a line: what lands later waits for it (R243, R258). -/
def State.lineTaken (s : State) (id crew line : Nat) : Bool :=
  s.cards.any (fun y => decide (y.id < id) && (y.reads ++ y.writes).any (fun g =>
    !g.rows && g.crew == crew && decide (g.first ≤ line) && decide (line < g.first + g.count)))

/-- A replay packet has a request waiting at the transfer units: it is not paused, and no earlier card takes its line. -/
def State.replayAsks (s : State) (crew : Nat) (p : LineReplay) : Bool :=
  !p.card.paused && !s.lineTaken p.card.id crew p.line && !(s.lineRequests p.card (crew, p.line)).isEmpty

/-- A function has requests waiting at the transfer units of a cluster (R260): of its cards, and of replay packets. -/
def State.busyAt (s : State) (cluster fn : Nat) : Bool :=
  s.cards.any (fun k => k.core / 4 == cluster && k.fn == fn && s.cardAsks k) ||
  s.crewList.any (fun e => e.2.fn == fn && e.2.loc.isSome && e.2.cluster == cluster &&
    e.2.lineReplay.any (s.replayAsks e.1))

/-- The idle function with the most tokens, the lowest on ties (R260). -/
def State.lender (s : State) (cluster fn : Nat) : Option Nat :=
  ((List.range 65).filter (fun g => g != fn && !s.busyAt cluster g)).foldl (fun (m : Option Nat) g =>
    let n := (s.buckets.get (bucketKey cluster g)).tok
    match m with
    | some h => if (s.buckets.get (bucketKey cluster h)).tok < n then some g else m
    | none => if n = 0 then none else some g) none

/-- One request pays its token, or borrows one (R259, R260). -/
def State.payOne (s : State) (cluster fn : Nat) : Option State :=
  let b := s.buckets.get (bucketKey cluster fn)
  if b.cfg.toNat < 2 ^ 63 then some s
  else if 0 < b.tok then some { s with buckets := s.buckets.set (bucketKey cluster fn) { b with tok := b.tok - 1 } }
  else if b.debt < b.burst then
    match s.lender cluster fn with
    | some g => some { s with
        buckets := (s.buckets.upd (bucketKey cluster g) (fun l => { l with tok := l.tok - 1 })).set (bucketKey cluster fn)
          { b with debt := b.debt + 1 } }
    | none => none
  else none

/-- Round-robin by function (R260): the function is the first one after the last served whose waiting request can pay. -/
def State.turnAt (s : State) (cluster fn : Nat) : Bool :=
  ((List.range 65).map (fun i => (s.served.get cluster + 1 + i) % 65)).find? (fun g =>
    g == fn || (s.busyAt cluster g && (s.payOne cluster g).isSome)) == some fn

/-- Key of the cards of a function on a core. -/
def cardKey (core fn : Nat) : Nat := core * 65 + fn

/-- Round-robin among the started cards of a core, function by function (R243, log 128): no other card of the function that has a
request waiting comes after the last one served and before this card. A replay packet stands outside. -/
def State.cardTurn (s : State) (k : Card) : Bool :=
  let last := s.cardServed.get (cardKey k.core k.fn)
  let rank (i : Nat) : Nat × Nat := (if last < i then 0 else 1, i)
  let first (x y : Nat × Nat) : Bool := decide (x.1 < y.1) || (decide (x.1 = y.1) && decide (x.2 < y.2))
  (s.card k.id).isNone ||
    ((s.ring k.core).filter (fun y => y.id != k.id && y.fn == k.fn && s.cardAsks y)).all (fun y => first (rank k.id) (rank y.id))

/-- A request of a card has been served. -/
def State.cardServes (s : State) (cluster : Nat) (k : Card) : State :=
  { s with
    served := s.served.set cluster k.fn
    cardServed := if (s.card k.id).isSome then s.cardServed.set (cardKey k.core k.fn) k.id else s.cardServed }

/-- Requests of a card pass the transfer units one after another, as long as its function and the card have their turns and can
pay. Answers those that have passed (R243, R259, R260). -/
def State.pass (s : State) (cluster : Nat) (k : Card) : List (Bool × Nat) → List (Bool × Nat) × State
  | [] => ([], s)
  | q :: qs =>
    if s.turnAt cluster k.fn && s.cardTurn k then
      match s.payOne cluster k.fn with
      | none => ([], s)
      | some s1 =>
        let (ps, s2) := (s1.cardServes cluster k).pass cluster k qs
        (q :: ps, s2)
    else ([], s)

/-- Asks peers for sectors, each under a tag of its own (R335). -/
def State.askPeers (s : State) (used : List Nat) : List (Nat × Target) → List Ask
  | [] => []
  | x :: xs =>
    let t := freeTag used used.length s.nextId
    { key := x.1, pa := x.2.pa, width := 64, tag := t, sent := s.fab, data := none } :: s.askPeers (used ++ [t]) xs

/-- Passes those requests of a card that have not passed before; answers whether every one has, and which it has made. A
read goes to the shared cache in the card's class (R276), one of another device there (R335). -/
def State.passCard (s : State) (k : Card) (cluster : Nat) (rs : List (Nat × Target)) (qs : List (Bool × Nat)) :
    Bool × Card × State :=
  let open_ := qs.filter (fun q => !k.passed.contains q)
  let (ps, s1) := s.pass cluster k open_
  let asks := s1.askPeers s1.tagsInUse (rs.filter (fun x => x.2.peer && ps.contains (false, x.1)))
  let s2 := (rs.filter (fun x => ps.contains (false, x.1))).foldl (fun s x => s.want k.fn k.cls x.2.pa 64) s1
  (ps.length == open_.length, { k with passed := k.passed ++ ps, asks := k.asks ++ asks }, s2)

/-- A bucket at a tick (R260). -/
def Bucket.refill (b : Bucket) (cfg : DWord) : Bucket :=
  let c := { b with cfg := cfg }
  let r := cfg.toNat % 2 ^ 16
  let pay := if b.debt = 0 then 0 else min b.debt (r / 2)
  { c with debt := b.debt - pay, tok := min (b.tok + (r - pay)) c.burst }

/-- TOKEN_TICK (R259, R260). -/
def execTokenTick (cluster : Nat) (s : State) : Result :=
  .next (if Config.clusters ≤ cluster then s
  else { s with buckets := (List.range 65).foldl (fun m fn =>
    m.upd (bucketKey cluster fn) (fun b => b.refill (s.reg (.tbcfg fn)))) s.buckets })

/-! ## Landing (R245, R253, R256) -/

/-- The accesses of a line go out: they are translated, pass the transfer units, and are looked at where they are served
(R246, R259). Answers the card as it stands after. -/
def State.lineGoes (s : State) (k : Card) (cluster : Nat) (rd wr : List Nat) : LineOut × Card × State :=
  match s.lineTargets k cluster rd wr with
  | (.ok rs ws, s1) =>
    match s1.passCard k cluster rs (requestsOf rd wr) with
    | (false, k1, s2) => (.wait, k1, s2)
    | (true, k1, s2) =>
      match s2.sectorsReady k1 rs with
      | .ok _ _ => (.ok rs ws, k1, s2)
      | o => (o, k1, s2)
  | (o, s1) => (o, k, s1)

/-- The source bytes of a line: a multicast keeps the sectors that it has read for its other lines and receivers (R253). -/
def State.lineBytes (s : State) (k : Card) (rs : List (Nat × Target)) (crew : Nat) (ms : List (Nat × ByteSrc)) :
    List (Nat × Byte) × Card × State :=
  if k.kind = .multicast then
    let new := k.sourceOffsets (readSectors (k.unread crew ms))
    let (bs, s1) := s.moveBytes k rs (new.map (fun o => (o, .glob (k.src.toNat + o))))
    let k1 := { k with held := bs.foldl (fun h b => h.set b.1 (some b.2)) k.held }
    (ms.map (fun m => (m.1, (k1.held.get (m.1 - k.localDst crew)).getD 0)), k1, s1)
  else
    let (bs, s1) := s.moveBytes k rs ms
    (bs, k, s1)

/-- Lands the bytes of a local line; `keep` stores the card as its requests leave it. -/
def State.landLocal (s : State) (k : Card) (cluster crew line : Nat) (keep : State → Card → State) (fin : State → Nat → State) :
    State :=
  let ms := s.lineMoves k crew line
  match s.lineGoes k cluster (readSectors (k.unread crew ms)) [] with
  | (.ok rs _, k1, s1) =>
    let (bs, k2, s2) := s1.lineBytes k1 rs crew ms
    fin ((keep s2 k2).onCrew crew (fun c => c.putLocal bs)) ms.length
  | (.wait, k1, s1) => keep s1 k1
  | _ => s

/-- Stores a card of the ring. -/
def State.putCard (s : State) (k : Card) : State := s.onCard k.id (fun _ => k)

/-- A line of global memory: its stores are sent; once all are acknowledged the line is done (R245, R256). -/
def State.landGlobal (s : State) (k : Card) (line : Nat) : State :=
  let ms := s.lineMoves k 0 line
  if k.sent.contains line then
    if s.cardFlying k.id (some line) then s else s.lineDone k 0 line ms.length
  else
    match s.lineGoes k (k.core / 4) (readSectors ms) ((ms.map (fun m => m.1 / 64)).dedup) with
    | (.ok rs ws, k1, s1) =>
      let (bs, s2) := s1.moveBytes k1 rs ms
      (s2.cardStores k1 ws bs).putCard { k1 with sent := k1.sent ++ [line] }
    | (.wait, k1, s1) => s1.putCard k1
    | _ => s

/-- One stage of a collective card. -/
def State.collStep (s : State) (k : Card) : State :=
  let (rd, wr) := s.collSectors k
  match s.collStage k, s.instOf k.fn k.group k.inst with
  | some st, some i =>
    match s.lineGoes k (k.core / 4) rd wr with
    | (.ok rs ws, k1, s2) =>
      let code := (i.code k.ranks).getD 0
      let s2 := s2.putCard k1
      match st with
      | .read =>
        let ms := (List.range k.srcSize).map (fun j => (j, ByteSrc.glob (k.src.toNat + j)))
        let (bs, s3) := s2.moveBytes k rs ms
        s3.onInst k.fn k.group k.inst (fun i => { i with
          shares := i.shares.set (s3.memberIndex k) (some (k.contribution (bs.map (·.2)))) })
      | .dst =>
        let open_ := if code = 0 ∧ !k.collides then resultBytes k (i.all k.ranks)
          else List.replicate (dstSize k.op k.count k.span) none
        let (bs, s3) := s2.fillFree open_
        (s3.cardStores k ws (placed k.dst.toNat bs)).onCard k.id (fun k => { k with sent := [0], passed := [] })
      | .result =>
        let v := statusWord code (i.drops k.ranks code s2.fresh)
        let s3 := { s2 with fresh := s2.fresh + 1 }
        (s3.cardStores k ws (placed k.result.toNat (leBytes 8 v.toNat))).onCard k.id (fun k => { k with sent := [0, 1] })
      | .over => s2
    | (.wait, k1, s2) => s2.putCard k1
    | _ => s
  | _, _ => s

/-! ## Events -/

/-- The local lines that a card reads, by crew; elements outside a tensor are skipped (R220, R243, R248). -/
def State.readLines (s : State) (k : Card) : List (Nat × Nat) :=
  match k.kind with
  | .linear => if k.dir = 1 ∨ k.dir = 3 then (runLines k.src.toNat k.bytes).map (fun l => (k.who.crew, l)) else []
  | .tensor =>
    if k.dir = 1 then
      (((List.range k.layout.image).filter (fun o => (k.element (o / 2 ^ k.layout.esize)).2)).map
        (fun o => (k.who.crew, k.imageLoc o / 128))).dedup
    else []
  | _ => match k.mat, s.crew k.who.crew with
    | some p, some c => s.matLines k p c
    | _, _ => []

/-- The local lines that a card reads are full (R243). -/
def State.sourcesFull (s : State) (k : Card) : Bool := (s.readLines k).all (fun t => s.fullFor k.id t.1 t.2)

/-- A card may start, or one that had started before its crew was saved may go on (R220, R243, R258). -/
def State.cardReady (s : State) (k : Card) : Bool := !k.started && k.preds.isEmpty && (k.resumes || s.sourcesFull k)

/-- A card starts next: the engine is free, or fewer than eight copies run, and no ready card of its class came
earlier (R220, R243). -/
def State.startsNext (s : State) (k : Card) : Bool :=
  let mine := (s.ring k.core).filter (fun y => y.kind.isMatrix == k.kind.isMatrix)
  let running := (mine.filter (·.started)).length
  decide (running < (if k.kind.isMatrix then 1 else Config.copyRun)) && (mine.find? s.cardReady).map (·.id) == some k.id

/-- CARD_START (R220, R233, R243, R337). -/
def execCardStart (id : Nat) (s : State) : Result :=
  .next (match s.card id with
    | none => s
    | some k =>
      if !s.startsNext k then s
      else
        let st := match k.kind, k.mat, s.crew k.who.crew with
          | .mrsc, some p, some c => (List.range p.n).map (fun j => c.cell k.who.crew p.state (p.col + j))
          | _, _, _ => []
        let s1 := s.onCard id (fun k => { k with started := true, startAt := s.fab, stRow := st })
        if k.kind = .collective then s1.onInst k.fn k.group k.inst (fun i => { i with card := some id }) else s1)

/-- The replay packets of a card's lines at resident receivers (R258). -/
def State.replays (s : State) (id : Nat) : List (Nat × LineReplay) :=
  (s.crewList.filter (fun e => e.2.loc.isSome)).flatMap (fun e =>
    (e.2.lineReplay.filter (·.card.id == id)).map (fun r => (e.1, r)))

/-- Lands a line that a restored receiver has asked for again (R258). -/
def State.landReplay (s : State) (crew : Nat) (r : LineReplay) : State :=
  match s.crew crew with
  | none => s
  | some c =>
    if r.card.paused || s.lineTaken r.card.id crew r.line then s
    else
      let onReplay (s : State) (g : LineReplay → Option LineReplay) : State :=
        s.onCrew crew (fun c => { c with
          lineReplay := c.lineReplay.filterMap (fun p => if p.card.id == r.card.id && p.line == r.line then g p else some p) })
      s.landLocal r.card c.cluster crew r.line (fun s k => onReplay s (fun p => some { p with card := k }))
        (fun s n => (onReplay s (fun _ => none)).barLand crew r.card.bar n)

/-- CARD_LINE_LANDS (R245, R256, R258): `line` counts the lines of the card that have not landed, then the replay
packets of its receivers. -/
def execCardLineLands (id line : Nat) (s : State) : Result :=
  .next (match s.card id with
    | some k =>
      let open_ := s.unlanded k
      if !k.started || k.paused then s
      else if k.kind = .collective then s.collStep k
      else match open_[line]? with
        | some (crew, l) =>
          if crew = 0 then s.landGlobal k l
          else s.landLocal k (k.core / 4) crew l State.putCard (fun s n => s.lineDone k crew l n)
        | none =>
          match (s.replays id)[line - open_.length]? with
          | some (crew, r) => s.landReplay crew r
          | none => s
    | none =>
      match (s.replays id)[line]? with
      | some (crew, r) => s.landReplay crew r
      | none => s)

/-- Every line of a copy has landed; a collective has stored its status and its crew is on a core (R252, R253, R258,
R261). -/
def State.copyDone (s : State) (k : Card) : Bool :=
  if k.kind = .collective then
    s.collStage k == some .over && ((s.crew k.who.crew).map (fun c => c.loc.isSome)).getD true
  else (s.unlanded k).isEmpty

/-- The stores of a global card count no more with it (R245); those in flight count with the thread. -/
def State.releaseStores (s : State) (k : Card) : State :=
  if !k.global then s
  else
    let mine (w : Write) : Bool := match w.by_ with | .card _ j => j == k.id | _ => false
    let n := (s.writes.filter (fun (w : Write) => mine w && w.kind != .nc)).length
    let nc := (s.writes.filter (fun (w : Write) => mine w && w.kind == .nc)).length
    let s1 := { s with writes := s.writes.map (fun (w : Write) => if mine w then { w with by_ := .thread k.who } else w) }
    s1.onThread k.who (fun t => { t with unack := t.unack - 1 + n, unackNc := t.unackNc + nc })

/-- CARD_COMPLETE (R220, R232, R233, R243, R261). -/
def execCardComplete (id : Nat) (s : State) : Result :=
  .next (match s.card id with
    | none => s
    | some k =>
      if !k.started then s
      else match k.mat with
        | some p =>
          if k.finalRows < p.m then s
          else
            let s1 := if k.kind = .mrsc then s.onCrew k.who.crew (fun c => c.putCells p.state p.col k.stRow) else s
            (s1.leaveRing id).settleReads k.who.crew
        | none =>
          if !s.copyDone k then s
          else
            let s1 := (s.releaseStores k).leaveRing id
            if k.kind = .collective then
              let s2 := { s1 with insts := s1.insts.filter (fun i => !(i.fn == k.fn && i.group == k.group && i.inst == k.inst)) }
              s2.barLand k.who.crew k.bar (if k.op = 0 then 4 * k.count else 8)
            else s1)

/-! ## Page pauses and abandonment (R246, R351) -/

/-- What the lines of a card that have not landed find. -/
def State.cardOuts (s : State) (k : Card) : List (LineOut × List (Nat × Target)) :=
  let look (cluster : Nat) (k : Card) (rd wr : List Nat) : LineOut × List (Nat × Target) :=
    let o := (s.lineReady k cluster rd wr).1
    (o, match (s.sectors cluster k.fn .read rd).1 with | .ok rs => rs | .error _ => [])
  let own := if k.kind = .collective then
      let (rd, wr) := s.collSectors k
      [look (k.core / 4) k rd wr]
    else (s.unlanded k).map (fun t =>
      let ms := s.lineMoves k t.1 t.2
      let wr := if t.1 = 0 ∧ !k.sent.contains t.2 then (ms.map (fun m => m.1 / 64)).dedup else []
      look (k.core / 4) k (if t.1 = 0 ∧ k.sent.contains t.2 then [] else readSectors (k.unread t.1 ms)) wr)
  let again := (s.replays k.id).map (fun e =>
    look (((s.crew e.1).map (·.cluster)).getD 0) e.2.card (readSectors (s.lineMoves e.2.card e.1 e.2.line)) [])
  (if (s.card k.id).isSome then own else []) ++ again

/-- The card that an event names: in the ring, or in a replay packet. -/
def State.anyCard (s : State) (id : Nat) : Option Card :=
  match s.card id with
  | some k => if k.started && !k.kind.isMatrix then some k else none
  | none => (s.replays id).head?.map (·.2.card)

/-- Changes a card wherever it stands: in the ring, saved, or in replay packets. -/
def State.onCardCopies (s : State) (id : Nat) (f : Card → Card) : State :=
  let g (k : Card) : Card := if k.id = id then f k else k
  let s1 := { s with cards := s.cards.map g }
  { s1 with crews := s1.crews.map (fun e => (e.1, e.2.map (fun c => { c with
      cards := c.cards.map g, lineReplay := c.lineReplay.map (fun r => { r with card := g r.card }) }))) }

/-- The lowest free card request of a function (R351, log 14). -/
def State.freeRequest (s : State) (fn : Nat) : Option Nat :=
  (List.range Config.cardRequests).find? (fun r => ((s.func fn).cardReqs.get r).isNone)

/-- A paused card raises its page request, unless no number is free (R351). -/
def State.raisePage (s : State) (k : Card) (need va : Nat) : State :=
  match s.freeRequest k.fn with
  | none => s.onCardCopies k.id (fun k => { k with paused := true, miss := some (need, va) })
  | some r =>
    let s1 := (s.onCardCopies k.id (fun k => { k with paused := true, miss := some (need, va), req := some r })).onFunc k.fn
      (fun q => { q with cardReqs := q.cardReqs.set r (some k.id) })
    let c := s.crew k.who.crew
    s1.record k.fn {
      cause := causeCode .page, kind := 2, code := need, handle := 0x8000 + r, tid := k.who.tid, pc := k.pc
      faddr := BitVec.ofNat 64 va, nest := (c.map (·.nest)).getD 0, core := k.core
      pt := (c.map (·.point.coords)).getD [] }

/-- CARD_PAGE_PAUSE (R246, R351): a missing page pauses the card; its request is raised at once, or when a number is free
again. -/
def execCardPagePause (id : Nat) (s : State) : Result :=
  .next (match s.anyCard id with
    | none => s
    | some k =>
      if k.req.isSome then s
      else if k.paused then
        match k.miss with
        | some (need, va) => s.raisePage k need va
        | none => s
      else match (s.cardOuts k).findSome? (fun o => match o.1 with | .page n va => some (n, va) | _ => none) with
        | none => s
        | some (need, va) => s.raisePage k need.bits va)

/-- The bytes of a card's local lines become indeterminate, and the objects that count them are flagged (R200,
R246). -/
def State.spoil (s : State) (k : Card) (ts : List (Nat × Nat)) : State :=
  let s1 := ts.foldl (fun (s : State) t =>
    if t.1 = 0 then s
    else
      let ms := (s.lineMoves k t.1 t.2).map (·.1)
      let (bs, s1) := s.fillFree (ms.map (fun _ => none))
      s1.onCrew t.1 (fun c => c.putLocal (ms.zip bs))) s
  let crews := if k.kind = .multicast then k.receivers else [k.who.crew]
  crews.foldl (fun s q => s.barAbandon q (k.barIn q)) s1

/-- A card request is closed (R354). -/
def State.closeRequest (s : State) (k : Card) : State :=
  match k.req with
  | some r => s.onFunc k.fn (fun q => { q with cardReqs := q.cardReqs.set r none })
  | none => s

/-- A card is discarded (R243, R246): its lines, its barrier objects, its stores, its request. -/
def State.discardCard (s : State) (k : Card) : State :=
  let s1 := (s.spoil k (s.targets k)).closeRequest k
  let s2 := { s1 with insts := s1.insts.filter (fun i => i.card != some k.id) }
  (s2.releaseStores k).leaveRing k.id

/-- The replay packets of a card go, their lines full and indeterminate (R246, R258). -/
def State.dropReplays (s : State) (id : Nat) : State :=
  (s.crewList).foldl (fun s e =>
    match e.2.lineReplay.find? (·.card.id == id) with
    | none => s
    | some r0 =>
      let ls := (e.2.lineReplay.filter (·.card.id == id)).map (fun r => (e.1, r.line))
      let s1 := ls.foldl (fun (s : State) t =>
        let ms := (s.lineMoves r0.card t.1 t.2).map (·.1)
        let (bs, s1) := s.fillFree (ms.map (fun _ => none))
        s1.onCrew t.1 (fun c => c.putLocal (ms.zip bs))) s
      (s1.onCrew e.1 (fun c => { c with lineReplay := c.lineReplay.filter (·.card.id != id) })).barAbandon e.1 r0.card.bar) s

/-- The fault that an abandoned card gives its crew (R246). -/
def cardSave (k : Card) (tid : Option Nat) (cause : Cause) (va : Nat) : SaveReq :=
  { faultSave cause 0 tid k.pc (BitVec.ofNat 64 va) 0 false with faulters := [], kind := 2 }

/-- A card is abandoned: it is discarded, and its crew is saved with the cause (R246). Lines that a receiver asks
for again fail in the receiver (log 22). -/
def State.abandonCard (s : State) (id : Nat) (cause : Cause) (va : Nat) : State :=
  let holders := (s.crewList.filter (fun e => e.2.lineReplay.any (·.card.id == id))).map (·.1)
  let k0 := (s.crewList.findSome? (fun e => (e.2.lineReplay.find? (·.card.id == id)).map (·.card)))
  let ring := (s.cards ++ s.crewList.flatMap (fun e => e.2.cards)).find? (·.id == id)
  let s1 := match ring with
    | some k => ((s.discardCard k).onCrew k.who.crew (fun c => { c with cards := c.cards.filter (·.id != id) })).lateFault
        k.who.crew (cardSave k (some k.who.tid) cause va)
    | none => s
  match k0 with
  | some k => holders.foldl (fun s q => s.lateFault q (cardSave k none cause va)) ((s1.dropReplays id).closeRequest k)
  | none => s1

/-- CARD_ABANDON (R246, R334, R335): a line of the card faults, or a peer does not give its bytes. -/
def execCardAbandon (id : Nat) (cause : Cause) (s : State) : Result :=
  .next (match s.anyCard id with
    | none => s
    | some k =>
      let outs := s.cardOuts k
      let s := if cause = .poison then
          (outs.filter (fun o => match o.1 with | .fault .poison _ => true | _ => false)).foldl (fun s o =>
            (o.2.filter (fun x => !x.2.peer)).foldl (fun (s : State) x => s.meetPoison x.2.pa 64) s) s
        else s
      let own := outs.findSome? (fun o => match o.1 with | .fault c va => if c = cause then some va else none | _ => none)
      let peer := if cause = .peerFault ∨ cause = .peerTimeout then
          outs.findSome? (fun o => (o.2.find? (fun x => x.2.peer && k.asks.any (fun a => a.key == x.1 && a.data.isNone &&
            (decide (a.sent + s.peerLimit ≤ s.fab) == (cause == Cause.peerTimeout))))).map (fun x => 64 * x.1))
        else none
      match own, peer with
      | some va, _ => s.abandonCard id cause va
      | none, some va => s.abandonCard id cause va
      | none, none => s)

/-! ## Engine resets (R240, R356) -/

/-- A matrix card that has run 2^16 cycles (R240). -/
def State.hungCard (s : State) (core : Nat) : Option Card :=
  (s.ring core).find? (fun k => k.kind.isMatrix && k.started && decide (k.startAt + 2 ^ 16 * Config.fabPerCycle ≤ s.fab))

/-- A crew with matrix cards on an engine faults, and its cards go (R240). -/
def State.engineFault (s : State) (crew : Nat) (ks : List Card) : State :=
  match ks with
  | [] => s
  | k :: _ =>
    let s1 := ks.foldl (fun s k => s.leaveRing k.id) s
    (s1.settleReads crew).raiseCrew crew .engReset (some k.who.tid) k.pc

/-- ENGINE_HANG (R240, R356). -/
def execEngineHang (core : Nat) (s : State) : Result :=
  .next (match s.hungCard core with
    | none => s
    | some k =>
      let s1 := (s.crewsOn core).foldl (fun s e => s.onCrew e.1 (fun c =>
        { c.zeroRows 0 c.rcd.accRows with rowReset := (List.range c.rcd.accRows).foldl (fun m i => m.set i true) c.rowReset })) s
      let s2 := (s.crewsOn core).foldl (fun s e =>
        s.engineFault e.1 ((s.ring core).filter (fun y => y.kind.isMatrix && y.who.crew == e.1))) s1
      s2.logs (.engineReset core k.fn (((s.crew k.who.crew).map (·.nest)).getD 0) k.pc))

end Sys2Proof.Machine
end

