-- ==== Sys2Proof/Machine/Control.lean ====
section
/-!
DEFINITION. Control instructions (R92, R137 to R142): branches, the end of a thread, waits and traps.
-/
namespace Sys2Proof.Machine
open Sys2Proof

/-- NOP (R92). -/
def execNop (f : Fields) (s : State) : Result := .next (s.regOp (.nop f) f.g id)

/-- A relative target: the instruction's own address plus IMM32, sign-extended (R138). -/
def relTarget (f : Fields) (pc : Addr) : Addr := pc + f.ext.imm.signExtend 64

/-- BRA (R138). -/
def execBra (f : Fields) (s : State) : Result :=
  .next (s.issue (.bra f) f.g (fun s r t => s.putThread r (t.advance (relTarget f t.pc))))

/-- BRX (R138). -/
def execBrx (f : Fields) (s : State) : Result :=
  .next (s.issue (.brx f) f.g (fun s r t => s.putThread r (t.advance (t.pair f.a))))

/-- CALL (R138): A is read before D is written. -/
def execCall (f : Fields) (s : State) : Result :=
  .next (s.issue (.call f) f.g (fun s r t =>
    s.putThread r ((t.setPair f.d s.cur.next).advance (if f.fn = 0 then relTarget f t.pc else t.pair f.a))))

/-- RET (R138). -/
def execRet (f : Fields) (s : State) : Result :=
  .next (s.issue (.ret f) f.g (fun s r t => s.putThread r (t.advance (t.pair f.a))))

/-- YIELD (R140): the thread's age restarts; that it sits out the next cycle stands in `State.yielded`. -/
def execYield (f : Fields) (s : State) : Result := .next (s.regOp (.yield f) f.g id)

/-- The retired flag set by a release at the nest scope (R139); without effect where it is set. -/
def State.retire (s : State) (r : ThreadRef) (t : Thread) (k : State → State) : State :=
  if t.retired then k s
  else s.release r (fun s => k (s.onThread r (fun t => { t with retired := true })))

/-- RETIRE (R139). -/
def execRetire (f : Fields) (s : State) : Result :=
  .next (s.issue (.retire f) f.g (fun s r t =>
    s.outsideTx r t (fun s => s.retire r t (fun s => s.proceed r))))

/-- A thread leaves its crew (R139): its pending loads are discarded; the crew ends with its last thread (R105). -/
def State.leave (s : State) (r : ThreadRef) : State :=
  let s1 := { s with loads := s.loads.filter (fun (l : Load) => l.who != r) }
  let s2 := s1.onThread r (fun t => { t with status := .exited, age := 0 })
  s2.onCrew r.crew (fun c => { c with ended := c.liveThreads.isEmpty })

/-- EXIT by one thread (R139, R320): a trump ends first. -/
def State.exitThread (s : State) (r : ThreadRef) (t : Thread) : State :=
  s.outsideTx r t (fun s =>
    let s1 := if t.tx.state = .irrevocable then s.endTrump r else s
    s1.retire r t (fun s => s.leave r))

/-- EXIT (R113, R139). -/
def execExit (f : Fields) (s : State) : Result :=
  .next ((s.issue (.exit f) f.g (fun s r t => s.exitThread r t)).settle s.cur.crew)

/-- SLEEP (R140): 0 has no effect. -/
def execSleep (f : Fields) (s : State) : Result :=
  .next (s.issue (.sleep f) f.g (fun s r t =>
    let n := (t.srcAi f .z32).toNat
    if n = 0 then s.proceed r
    else s.putThread r { t with
      pc := s.cur.next, age := 0, status := .sleeping (s.fab + n * Config.fabPerCycle) }))

/-- SLEEP_EXPIRE (R140). -/
def execSleepExpire (crew tid : Nat) (s : State) : Result :=
  .next (match s.thread ⟨crew, tid⟩ with
    | some t => match t.status with
      | .sleeping w => if w ≤ s.fab then s.putThread ⟨crew, tid⟩ { t with status := .runnable, age := 0 } else s
      | _ => s
    | none => s)

/-- TRAP (R142). -/
def execTrap (f : Fields) (s : State) : Result :=
  .next (s.issue (.trap f) f.g (fun s r _ => s.raiseCode r .trap (f.ext.imm.toNat % 256) 0))

/-- BRK (R142). -/
def execBrk (f : Fields) (s : State) : Result := .next (s.issue (.brk f) f.g (fun s r _ => s.raise r .brk))

/-! ## WAITA (R141) -/

/-- The registers of WAITA's destination. -/
def waitaRegs (width d : Nat) : List Nat := if d = 127 then [] else if width = 8 then [d, d + 1] else [d]

/-- The thread sleeps at its WAITA with D empty (R141). -/
def Thread.sleepAt (t : Thread) (va pa width : Nat) (b : DWord) (d : Nat) (acq : Scope) (next : Addr) : Thread :=
  { t.mark (waitaRegs width d) true with age := 0, status := .waita va pa width b d acq next }

/-- The thread takes the word that it read and goes on (R141). -/
def Thread.wakeWith (t : Thread) (width d : Nat) (v : Nat) (next : Addr) : Thread :=
  let ws := if width = 8 then [BitVec.ofNat 32 v, BitVec.ofNat 32 (v / 2 ^ 32)] else [BitVec.ofNat 32 v]
  ((t.setRegs d ws).mark (waitaRegs width d) false).advance next

/-- A word that WAITA has read: it wakes and acquires, or sleeps on (R141). -/
def State.waitaWord (s : State) (r : ThreadRef) (va pa width : Nat) (b : DWord) (d : Nat) (acq : Scope) (next : Addr)
    (bytes : List Byte) : State :=
  if BitVec.ofNat 64 (leValue bytes) = b then s.onThread r (·.sleepAt va pa width b d acq next)
  else (s.onThread r (·.wakeWith width d (leValue bytes) next)).acquire r acq

/-- Sends a peer WAITA's read (R141); one of an IO page keeps the order of IO accesses (R285). -/
def State.waitaAsk (s : State) (r : ThreadRef) (t : Thread) (kind : Pbmt) (va pa width : Nat) (b : DWord) (d : Nat) (acq : Scope)
    (next : Addr) : State :=
  let (id, s0) := s.newId
  let l : Load := {
    id := id, who := r, space := .peer, va := va, pa := pa, width := width, count := 1, d := d, ty := .b32, form := 2
    kind := kind, acq := acq, nowait := false, data := none, atomic := false, tx := false, poison := false
    cmp := some b, sync := false, acc := none, pc := t.pc, grp := 0, tag := s.tagFor true, sent := s.fab }
  ({ s0 with loads := s0.loads ++ [l] }).onThread r (·.sleepAt va pa width b d acq next)

/-- WAITA (R141). -/
def execWaita (f : Fields) (s : State) : Result :=
  .next (s.issue (.waita f) f.g (fun s r t =>
    let va := t.globalAddr f
    let n := tyBytes f.ty
    let b := t.srcB f f.ty
    let acq := if f.rm = 1 then f.sc else .none
    s.withAccess r va n .read false (fun s c tg =>
      s.outsideTx r t (fun s =>
        if tg.peer then
          if s.acqPending r || (tg.kind == .io && s.ioBusy r) then s.stay r
          else s.waitaAsk r t tg.kind va.toNat tg.pa n b f.d.toNat acq s.cur.next
        else s.withRead r c t va n tg true (waitaRegs n f.d.toNat) (fun s bs =>
          s.waitaWord r va.toNat tg.pa n b f.d.toNat acq s.cur.next bs)))))

/-- WAITA_REREAD (R141): a sleeping WAITA reads its word again. -/
def execWaitaReread (crew tid : Nat) (s : State) : Result :=
  let r : ThreadRef := ⟨crew, tid⟩
  .next (match s.thread r, s.crew crew with
    | some t, some c => match t.status with
      | .waita va pa width b d acq next =>
        if c.loc.isNone || c.save.isSome then s
        else if s.isPeer pa then
          if (s.loadsOf r).any (fun (l : Load) => l.cmp.isSome) then s else s.waitaAsk r t .pma va pa width b d acq next
        else if s.marked (pa / 128) (some r) true then s
        else if s.homeBusy pa then s
        else if regionOf pa = .view ∧ s.viewOf pa = none then
          (s.onThread r (·.mark (waitaRegs width d) false)).syncFault r t .perm (BitVec.ofNat 64 va) next (waitaRegs width d)
        else if !s.ownedBy (ownerCode c.fn) pa then
          (s.onThread r (·.mark (waitaRegs width d) false)).syncFault r t .owner (BitVec.ofNat 64 va) next (waitaRegs width d)
        else if s.runBad pa width then
          ((s.meetPoison pa width).onThread r (·.mark (waitaRegs width d) false)).syncFault r t .poison (BitVec.ofNat 64 va)
            next (waitaRegs width d)
        else
          let (bs, s1) := (s.want c.fn 0 pa width).blurred c.fn va (s.bytesAt pa width)
          s1.waitaWord r va pa width b d acq next bs
      | _ => s
    | _, _ => s)

end Sys2Proof.Machine
end

