-- ==== Sys2Proof/Machine/Walker.lean ====
section
/-!
DEFINITION. The walker of a partition and its deal queues (R52 to R67), and the revocation of lent clusters that
a short lender starts (R72, R73).
-/
namespace Sys2Proof.Machine
open Sys2Proof

/-! ## Iteration space -/

/-- Outer walked levels: those a row tuple names. -/
def Nest.outer (n : Nest) : Nat := n.rcd.walk - 1

/-- Bounds of walked level `k` at outer coordinates, with constants `his`. -/
def Nest.bounds (n : Nest) (his : List Int) (k : Nat) (outer : List Int) : Int × Int :=
  (n.rcd.lo k outer, n.rcd.hi his k outer)

/-- A tuple lies inside the bounds of the outer levels. -/
def Nest.inside (n : Nest) (his : List Int) (tup : List Int) : Bool :=
  (List.range n.outer).all (fun k =>
    let (lo, hi) := n.bounds his k (tup.take k)
    decide (lo ≤ tup.getD k 0) && decide (tup.getD k 0 < hi))

/-- Lexicographic order; a prefix comes first. -/
def lexLt : List Int → List Int → Bool
  | [], [] => false
  | [], _ :: _ => true
  | _ :: _, [] => false
  | a :: as, b :: bs => decide (a < b) || (a == b && lexLt as bs)

/-- The first of `n` values from `v` up for which `f` answers. -/
def firstFrom {α : Type} (f : Int → Option α) : Nat → Int → Option α
  | 0, _ => none
  | n + 1, v =>
    match f v with
    | some r => some r
    | none => firstFrom f n (v + 1)

/-- The smallest tuple inside the bounds that is not below `ptr`, from a prefix of it, with `k` levels to go. -/
def Nest.seek (n : Nest) (ptr : List Int) : Nat → List Int → Bool → Option (List Int)
  | 0, pre, _ => some pre
  | k + 1, pre, tight =>
    let i := pre.length
    let (lo, hi) := n.bounds n.hi i pre
    let from_ := if tight then max lo (ptr.getD i lo) else lo
    firstFrom (fun v => n.seek ptr k (pre ++ [v]) (tight && ptr[i]? == some v)) (hi - from_).toNat from_

/-- The tuple that the opening pointer opens next (R53). -/
def Nest.nextTuple (n : Nest) : Option (List Int) :=
  match n.ptr with
  | none => none
  | some p => n.seek p n.outer [] true

/-- The opening pointer after a tuple (log 17). -/
def pointerAfter (tup : List Int) : Option (List Int) :=
  match tup.reverse with
  | [] => none
  | x :: xs => some ((x + 1) :: xs).reverse

/-- The tuples inside the bounds `his`, in lexicographic order. -/
def Nest.tuples (n : Nest) (his : List Int) : Nat → List Int → List (List Int)
  | 0, pre => [pre]
  | k + 1, pre =>
    let (lo, hi) := n.bounds his pre.length pre
    (List.range (hi - lo).toNat).flatMap (fun (i : Nat) => n.tuples his k (pre ++ [lo + i]))

/-- A tuple that the opening pointer has passed. -/
def Nest.below (n : Nest) (tup : List Int) : Bool :=
  match n.ptr with
  | none => true
  | some p => lexLt tup p

/-- Points of a tuple's row under constants `his`, none where the tuple is outside. -/
def Nest.rowCount (n : Nest) (his : List Int) (tup : List Int) : Nat :=
  if n.inside his tup then
    let (lo, hi) := n.bounds his n.outer tup
    (hi - lo).toNat
  else 0

/-! ## Walker state -/

/-- An installed nest of a walker. -/
def Walker.nest (w : Walker) (id : Nat) : Option Nest := w.nests.get id

/-- Changes an installed nest. -/
def Walker.onNest (w : Walker) (id : Nat) (f : Nest → Nest) : Walker :=
  match w.nests.get id with
  | some n => { w with nests := w.nests.set id (some (f n)) }
  | none => w

/-- Rows of a nest, oldest first. -/
def Walker.rowsOf (w : Walker) (id : Nat) : List Row := w.rows.filter (·.nest == id)

/-- Changes the row of a tuple. -/
def Walker.onRow (w : Walker) (id : Nat) (tup : List Int) (f : Row → Row) : Walker :=
  { w with rows := w.rows.map (fun r => if r.nest = id ∧ r.tuple = tup then f r else r) }

/-- Nest identifiers in round-robin order after `last`. -/
def roundRobin (last : Nat) : List Nat := (List.range 32).map (fun i => (last + 1 + i) % 32)

/-- A nest may take another row (R53). -/
def Walker.canRow (w : Walker) (id : Nat) : Bool :=
  let mine := (w.rowsOf id).length
  let lent := (List.range 32).foldl (fun n i => n + ((w.rowsOf i).length - Config.guaranteedRows)) 0
  decide (mine < Config.guaranteedRows) ||
    (decide (mine < Config.maxRows) && decide (lent < Config.rows - Config.nests * Config.guaranteedRows))

/-- A nest that waits to open a row: the tuple it opens next. -/
def Walker.opens (w : Walker) (id : Nat) : Option (List Int) :=
  match w.nest id with
  | some n => if n.finishing || !w.canRow id then none else n.nextTuple
  | none => none

/-- The first identifier that answers, in round-robin order. -/
def firstOf {α : Type} (f : Nat → Option α) : List Nat → Option (Nat × α)
  | [] => none
  | i :: is =>
    match f i with
    | some a => some (i, a)
    | none => firstOf f is

/-- The partition's walker acts for a running function (R62, R78). -/
def State.walks (s : State) (p : Nat) : Option Nat :=
  if (s.part p).switching then none else (s.part p).running

/-- ROW_OPEN (R53): the tuple at the opening pointer opens its row, or is passed over where it has no point. -/
def execRowOpen (part : Nat) (s : State) : Host.Outcome State Fault Refusal :=
  .next (match s.walks part with
    | none => s
    | some _ =>
      let w := s.walker part
      match firstOf w.opens (roundRobin w.rrOpen) with
      | none => s
      | some (id, tup) =>
        match w.nest id with
        | none => s
        | some n =>
          let (lo, hi) := n.bounds n.hi n.outer tup
          let w1 := w.onNest id (fun n => { n with ptr := pointerAfter tup })
          let w2 := if hi ≤ lo then w1 else { w1 with
            rrOpen := id
            rows := w1.rows ++ [{
              nest := id, tuple := tup, lo := lo, hi := hi, wm := 0, done := 0, issued := 0, closed := false }] }
          s.onWalker part (fun _ => w2))

/-! ## Readiness (R55, R56) -/

/-- The dependence on point `q` is met (R56). -/
def Walker.depMet (w : Walker) (n : Nest) (rows : List Row) (q : List Int) : Bool :=
  let tup := q.take n.outer
  let j := q.getD n.outer 0
  let row := rows.find? (·.tuple == tup)
  let (lo, hi) := match row with
    | some r => (r.lo, r.hi)
    | none => n.bounds n.hi n.outer tup
  if !n.inside n.hi tup || decide (j < lo) || decide (hi ≤ j) then true
  else match rows.head? with
    | none => true
    | some o =>
      if lexLt tup o.tuple then true
      else match row with
        | none => true
        | some r =>
          let k := j - r.lo - r.wm
          r.closed || decide (k < 0) || (decide (k < 64) && r.done.getLsbD k.toNat)

/-- Point `b` of a row's window is ready (R55, R56). -/
def Walker.pointReady (w : Walker) (n : Nest) (rows : List Row) (r : Row) (b : Nat) : Bool :=
  let j := r.lo + r.wm + b
  decide (j < r.hi) && !r.issued.getLsbD b && !r.done.getLsbD b &&
    n.rcd.deps.all (fun d => w.depMet n rows ((List.range n.rcd.walk).map (fun k =>
      (if k < n.outer then r.tuple.getD k 0 else j) - d.getD k 0)))

/-- The point that a nest releases next: the oldest row first, ascending j (R57). -/
def Walker.nextPoint (w : Walker) (id : Nat) : Option (Row × Nat) :=
  match w.nest id with
  | none => none
  | some n =>
    let rows := w.rowsOf id
    (rows.filter (fun r => !r.closed)).findSome? (fun r =>
      ((List.range 64).find? (w.pointReady n rows r)).map (fun b => (r, b)))

/-- Coordinates of a point of a row. -/
def Row.point (r : Row) (b : Nat) : List Int := r.tuple ++ [r.lo + r.wm + b]

/-- Marks a point released (R57). -/
def Walker.issuePoint (w : Walker) (id : Nat) (r : Row) (b : Nat) : Walker :=
  (w.onRow id r.tuple (fun r => { r with issued := r.issued ||| BitVec.ofNat 64 (2 ^ b) })).onNest id
    (fun n => { n with released := n.released + 1 })

/-! ## Deal queues (R63, R66, R67) -/

/-- A deal queue. -/
def Walker.queue (w : Walker) (q : Nat) : List Entry := w.queues.get q

/-- Free entries of a deal queue. -/
def Walker.room (w : Walker) (q : Nat) : Nat := Config.dealEntries - (w.queue q).length

/-- An APPEND packet waits on a deal queue (R67). -/
def Walker.packetWaits (w : Walker) (q : Nat) : Bool := w.waits.any (·.1 == q)

/-- Inserts entries at the end of a deal queue (R63). -/
def Walker.insert (w : Walker) (q : Nat) (es : List Entry) : Walker :=
  { w with queues := w.queues.set q (w.queue q ++ es) }

/-- A work entry (R65). -/
def workEntry (key : DWord) (payload : List DWord) : Entry :=
  { key := key, passed := 0, point := none, payload := payload }

/-- The entries of a queue that a drawer may have, each with its place in the queue, smallest key first, the earlier inserted
first on equal keys (R63). -/
def eligible (q : List Entry) (ok : Entry → Bool) : List (Nat × Entry) :=
  (((List.range q.length).zip q).filter (fun x => ok x.2)).foldl (fun acc x =>
    acc.takeWhile (fun y => decide (y.2.key.toNat ≤ x.2.key.toNat)) ++ x ::
      acc.dropWhile (fun y => decide (y.2.key.toNat ≤ x.2.key.toNat))) []

/-- The queue after a draw: the entry at a place leaves; those that have been the smallest are passed over (R66). -/
def afterDraw (q : List Entry) (ok : Entry → Bool) (i : Nat) : List Entry :=
  let least := (eligible q ok).head?.map (·.1)
  ((List.range q.length).zip q).filterMap (fun x =>
    if x.1 = i then none
    else if ok x.2 && (some x.1 == least || decide (0 < x.2.passed)) then some { x.2 with passed := x.2.passed + 1 }
    else some x.2)

/-- Every entry of a list that draws have passed over can still be returned by its 31st draw at the latest: at most
`32 - t` entries have been passed over `t` times or more (R66). -/
def boundsHold (q : List Entry) : Bool :=
  (List.range 32).all (fun i => decide ((q.filter (fun e => decide (i + 1 ≤ e.passed))).length ≤ 31 - i))

/-- The entry that has been passed over most often, the first of several. -/
def mostPassed : List (Nat × Entry) → Option (Nat × Entry)
  | [] => none
  | e :: es =>
    match mostPassed es with
    | some m => some (if m.2.passed ≤ e.2.passed then e else m)
    | none => some e

/-- A work entry, which DRAW draws. -/
def Entry.isWork (e : Entry) : Bool := e.point.isNone

/-- The entry that a draw returns, with its place: any of the 32 smallest eligible ones as long as every entry of its kind can
keep the bound of 31 draws (R66), else the one of these 32 that has been passed over most often (log 123). -/
def drawn (q : List Entry) (ok : Entry → Bool) (pick : Nat) : Option (Nat × Entry) :=
  let el := (eligible q ok).take 32
  match el[pick % el.length]? with
  | none => none
  | some x => if boundsHold ((afterDraw q ok x.1).filter (fun y => y.isWork == x.2.isWork)) then some x else mostPassed el

/-- The key of a point entry (R64). -/
def pointKey (prio relCount : Nat) : DWord := BitVec.ofNat 64 ((15 - prio) * 2 ^ 60 + relCount % 2 ^ 60)

/-- Wakes the threads that sleep in DRAW on a deal queue: each draws again (R147). -/
def State.wakeDrawers (s : State) (part q : Nat) : State :=
  { s with crews := s.crews.map (fun e => (e.1, e.2.map (fun c =>
      if c.part = part ∧ c.loc.isSome then
        c.mapThreads (fun _ t => match t.status with
          | .drawing k d => if k = q then
              { t.mark ((List.range 8).map (d + ·)) false with status := .runnable, age := 0 } else t
          | _ => t)
      else c))) }

/-! ## Lending and revocation (R72, R73) -/

/-- The nest record of a point entry in a walker. -/
def Walker.rcdOf (w : Walker) (p : PointEntry) : Option NestRec := (w.nest p.nest).map (·.rcd)

/-- A partition is short (R72): a point entry with PLACE 0 finds room on none of its cores. -/
def State.short (s : State) (p : Nat) : Bool :=
  match s.walks p with
  | none => false
  | some fn =>
    let w := s.walker p
    (List.range 4).any (fun q => (w.queue q).any (fun e =>
      match e.point with
      | some pt =>
        match w.rcdOf pt with
        | some r => pt.place == 0 && !(List.range Config.cores).any (fun c => s.coreTakes p c 0 0 && s.roomFor c fn r)
        | none => false
      | none => false))

/-- Revocation of a lent cluster begins (R73): it starts no crew, and the borrower's crews there are saved. A
second trigger does nothing (R74). -/
def State.revoke (s : State) (k : Nat) : State :=
  if (s.cluster k).lent.isNone || (s.cluster k).revoking then s
  else
    let s1 := s.onCluster k (fun c => { c with revoking := true })
    (s1.crewList.filter (fun e => e.2.loc.isSome && e.2.cluster == k && !e.2.ended)).foldl
      (fun s e => s.beginSave e.1 (plainSave 4)) s1

/-- Revokes the lent clusters of a partition (R73). -/
def State.revokeAll (s : State) (p : Nat) : State :=
  ((List.range Config.clusters).filter (fun k => s.clusterPart k == p)).foldl State.revoke s

/-- A lender that has become short takes its clusters back (R73). -/
def State.revokeIfShort (s : State) (p : Nat) : State := if s.short p then s.revokeAll p else s

/-! ## Releases, retirements, raises, completion -/

/-- A point entry for a point of a nest (Table 4-2). -/
def State.pointEntry (s : State) (part id : Nat) (n : Nest) (pt : List Int) : PointEntry :=
  let (place, unit) := n.rcd.placement (s.guaranteed part).length pt
  { coords := pt.map (BitVec.ofInt 32), nest := id, place := place, unit := unit }

/-- The point that a spawned nest may release: its queue has a free entry and no APPEND packet waits on it (R57,
R67). -/
def Walker.releasable (w : Walker) (id : Nat) : Option (Row × Nat) :=
  match w.nest id with
  | none => none
  | some n =>
    if n.rcd.resident || w.room n.rcd.dq == 0 || w.packetWaits n.rcd.dq then none else w.nextPoint id

/-- POINT_RELEASE (R57, R64). -/
def execPointRelease (part : Nat) (s : State) : Host.Outcome State Fault Refusal :=
  .next (match s.walks part with
    | none => s
    | some _ =>
      let w := s.walker part
      match firstOf w.releasable (roundRobin w.rrRel) with
      | none => s
      | some (id, r, b) =>
        match w.nest id with
        | none => s
        | some n =>
          let e : Entry := {
            key := pointKey n.rcd.prio w.relCount, passed := 0
            point := some (s.pointEntry part id n (r.point b)), payload := [] }
          let w1 := (w.issuePoint id r b).insert n.rcd.dq [e]
          (s.onWalker part (fun _ => { w1 with rrRel := id, relCount := w.relCount + 1 })).revokeIfShort part)

/-- Shifts the retired points at the watermark out of a row's window (R54). -/
def Row.shift : Nat → Row → Row
  | 0, r => r
  | k + 1, r =>
    if r.done.getLsbD 0 then
      Row.shift k { r with wm := r.wm + 1, done := r.done >>> 1, issued := r.issued >>> 1 }
    else r

/-- A retirement in a row (R54). -/
def Row.retire (r : Row) (j : Int) : Row :=
  let b := (j - r.lo - r.wm).toNat
  let r1 := Row.shift 64 { r with done := r.done ||| BitVec.ofNat 64 (2 ^ b) }
  { r1 with closed := decide ((r1.wm : Int) = r1.hi - r1.lo) }

/-- Closed rows leave while they are the oldest of their nest (R54). -/
def leaveRows (id : Nat) : List Row → List Row
  | [] => []
  | r :: rs =>
    if r.nest = id then (if r.closed then leaveRows id rs else r :: rs)
    else r :: leaveRows id rs

/-- The walker acts on the RETIRE of a point (R54). -/
def Walker.retire (w : Walker) (id : Nat) (pt : List Int) : Walker :=
  match w.nest id with
  | none => w
  | some n =>
    let tup := pt.take n.outer
    let w1 := w.onNest id (fun n => { n with retired := n.retired + 1, held := n.held - 1 })
    let w2 := w1.onRow id tup (fun r => r.retire (pt.getD n.outer 0))
    { w2 with rows := leaveRows id w2.rows }

/-- The coordinates of a crew's point. -/
def Crew.coords (c : Crew) : List Int := c.point.coords.map (·.toInt)

/-- Every thread of a crew has retired or exited, and the stores of an aborted crew's threads are answered, whether they had
retired or not (R139, R360; it holds no frame any more); a crew lost with its cluster sends no event (R357). -/
def Crew.retireDue (c : Crew) : Bool :=
  c.holdsPoint && !(c.loc.isNone && c.fst.state == 1) && c.threadList.all (fun t =>
    (t.2.retired && c.frame != 8192) || (t.2.status == .exited && t.2.unack == 0 && t.2.unackNc == 0))

/-- RETIRE_EVENT (R54, R139). -/
def execRetireEvent (crew : Nat) (s : State) : Host.Outcome State Fault Refusal :=
  .next (match s.crew crew with
    | none => s
    | some c =>
      if !c.retireDue || (s.part c.part).running != some c.fn then s
      else (s.putCrew crew { c with holdsPoint := false }).onWalker c.part (fun w => w.retire c.nest c.coords))

/-- The points that a raise forgoes (R59): those added to tuples below the opening pointer whose rows are closed,
gone or were never opened. -/
def Walker.forgone (w : Walker) (id : Nat) (n : Nest) (his : List Int) : Nat :=
  let rows := w.rowsOf id
  ((n.tuples his n.outer []).filter n.below).foldl (fun acc tup =>
    if rows.any (fun r => r.tuple == tup && !r.closed) then acc
    else acc + (n.rowCount his tup - n.rowCount n.hi tup)) 0

/-- Raises the constant HI of a walked level (R59). -/
def Walker.raiseHi (w : Walker) (id level : Nat) (v : Int) : Walker :=
  match w.nest id with
  | none => w
  | some n =>
    if v ≤ n.hi.getD level 0 then w
    else
      let his := n.hi.set level v
      let gone := w.forgone id n his
      let w1 := w.onNest id (fun n => { n with hi := his, forgone := n.forgone + gone })
      { w1 with rows := w1.rows.map (fun r =>
          if r.nest = id ∧ !r.closed then { r with hi := (n.bounds his n.outer r.tuple).2 } else r) }

/-- BNDSET_EVENT (R59, R149): the walker raises the bound, or refuses a crew that holds no point. -/
def execBndsetEvent (crew tid : Nat) (s : State) : Host.Outcome State Fault Refusal :=
  let r : ThreadRef := ⟨crew, tid⟩
  .next (match s.crew crew, s.thread r with
    | some c, some t => match t.status with
      | .bndset level v next =>
        if c.loc.isNone || c.save.isSome || s.walks c.part != some c.fn then s
        else if !c.holdsPoint then
          ({ s with cur := { s.cur with next := next } } : State).raise r .nestBad
        else (s.putThread r (t.advance next)).onWalker c.part (fun w => w.raiseHi c.nest level v.toInt)
      | _ => s
    | _, _ => s)

/-- A nest whose three conditions of completion hold (R61). -/
def Walker.complete (w : Walker) (id : Nat) : Bool :=
  match w.nest id with
  | some n => !n.finishing && n.nextTuple.isNone && (w.rowsOf id).isEmpty && n.held == 0
  | none => false

/-- Frees a nest's identifier (R61). -/
def Walker.freeNest (w : Walker) (id : Nat) : Walker := { w with nests := w.nests.set id none }

/-- Frees the identifier of a nest whose completion write has been made, if it still holds that nest (R61). -/
def Walker.freeFinished (w : Walker) (id uid : Nat) : Walker :=
  match w.nest id with
  | some n => if n.finishing && n.uid == uid then w.freeNest id else w
  | none => w

/-- The record of a completion write that faults (R31). -/
def completionFault (cause : Cause) (done : DWord) (id : Nat) : FaultRec :=
  { cause := causeCode cause, kind := 4, code := 0, handle := 0xFFFF, tid := 0xFFFF, pc := 0, faddr := done
    nest := id, core := 0, pt := [] }

/-- A nest completes: its completion write is sent, or it is gone where it has none or the write faults (R31, R61). -/
def State.completeNest (s : State) (part id : Nat) (n : Nest) : State :=
  if n.rcd.doneAddr = 0 then s.onWalker part (·.freeNest id)
  else
    match s.unitStore (.completion n.fn id n.uid) n.fn n.rcd.doneAddr.toNat (leBytes 8 n.rcd.doneVal.toNat) with
    | (none, s1) => s1.onWalker part (fun w => w.onNest id (fun n => { n with finishing := true }))
    | (some c, s1) => (s1.record n.fn (completionFault c n.rcd.doneAddr id)).onWalker part (·.freeNest id)

/-- NEST_COMPLETION (R31, R61). -/
def execNestCompletion (part nest : Nat) (s : State) : Host.Outcome State Fault Refusal :=
  .next (match s.walks part, (s.walker part).nest nest with
    | some _, some n => if (s.walker part).complete nest then s.completeNest part nest n else s
    | _, _ => s)

/-- Some tuple with a prefix has a point. -/
def Nest.hasPoint (n : Nest) : Nat → List Int → Bool
  | 0, pre =>
    let (lo, hi) := n.bounds n.hi n.outer pre
    decide (lo < hi)
  | k + 1, pre =>
    let (lo, hi) := n.bounds n.hi pre.length pre
    (firstFrom (fun v => if n.hasPoint k (pre ++ [v]) then some v else none) (hi - lo).toNat lo).isSome

/-- A nest whose walked space is empty completes as it is installed (R31). -/
def State.completeIfEmpty (s : State) (part id : Nat) (n : Nest) : State :=
  if n.hasPoint n.outer [] then s
  else (s.onWalker part (fun w => w.onNest id (fun n => { n with ptr := none }))).completeNest part id n

/-- The completion write of a nest is settled at this device. -/
def State.completionSettled (s : State) (part nest : Nat) (w : Write) : Bool :=
  match w.by_ with
  | .completion fn id _ => s.partOf fn == part && id == nest && w.settled && w.space != .peer
  | _ => false

/-- COMPLETION_WRITE_ACK (R61): the identifier becomes free, if it still holds that nest: a function-level reset may have
removed it (R62). -/
def execCompletionWriteAck (part nest : Nat) (s : State) : Host.Outcome State Fault Refusal :=
  .next (match s.writes.find? (s.completionSettled part nest) with
    | none => s
    | some w =>
      let s1 := { s with writes := s.writes.filter (fun (x : Write) => x.id != w.id) }
      match w.by_ with
      | .completion fn id uid => s1.onShare fn (·.freeFinished id uid)
      | _ => s1)

end Sys2Proof.Machine
end

