-- ==== Sys2Proof/Machine/MemSys.lean ====
section
/-!
DEFINITION. The memory system (R262 to R281, R282, R300, R301): writes on their way to acknowledgement, stripes
and parity, lost stacks, scrubbing, channel scheduling, access counters and lazy release.
-/
namespace Sys2Proof.Machine
open Sys2Proof

/-! ## A write completes with an error (R195, R267) -/

/-- A write leaves the flow. -/
def State.dropWrite (s : State) (id : Nat) : State := { s with writes := s.writes.filter (fun (w : Write) => w.id != id) }

/-- Changes a write in the flow. -/
def State.onWrite (s : State) (id : Nat) (f : Write → Write) : State :=
  { s with writes := s.writes.map (fun (w : Write) => if w.id = id then f w else w) }

/-- The error code of a queue whose packet's access ends with a cause (R49). -/
def packetCode (c : Cause) : Nat := if c = .poison then 0x24 else 0x23

/-- Changes a packet that is under way. -/
def State.onPacket (s : State) (fn id : Nat) (f : Packet → Packet) : State :=
  let g (p : Packet) : Packet := if p.id = id then f p else p
  s.onFunc fn (fun q => { q with
    queues := q.queues.map (fun e => (e.1, e.2.map (fun k => { k with packets := k.packets.map g })))
    leftovers := q.leftovers.map g })

/-- The lowest code of a list, 0 standing for none (R49). -/
def lowest : List Nat → Nat
  | [] => 0
  | c :: cs =>
    let m := lowest cs
    if c = 0 then m else if m = 0 then c else min c m

/-- A packet takes an error code, the lowest one prevailing (R49). -/
def State.packetError (s : State) (fn id code : Nat) : State :=
  s.onPacket fn id (fun p => { p with code := lowest [p.code, code] })

/-- An answer goes to a peer (R332). -/
def State.answer (s : State) (a : PeerAnswer) : State := { s with answers := s.answers ++ [a] }

/-- A write completes with an error: its count falls and its writer learns of it (R195, R267, R291, R334). A request of a peer
is answered once, whatever pieces it has (R333). -/
def State.writeError (s : State) (w : Write) (c : Cause) : State :=
  let s1 := s.dropWrite w.id
  match w.by_ with
  | .thread r => (s1.uncount w).markErr r c
  | .card _ id => s1.abandonCard id c w.va
  | .packet fn id => s1.packetError fn id (packetCode c)
  | .completion fn nest uid =>
    (s1.record fn (completionFault c (BitVec.ofNat 64 w.va) nest)).onShare fn (·.freeFinished nest uid)
  | .unit _ => s1
  | .peer src tag func addr =>
    let rest (o : Write) : Write := if o.by_ = w.by_ then { o with by_ := .unit 64 } else o
    (({ s1 with writes := s1.writes.map rest } : State).logs (.peerFault src func addr c)).answer (.fault src tag c)

/-- A fault that answers a value-returning atomic (R390, R391): its destination stays empty. One that meets a page or fault
save under way is held in the frame, so that none is lost (log 113). -/
def State.atomAnswer (s : State) (id : Nat) (c : Cause) : State :=
  match s.loads.find? (fun (l : Load) => l.id == id) with
  | none => s
  | some l =>
    let s1 := { s with loads := s.loads.map (fun (o : Load) => if o.id = id then { o with poison := true } else o) }
    let q : SaveReq := { faultSave c 0 (some l.who.tid) l.pc (BitVec.ofNat 64 l.va) 0 true with faulters := [] }
    match s.crew l.who.crew with
    | none => s1
    | some cr =>
      if cr.loc.isNone then s1.lateFault l.who.crew q
      else match cr.save with
        | some o => if 3 ≤ o.kind ∨ o.sameFault q then s1.raiseDeferred l.who c l.pc (BitVec.ofNat 64 l.va) 0
          else s1.onCrew l.who.crew (fun c => { c with fst := { c.fst with held := c.fst.held ++ [q] } })
        | none => s1.raiseDeferred l.who c l.pc (BitVec.ofNat 64 l.va) 0

/-! ## HOME_WRITE_PERFORM (R205, R206, R212, R282, R285, R312) -/

/-- The line of a write's first byte, by the address of its access. -/
def Write.line (w : Write) : Nat := w.pa / 128

/-- A write of the same thread or of the same instruction, or a store of the same core's threads, that comes before it
on the same bytes has not been performed (R205, R212, R283, R285, R298). -/
def State.writeBehind (s : State) (w : Write) : Bool :=
  s.writes.any (fun (o : Write) => decide (o.id < w.id) && o.stage == .issued &&
    overlaps o.pa o.bytes.length w.pa w.bytes.length &&
    (o.by_ == w.by_ || (o.grp == w.grp && o.grp != 0) ||
      (w.core.isSome && o.core == w.core && o.atom.isNone && w.atom.isNone)))

/-- The order of IO accesses (R206, R285): earlier IO reads are performed, earlier IO stores acknowledged. -/
def State.ioBehind (s : State) (w : Write) : Bool :=
  w.kind == .io &&
  match w.by_ with
  | .thread r =>
    s.loads.any (fun (l : Load) => l.kind == .io && l.who == r && decide (l.id < w.id)) ||
    s.writes.any (fun (o : Write) => o.kind == .io && decide (o.id < w.id) && (o.by_ == .thread r || (o.grp == w.grp && o.grp != 0)))
  | _ => false

/-- The thread whose write it is, if a thread's. -/
def Write.thread? (w : Write) : Option ThreadRef :=
  match w.by_ with
  | .thread r => some r
  | _ => none

/-- A write is performed after everything that goes before it, and once its view is not going into or out of service (R162). -/
def State.mayPerform (s : State) (w : Write) : Bool :=
  w.stage == .issued && w.space != .peer && !s.writeBehind w && !s.ioBehind w && !s.marked w.line w.thread? false &&
    !s.viewBusy w.pa && !(w.atom.isSome && s.homeBusy w.pa)

/-- The write as it stands once performed: its stored bytes, last in the order of performance. -/
def State.performed (s : State) (w : Write) (pa : Nat) (bytes : List Byte) : State :=
  let s1 := (s.writeHome pa bytes).dropWrite w.id
  let s2 : State := { s1 with writes := s1.writes ++ [{ w with stage := .home, pa := pa, bytes := bytes }] }
  match w.thread? with
  | some r => s2.trumpLine r w.pa
  | none => s2

/-- An atomic is performed: the old value goes back, the new one is written (R212, R213). -/
def State.performAtom (s : State) (w : Write) (a : AtomOp) : State :=
  let n := w.bytes.length
  if s.runBad w.pa n then
    match a.d with
    | some _ => ((((s.meetPoison w.pa n).dropWrite w.id).uncount w).atomAnswer w.id .poison)
    | none => (s.meetPoison w.pa n).writeError w .poison
  else
    let (old, s0) := s.blurred (if w.owner < 2 then 64 else w.owner - 2) w.va (s.bytesAt w.pa n)
    let s1 := { s0 with loads := s.loads.map (fun (l : Load) => if l.id = w.id ∧ l.atomic then { l with data := some old } else l) }
    s1.performed w w.pa (a.newBytes old)

/-- A write in flight is performed, or found to lie in a frame that is not its requester's (R195). -/
def State.perform (s : State) (w : Write) : State :=
  if !s.ownedBy w.owner w.pa then
    match w.atom.bind (·.d) with
    | some _ => ((s.dropWrite w.id).uncount w).atomAnswer w.id .owner
    | none => s.writeError w .owner
  else match w.atom with
    | some a => s.performAtom w a
    | none =>
      let (pa, bytes) := s.stored w.pa w.bytes
      s.performed w pa bytes

/-- An agent of the host writes bytes of one sector (R282). -/
def agentWriteOk (pa : Nat) (bytes : List Byte) : Bool :=
  (regionOf pa == .hbm || regionOf pa == .capacity) && !bytes.isEmpty && decide (pa % 64 + bytes.length ≤ 64)

/-- HOME_WRITE_PERFORM (R282). -/
def execHomeWritePerform (w : HomeWrite) (s : State) : Result :=
  .next (match w with
    | .inflight id =>
      match s.writes.find? (fun (w : Write) => w.id == id) with
      | some w => if s.mayPerform w then s.perform w else s
      | none => s
    | .agent pa bytes =>
      if agentWriteOk pa bytes && !s.marked (pa / 128) none false then
        let (id, s0) := s.newId
        (s0.writeHome pa bytes).pushWrite { unitWrite id (.unit 64) 64 pa bytes (s.lazyOwner 0) false with stage := .home, owner := 0 }
      else s)

/-! ## Stripes and parity (R262 to R268) -/

/-- A run of bytes cut where a unit of 2 KiB ends. -/
def unitPieces (pa : Nat) (bytes : List Byte) : List (Nat × List Byte) :=
  let n := 2048 - pa % 2048
  if bytes.length ≤ n then [(pa, bytes)] else [(pa, bytes.take n), (pa + n, bytes.drop n)]

/-- Stripes in the dirty-stripe table of a stack's MSC (R265). -/
def State.dirty (s : State) (stack : Nat) : List Nat := ((s.deltas.filter (fun (d : Delta) => d.stack == stack)).map (·.stripe)).dedup

/-- The MSC may apply a piece now: the table has room, and a stripe that is reconstructed has drained (R265,
R268). -/
def State.pieceMayGo (s : State) (p : Nat × List Byte) : Bool :=
  let st := stackOf p.1
  let stripe := stripeOf p.1
  if s.isLost st then !s.stripeDirty stripe
  else s.isLost (parityStack stripe) || (s.dirty st).contains stripe || decide ((s.dirty st).length < Config.dirtyStripes)

/-- The request of a sector of HBM, with its class and stamp: at its stack; of a lost unit at the eleven others of its stripe
(R268, R276). -/
def State.request (s : State) (pa fn cls : Nat) (stamp : BitVec 16) : State :=
  let st := stackOf pa
  ((if s.isLost st then (List.range Config.hbmStacks).filter (· != st) else [st])).foldl
    (fun (s' : State) k => s'.ask k fn cls stamp) s

/-- Applies a piece at its MSC: with its delta where both units stand; to parity alone where its unit is lost; to
the data alone where the parity is (R263, R268). The old value of a lost unit is the one that its stripe forms. A delta carries the class and stamp of its write (R276). -/
def State.applyPiece (s : State) (w : Write) (p : Nat × List Byte) : State :=
  let st := stackOf p.1
  let stripe := stripeOf p.1
  let s1 := { s with msc := s.msc.setList p.1 p.2 }
  if s.isLost st then
    { s1 with parity := addParity s.parity (parityKey stripe (p.1 % 2048)) (xorBytes (s.formed p.1 p.2.length) p.2) }
  else if s.isLost (parityStack stripe) then s1
  else { s1 with deltas := s.deltas ++ [{
    write := w.id, stack := st, stripe := stripe, off := p.1 % 2048, bytes := xorBytes (s.msc.getList p.1 p.2.length) p.2
    pa := p.1, lazy := w.lazy, owner := w.owner, by_ := w.by_, cls := w.cls, stamp := w.stamp, lzbit := w.lzbit
    drain := w.drain }] }

/-- An earlier write to a sector of the run waits at the MSC (R263). -/
def State.mscBehind (s : State) (w : Write) : Bool :=
  (s.writes.takeWhile (fun (o : Write) => o.id != w.id)).any (fun (o : Write) => o.stage == .home && regionOf o.pa == .hbm &&
    overlaps (o.pa / 64 * 64) ((o.pa % 64 + o.bytes.length + 63) / 64 * 64) w.pa w.bytes.length)

/-- The parity of a stripe's data at byte offset `b` (R263). -/
def State.dataParity (s : State) (stripe b n : Nat) : List Byte :=
  (List.range 11).foldl (fun acc i => xorBytes acc (s.msc.getList (stripeAddr stripe i b) n)) (List.replicate n 0)

/-- The parity sector of a data sector is made anew from the eleven data sectors as they stand (R274). -/
def State.parityAnew (s : State) (pa : Nat) : State :=
  let stripe := stripeOf pa
  let b := pa % 2048 / 64 * 64
  if s.isLost (parityStack stripe) then s
  else { s with
    parity := s.parity.setList (parityKey stripe b) (s.dataParity stripe b 64)
    parityBad := s.parityBad.set (paritySector pa) false, parityChecks := s.parityChecks.set (paritySector pa) 0 }

/-- The sectors of the other units of a stripe can form a sector of it (R268, R271). -/
def State.rebuilds (s : State) (pa : Nat) : Bool :=
  s.lost.isEmpty && !s.parityFails (paritySector pa) &&
    (List.range 11).all (fun i =>
      let a := stripeAddr (stripeOf pa) i (pa % 2048 / 64 * 64)
      a / 64 == pa / 64 || !s.checkFails (a / 64))

/-- A sector of a stack is found uncorrectable: counted (R266). -/
def State.countUncorr (s : State) (x : Nat × Nat) : State := { s with uncorr := s.uncorr ++ [(x.1, x.2, s.fab)] }

/-- The check value of a sector agrees from here on. -/
def State.checked (s : State) (k : Nat) : State := { s with checks := s.checks.set k 0 }

/-- A write covers a sector whole. -/
def Write.whole (w : Write) (k : Nat) : Bool := decide (w.pa ≤ 64 * k) && decide (64 * k + 64 ≤ w.pa + w.bytes.length)

/-- A later write has been performed over the whole of a sector and is on its way to the memory-side cache: the sector that
loads read is that write's (R273). -/
def State.replaced (s : State) (k : Nat) : Bool := s.writes.any (fun (o : Write) => o.stage == .home && o.whole k)

/-- A sector that cannot be formed is poisoned, unless a later write replaces it whole (R271, R273). -/
def State.taint (s : State) (k : Nat) : State :=
  if s.replaced k then s else { s with poison := s.poison.set k true }

/-- A write meets old bytes of sector `k` that are uncorrectable (R274): they are formed from the stripe; where that fails a
partial write sets the other bytes to zero and poisons the sector; the parity is made anew, and a partial write is logged. -/
def State.mend (s : State) (w : Write) (k : Nat) : State :=
  let pa := 64 * k
  let s1 := (s.countUncorr (stackSector pa)).checked k
  if w.whole k then s1.parityAnew pa
  else
    let s2 := if s.rebuilds pa then { s1 with msc := s1.msc.setList pa (s.formed pa 64) }
      else ({ s1 with msc := s1.msc.setList pa (List.replicate 64 0) } : State).taint k
    (s2.parityAnew pa).logs (.uncorr pa w.owner)

/-- A partial write meets a poisoned sector: the MSC logs UNCORR (R273, R274). -/
def State.uncorrLog (s : State) (w : Write) : State :=
  ((sectorRun w.pa w.bytes.length).filter (fun k => s.poison.get k && !w.whole k)).foldl
    (fun s k => s.logs (.uncorr (64 * k) w.owner)) s

/-- A write reaches the sectors that it covers whole: a poison bit set since it was performed goes, but where poisoned data
have been performed after it (R273). -/
def State.cleaned (s : State) (w : Write) : State :=
  let ks := (sectorRun w.pa w.bytes.length).filter (fun k => s.poison.get k && w.whole k && !w.bad &&
    !s.writes.any (fun (o : Write) => o.bad && o.stage == .home && o.id != w.id && (sectorRun o.pa o.bytes.length).contains k))
  if ks.isEmpty then s else { s with poison := s.poison.keep (fun k => !ks.contains k) }

/-- MSC_WRITE_APPLY (R263 to R269, R272 to R274). -/
def execMscWriteApply (id : Nat) (s : State) : Result :=
  .next (match s.writes.find? (fun (w : Write) => w.id == id) with
    | none => s
    | some w =>
      let ps := unitPieces w.pa w.bytes
      if w.stage != .home || regionOf w.pa != .hbm || s.mscBehind w then s
      else if ps.any (fun p => s.unformable p.1) then s.writeError w .poison
      else
        let bad := (sectorRun w.pa w.bytes.length).filter s.checkFails
        if !ps.all s.pieceMayGo || bad.any (fun k => s.stripeDirty (stripeOf (64 * k))) then s
        else
        let s0 := (bad.foldl (fun s k => s.mend w k) (s.uncorrLog w)).cleaned w
        let s1 := (ps.foldl (fun s p => s.applyPiece w p) s0).request w.pa (ownerFn w.owner) w.cls w.stamp
        s1.onWrite id (fun w => { w with
          stage := if s1.deltas.any (fun (d : Delta) => d.write == id) then .delta else .applied }))

/-- PARITY_DELTA_APPLY (R263): the first delta of a write on its way is applied at the parity stack. -/
def execParityDeltaApply (id : Nat) (s : State) : Result :=
  .next (match s.deltas.find? (fun (d : Delta) => d.write == id) with
    | none => s
    | some d => s.mergeDelta d)

/-- The home slice has acknowledged a write of a peer: the peer hears of it with the last one of its request (R332). -/
def State.peerDone (s : State) (by_ : Writer) (src tag width : Nat) (old : Option DWord) : State :=
  if s.writes.any (fun (w : Write) => w.by_ == by_) then s
  else match old with
    | some v => s.answer (.atomRsp src tag width v)
    | none => s.answer (.writeAck src tag)

/-- STORE_ACKNOWLEDGED (R205, R264, R300). A completion write has its own event. -/
def execStoreAcknowledged (id : Nat) (s : State) : Result :=
  .next (match s.writes.find? (fun (w : Write) => w.id == id) with
    | none => s
    | some w =>
      if !w.settled || w.space == .peer then s
      else match w.by_ with
        | .completion _ _ _ => s
        | .peer src tag _ _ => (s.dropWrite id).peerDone w.by_ src tag w.bytes.length w.old
        | _ => (s.dropWrite id).uncount w)

/-! ## Losing a stack (R266 to R270) -/

/-- MEMSTAT for the stacks lost, in the order of their loss (Table 15-3). -/
def memstatOf (lost : List Nat) : Nat :=
  let l (i : Nat) : Nat := lost.getD i 15
  l 0 + 2 ^ 4 * l 1 + 2 ^ 8 * l 2 + 2 ^ 12 * lost.length + (if 2 ≤ lost.length then 2 ^ 30 else 0) +
    (if lost.isEmpty then 0 else 2 ^ 31)

/-- Units of a run lie on a stack, data or parity (R267). -/
def touchesStack (k : Nat) (p : Nat × List Byte) : Bool := stackOf p.1 == k || parityStack (stripeOf p.1) == k

/-- Marks the sectors of a run as poisoned. -/
def State.poisonRun (s : State) (pa n : Nat) : State :=
  { s with poison := (List.range ((pa + n - 1) / 64 - pa / 64 + 1)).foldl (fun m j => m.set (pa / 64 + j) true) s.poison }

/-- A delta that a loss leaves unapplied poisons its sectors (R267, R300), but those that a later write, performed and on its
way, replaces whole (R273). -/
def State.loseDelta (s : State) (k : Nat) (d : Delta) : State :=
  if d.stack = k then
    let s1 := (sectorRun d.pa d.bytes.length).foldl State.taint s
    if d.lazy then s1.logs (.lazyLoss d.pa d.owner) else s1
  else s

/-- A stack is lost (R266, R267, R269). -/
def State.loseStack (s : State) (k : Nat) : State :=
  if Config.hbmStacks ≤ k ∨ s.isLost k then s
  else
    let gone (d : Delta) : Bool := d.stack == k || parityStack d.stripe == k
    let settledWrites := s.writes.filter (fun (w : Write) => (w.stage == .delta || w.stage == .applied) && !w.lazy &&
      regionOf w.pa == .hbm && (unitPieces w.pa w.bytes).any (touchesStack k))
    let s1 := (s.deltas.filter gone).foldl (fun s d => s.loseDelta k d) s
    let s2 := { s1 with
      deltas := s1.deltas.filter (fun d => !gone d), lost := s1.lost ++ [k]
      writes := s1.writes.map (fun (w : Write) =>
        if w.stage == WStage.delta && w.lazy && !s1.deltas.any (fun (d : Delta) => !gone d && d.write == w.id) then
          { w with stage := WStage.applied } else w) }
    let s3 := ((s2.setReg .memstat (BitVec.ofNat 64 (memstatOf s2.lost))).logs (.stackLost k)).msi 64 2
    settledWrites.foldl (fun s w => match s.writes.find? (fun (x : Write) => x.id == w.id) with
      | some x => s.writeError x .poison
      | none => s) s3

/-- STACK_LOST (R266). -/
def execStackLost (stack : Nat) (s : State) : Result := .next (s.loseStack stack)

/-- Writes a register by its access codes alone (R4). -/
def State.mergeReg (s : State) (r : Reg) (v : DWord) : State := s.setReg r (r.merge (s.reg r) v)

/-- A write to MEMCTL (R266, R281). -/
def State.writeMemctl (s : State) (v : DWord) : State :=
  let s1 := s.mergeReg .memctl v
  if v.getLsbD 7 then s1.loseStack (v.toNat % 16) else s1

/-- MEMCTL_DECLARE (R266). -/
def execMemctlDeclare (value : Word) (s : State) : Result := .next (s.bar4 fun s => s.writeMemctl (value.setWidth 64))

/-! ## Scrubbing (R271) -/

/-- SCRUBHRS in fabric cycles (Table 15-3). -/
def State.scrubPeriod (s : State) : Nat := max 1 (min 168 (s.field .memctl 8 8)) * (3600 * 1000000 * Config.fabPerUs)

/-- The next sector of a stack that scrubbing reads, as its number, once its time has come: each of the 2^30 sectors once in
each period (R271, log 110). -/
def State.scrubDue (s : State) (stack : Nat) : Bool :=
  s.field .memctl 31 1 == 1 && !s.isLost stack && decide (s.scrubs.get stack * s.scrubPeriod < s.fab * 2 ^ 30)

/-- A stack has had more than 1,024 uncorrectable sectors within 1 s (R266): a sector counts once. -/
def State.stackFails (s : State) (stack : Nat) : Bool :=
  let late := s.uncorr.filter (fun e => e.2.1 == stack && decide (s.fab < e.2.2 + 1000000 * Config.fabPerUs))
  !s.isLost stack && decide (1024 < ((late.map (·.1)).dedup).length)

/-- Scrubbing reads a parity sector (R271): a bad one is made anew from its data sectors, the stripe drained (R265), or is
poisoned where one of these fails; one of a stripe in no dirty-stripe table that differs from them is rewritten and logged. -/
def State.scrubParity (s0 : State) (stripe b : Nat) (found : SectorState) : State :=
  let pa := stripeAddr stripe 0 b
  let k := paritySector pa
  let bad := found == .uncorrectable || s0.parityChecks.get k != 0
  let s := if bad then s0.drain stripe else s0
  let sound := s.lost.isEmpty && (List.range 11).all (fun i => !s.checkFails (stripeAddr stripe i b / 64))
  if s.stripeDirty stripe then s
  else if bad then
    let s1 := s.countUncorr (stripe * 32 + b / 64, parityStack stripe)
    if sound then s1.parityAnew pa
    else ({ s1 with parityBad := s1.parityBad.set k true, parityChecks := s1.parityChecks.set k 0 } : State).logs
      (.uncorr (parityPlace k) 0)
  else if !sound ∨ s.parityBad.get k ∨ s.dataParity stripe b 64 = s.parity.getList (parityKey stripe b) 64 then s
  else (s.parityAnew pa).logs (.parityFix stripe)

/-- Scrubbing reads a data sector (R271): a bad one is formed from its stripe, once that has drained (R265), or poisoned and
logged. -/
def State.scrubData (s0 : State) (pa : Nat) (found : SectorState) : State :=
  if found != .uncorrectable && !s0.checkFails (pa / 64) then s0
  else
    let s := s0.drain (stripeOf pa)
    let s1 := (s.countUncorr (stackSector pa)).checked (pa / 64)
    if s.rebuilds pa then { s1 with msc := s1.msc.setList (pa / 64 * 64) (s.formed (pa / 64 * 64) 64) }
    else (s1.taint (pa / 64)).logs (.uncorr pa 0)

/-- SCRUB_SECTOR (R271, R276): `off` is the sector's offset in its stack; the request is of the background class. -/
def execScrubSector (stack off : Nat) (found : SectorState) (s : State) : Result :=
  .next (
    let stripe := off / 2048
    let b := off % 2048 / 64 * 64
    if s.field .memctl 31 1 = 0 ∨ s.isLost stack ∨ Config.hbmStacks ≤ stack ∨ 2 ^ 25 ≤ stripe then s
    else
      let n := s.scrubs.get stack
      let s1 := ({ s with scrubs := s.scrubs.set stack (if off / 64 = n % 2 ^ 30 then n + 1 else n) } : State).ask stack 64 2
        (s.stampOf 64 2)
      if parityStack stripe = stack then s1.scrubParity stripe b found
      else s1.scrubData (stripeAddr stripe ((stack + 12 - (stripe % 12 + 1)) % 12) b) found)

/-! ## Channels (R276 to R278) -/

/-- Stamp `p` is earlier than `q` (R277). -/
def stampBefore (p q : BitVec 16) : Bool := decide (1 ≤ (q - p).toNat) && decide ((q - p).toNat ≤ 32767)

/-- The request served first among those of one class: the earliest deadline, then the first arrival (R277). -/
def earliest : List HbmReq → Option HbmReq
  | [] => none
  | r :: rs =>
    match earliest rs with
    | none => some r
    | some q => some (if stampBefore q.stamp r.stamp then q else r)

/-- The classes that wait at a stack, highest first. -/
def State.waitingClasses (s : State) (stack : Nat) : List Nat :=
  (List.range 3).filter (fun c => s.hbmq.any (fun r => r.stack == stack && r.cls == c))

/-- A granted request that has missed its deadline is counted (R278). -/
def State.countMiss (s : State) (r : HbmReq) : State :=
  if stampBefore r.stamp (BitVec.ofNat 16 s.time) then
    s.setReg (.miss r.fn r.cls) (BitVec.ofNat 64 (min (2 ^ 32 - 1) ((s.reg (.miss r.fn r.cls)).toNat + 1)))
  else s

/-- CHANNEL_GRANT (R277). -/
def execChannelGrant (stack : Nat) (s : State) : Result :=
  .next (match s.waitingClasses stack with
    | [] => s
    | top :: low =>
      let n := s.grants.get stack
      let turn := !low.isEmpty && decide (max 1 (s.field .memctl 16 8) ≤ n)
      let cls := if turn then low.headD top else top
      match earliest (s.hbmq.filter (fun r => r.stack == stack && r.cls == cls)) with
      | none => s
      | some r =>
        ({ s with
          hbmq := s.hbmq.erase r
          grants := s.grants.set stack (if low.isEmpty || turn then 0 else n + 1) } : State).countMiss r)

/-! ## Access counters and hot rings (R279, R280) -/

/-- Entries of a hot ring. -/
def State.hotLog (s : State) (fn : Nat) : Nat := max 4 (s.field (.hotctl fn) 0 4)

/-- Physical address of a hot ring. -/
def State.hotBase (s : State) (fn : Nat) : Nat := s.field (.hotbase fn) 4 48 * 16

/-- Sends a record to a hot ring (R279, R280). -/
def State.hotSend (s : State) (fn : Nat) (v : DWord) : State :=
  if s.field (.hotctl fn) 31 1 = 0 then s
  else
    let b := s.hotBase fn
    let q := s.func fn
    let tail := BitVec.ofNat 32 (s.valueAt (b + 4) 4)
    if (q.hotHead - tail).toNat = 2 ^ s.hotLog fn then
      (s.onFunc fn (fun q => { q with hotDrops := q.hotDrops + 1 })).writeUnit (ownerCode fn) 2 (b + 8) (leBytes 4 (q.hotDrops + 1).toNat)
    else
      let s1 := s.writeUnit (ownerCode fn) 2 (b + 0x10 + 8 * (q.hotHead.toNat % 2 ^ s.hotLog fn)) (leBytes 8 v.toNat)
      let s2 := s1.writeUnit (ownerCode fn) 2 b (leBytes 4 (q.hotHead + 1).toNat)
      (s2.onFunc fn (fun q => { q with hotHead := q.hotHead + 1 })).msi fn 1

/-- The entry of a frame in the counter table, none for a frame that is not counted (R279). -/
def State.counterOf (s : State) (pa : Nat) : Option Nat :=
  match regionOf pa with
  | .hbm => some (pa / 65536)
  | .capacity =>
    let n := (pa - 0x100000000000) / 65536
    if n < s.field .accctl 0 32 then some (Config.hbmFrames + n) else none
  | _ => none

/-- The function whose ring learns of a hot frame, none for a frame of owner 0 (R279). -/
def State.hotOwner (s : State) (pa fn : Nat) : Option Nat :=
  if regionOf pa = .hbm then
    let o := s.frameOwner (pa / 65536)
    if o = 1 then some 64 else if 2 ≤ o ∧ o ≤ 65 then some (o - 2) else none
  else some fn

/-- Counts a fill (R279). -/
def State.countFill (s : State) (fn pa : Nat) : State :=
  if s.field .accctl 63 1 = 0 then s
  else match s.counterOf pa with
    | none => s
    | some e =>
      let a := s.field .accbase 16 36 * 65536 + 2 * e
      let n := s.valueAt a 2 + 1
      if max 1 (s.field .accctl 32 16) ≤ n then
        let s1 := s.writeUnit 1 2 a (leBytes 2 0)
        match s.hotOwner pa fn with
        | some f => s1.hotSend f (BitVec.ofNat 64 (pa / 65536 % 2 ^ 36 + 2 ^ 40 * fn))
        | none => s1
      else s.writeUnit 1 2 a (leBytes 2 n)

/-- A commit mark stands where the counting of a fill would write (R312): at the frame's entry, or at the hot ring. -/
def State.countHeld (s : State) (fn pa : Nat) : Bool :=
  match s.counterOf pa with
  | none => false
  | some e =>
    let ring (f : Nat) : List Nat := [s.hotBase f, s.hotBase f + 8, s.hotBase f + 0x10 + 8 * ((s.func f).hotHead.toNat % 2 ^ s.hotLog f)]
    s.field .accctl 63 1 == 1 && ((s.field .accbase 16 36 * 65536 + 2 * e) :: ((s.hotOwner pa fn).map ring).getD []).any
      (fun a => s.unitHeld a 8)

/-- A load of a function waits for a sector. -/
def State.loadWaits (s : State) (fn pa : Nat) : Option Load :=
  s.loads.find? (fun (l : Load) => l.space == .global && l.pa / 64 == pa / 64 && s.fnOf l.who.crew == fn)

/-- The reads of a function on their way to the shared cache for a sector. -/
def State.wantsOf (s : State) (fn pa : Nat) : List Want := s.wants.filter (fun w => w.fn == fn && w.pa / 64 == pa / 64)

/-- The classes that a fill for a function may have (Table 15-2): latency where a load of it waits for the sector, or where no
read of it is known to; else those of its reads on their way, and which of these it serves is free (log 109). -/
def State.fillClasses (s : State) (fn pa : Nat) : List Nat :=
  if (s.loadWaits fn pa).isSome then [0]
  else match ((s.wantsOf fn pa).map (·.cls)).dedup with
    | [] => [0]
    | cs => cs

/-- The stamp of a fill: the one that its reader formed (R276). -/
def State.fillStamp (s : State) (fn pa cls : Nat) : BitVec 16 :=
  match s.loadWaits fn pa, (s.wantsOf fn pa).find? (·.cls == cls) with
  | some l, _ => BitVec.ofNat 16 (l.sent / Config.fabPerTick + max 1 (min 32767 (s.field (.scls fn) 0 16)))
  | none, some w => w.stamp
  | none, none => s.stampOf fn cls

/-- The reads that are still on their way once a fill has served one. -/
def State.wantsLeft (s : State) (fn pa cls : Nat) : List Want :=
  match (s.wantsOf fn pa).find? (·.cls == cls) with
  | some w => if (s.loadWaits fn pa).isSome then s.wants else s.wants.erase w
  | none => s.wants

/-- SHARED_CACHE_FILL (R70, R163, R195, R268, R276, R279): a fill passes the frame-ownership checks, is counted, and its
requests go to the channels; one from a lost unit waits for its stripe. -/
def execSharedCacheFill (fn pa : Nat) (s : State) : Result :=
  .next (
    let a := s.codePa pa
    if 64 < fn ∨ !(regionOf a == .hbm || regionOf a == .capacity) ∨ !s.ownedBy (ownerCode fn) pa ∨ s.homeBusy pa ∨ s.countHeld fn a then s
    else
      let cs := s.fillClasses fn pa
      let (i, s1) := s.choose cs.length
      let cls := cs.getD i 0
      let s2 := ((s.placesOf pa).filter (fun a => regionOf a == .hbm)).foldl (fun s' a => s'.request a fn cls (s.fillStamp fn pa cls))
        { s1 with wants := s.wantsLeft fn pa cls }
      s2.countFill fn a)

/-- A write to HOTCTL (R280): BASE and LOG stand while the ring is enabled; an enable reads HEAD and DROPS. -/
def State.writeHotctl (s : State) (fn : Nat) (v : DWord) : State :=
  let on := s.field (.hotctl fn) 31 1 == 1
  if on && v.toNat % 16 != s.field (.hotctl fn) 0 4 then s.pcfgErr
  else
    let s1 := s.mergeReg (.hotctl fn) v
    if !on && v.getLsbD 31 then
      let b := s.hotBase fn
      s1.onFunc fn (fun q => { q with
        hotHead := BitVec.ofNat 32 (s.valueAt b 4), hotDrops := BitVec.ofNat 32 (s.valueAt (b + 8) 4) })
    else s1

/-- A write to HOTBASE (R280). -/
def State.writeHotbase (s : State) (fn : Nat) (v : DWord) : State :=
  if s.field (.hotctl fn) 31 1 = 1 then
    if v &&& (Reg.hotbase fn).rw = s.reg (.hotbase fn) then s else s.pcfgErr
  else s.mergeReg (.hotbase fn) v

/-- HOTCTL_ENABLE (R280). -/
def execHotctlEnable (fn : Nat) (value : Word) (s : State) : Result :=
  .next (s.bar4 fun s => if fn ≤ 64 ∧ value.getLsbD 31 then s.writeHotctl fn (value.setWidth 64) else s)

/-- The counter table lies in frames owned by the hypervisor (R281). -/
def State.tableOwned (s : State) (capn : Nat) : Bool :=
  let first := s.field .accbase 16 36
  let n := (2 * (Config.hbmFrames + capn) + 65535) / 65536
  decide ((first + n) * 65536 ≤ 0xB000000000) && (List.range n).all (fun i => s.frameOwner (first + i) == 1)

/-- A write to ACCCTL (R281). -/
def State.writeAccctl (s : State) (v : DWord) : State :=
  if v.getLsbD 63 && !s.tableOwned (v.toNat % 2 ^ 32) then s.pcfgErr else s.mergeReg .accctl v

/-- ACCCTL_WRITE (R281). -/
def execAccctlWrite (value : DWord) (s : State) : Result := .next (s.bar4 fun s => s.writeAccctl value)

/-! ## Lazy release (R300, R301) -/

/-- Some bit of LZCTL that is set turns zero. -/
def State.lazyCleared (s : State) (v : DWord) : Bool := ((s.reg .lzctl) &&& ~~~v &&& Reg.lzctl.rw) != 0

/-- A write to LZCTL: clearing a bit sets BUSY until the deltas of the stores that it covered are applied (R301). -/
def State.writeLzctl (s : State) (v : DWord) : State :=
  let off (b : Nat) : Bool := s.field .lzctl b 1 == 1 && !v.getLsbD b
  let s1 := s.mergeReg .lzctl v
  if s.lazyCleared v then
    { s1.setField .lzctl 31 1 1 with
      writes := s1.writes.map (fun (w : Write) => if w.lazy && off w.lzbit then { w with drain := true } else w)
      deltas := s1.deltas.map (fun (d : Delta) => if d.lazy && off d.lzbit then { d with drain := true } else d) }
  else s1

/-- LZCTL_WRITE (R301). -/
def execLzctlWrite (value : Word) (s : State) : Result := .next (s.bar4 fun s => s.writeLzctl (value.setWidth 64))

/-- Deltas of stores that a cleared bit covered are still to be applied (R301). -/
def State.lazyDraining (s : State) : Bool :=
  s.deltas.any (·.drain) || s.writes.any (fun (w : Write) => w.drain && w.stage != .applied && w.space != .peer)

/-- LZCTL_DRAIN_DONE (R301). -/
def execLzctlDrainDone (s : State) : Result :=
  .next (if s.field .lzctl 31 1 = 1 ∧ !s.lazyDraining then s.setField .lzctl 31 1 0 else s)

/-- CXL_BACK_INVALIDATE (R299): the shared cache gives up a line of a CXL host's memory. Its value is that of its
point of performance, which this model holds alone, so the state stays. -/
def execCxlBackInvalidate (_pa : Nat) (s : State) : Result := .next s

end Sys2Proof.Machine
end

