-- ==== Sys2Proof/Machine/Owner.lean ====
section
/-!
DEFINITION. What the hypervisor programs of translation (R191, R192), frame ownership (R196) and format windows
(R161, R162).
-/
namespace Sys2Proof.Machine
open Sys2Proof

/-! ## TLB invalidation (R192) -/

/-- An optional field matches. -/
def matchOpt (o : Option Nat) (v : Nat) : Bool :=
  match o with
  | some x => x == v
  | none => true

/-- What a selection matches: VMID, ASID, and a page that holds bits [42:12] of the address (R191). -/
def TlbSel.matches (t : TlbSel) (vmid asid page size : Nat) : Bool :=
  matchOpt t.vmid vmid && matchOpt t.asid asid &&
  match t.vpn with
  | some v => decide (page / 4096 % 2 ^ 31 ≤ v % 2 ^ 31) && decide (v % 2 ^ 31 < page / 4096 % 2 ^ 31 + size / 4096)
  | none => true

/-- A private line of a crew, as its tag has it, is one that a selection picks; bytes without a tag are taken under the registers as
they stand (R192). -/
def State.privPicked (s : State) (c : Crew) (t : TlbSel) (off : Nat) : Bool :=
  match c.tags.get (off / 128) with
  | some l => TlbSel.matches t l.vmid l.asid l.page l.psize
  | none =>
    let (page, psize, _) := s.pageOf c.core c.fn (s.privAddr c off)
    TlbSel.matches t (s.vmid c.fn) (s.asid c.fn) page psize

/-- The dirty private lines of resident crews that matching entries translated are written back (R192). -/
def State.flushPriv (s : State) (t : TlbSel) : State :=
  (s.crewList.filter (fun e => e.2.loc.isSome && !e.2.own.isEmpty)).foldl (fun s e =>
    s.cleanPriv e.1 (fun off _ => s.privPicked e.2 t off)) s

/-- The matching entries of every cluster TLB go, and the L1 lines that they translated, the dirty private ones to memory
first (R192). -/
def State.flushTlb (s0 : State) (t : TlbSel) : State :=
  let s := s0.flushPriv t
  { s with
    tlb := s.tlb.filter (fun e => !TlbSel.matches t e.vmid e.asid e.page e.psize)
    l1 := s.l1.filter (fun (l : L1Line) => !TlbSel.matches t l.vmid l.asid l.page l.psize) }

/-- HOST_TLB_FENCE (R192). -/
def execHostTlbFence (sel : TlbSel) (s : State) : Result := .next (s.flushTlb sel)

/-- The selection of a TLBI value (Table 11-5). -/
def tlbiSel (v : DWord) : TlbSel :=
  let n := v.toNat
  let sc := n / 2 ^ 61 % 4
  { vmid := if 1 ≤ sc then some (n / 2 ^ 47 % 2 ^ 14) else none
    asid := if 2 ≤ sc then some (n / 2 ^ 31 % 2 ^ 16) else none
    vpn := if sc = 3 then some (n % 2 ^ 31) else none }

/-- An invalidation under way ends (R192). -/
def State.endTlbi (s : State) : State :=
  if s.field .tlbi 63 1 = 1 then (s.flushTlb (tlbiSel (s.reg .tlbi))).setReg .tlbi 0 else s

/-- A write to TLBI: BUSY reads 1 until the invalidation is done (R191, R192). -/
def State.writeTlbi (s : State) (v : DWord) : State := s.endTlbi.setReg .tlbi (v ||| 0x8000000000000000)

/-- TLBI_WRITE (R192). -/
def execTlbiWrite (value : DWord) (s : State) : Result := .next (s.bar4 fun s => s.writeTlbi value)

/-- TLBI_DONE (R192). -/
def execTlbiDone (s : State) : Result := .next s.endTlbi

/-! ## Frame ownership (R196) -/

/-- OP, OWNER, COUNT and FRAME of a FOCMD value (Table 11-8). -/
def foOp (v : DWord) : Nat := v.toNat / 2 ^ 56 % 4
def foOwner (v : DWord) : Nat := v.toNat / 2 ^ 48 % 256
def foCount (v : DWord) : Nat := v.toNat / 2 ^ 24 % 2 ^ 24
def foFrame (v : DWord) : Nat := v.toNat % 2 ^ 24

/-- Some frame of a run is firmware's. -/
def State.firmwareIn (s : State) (first n : Nat) : Bool :=
  s.owners.any (fun e => decide (first ≤ e.1) && decide (e.1 < first + n) && e.2 == some 0)

/-- The RESULT with which a command is refused, 0 where it is taken (R196). -/
def State.foRefusal (s : State) (v : DWord) : Nat :=
  if foOp v = 0 ∨ foOp v = 3 then 5
  else if foOp v = 2 then (if Config.hbmFrames ≤ foFrame v then 2 else 0)
  else if foCount v = 0 ∨ Config.hbmFrames < foFrame v + foCount v then 2
  else if foOwner v = 0 ∨ (66 ≤ foOwner v ∧ foOwner v ≤ 254) then 3
  else if s.firmwareIn (foFrame v) (foCount v) then 4
  else 0

/-- FOCMD as it reads: BUSY and RESULT, with the command that runs behind them. -/
def foStatus (busy : Bool) (result : Nat) (v : DWord) : DWord :=
  (v &&& bits 57 0) ||| BitVec.ofNat 64 ((if busy then 2 ^ 63 else 0) + 2 ^ 60 * result)

/-- A write to FOCMD (R196). -/
def State.writeFocmd (s : State) (v : DWord) : State :=
  if s.field .focmd 63 1 = 1 then s
  else
    let r := s.foRefusal v
    if r ≠ 0 then s.setReg .focmd (foStatus false r 0)
    else if foOp v = 2 then
      (s.setReg .fodata (BitVec.ofNat 64 (s.frameOwner (foFrame v)))).setReg .focmd (foStatus false 0 0)
    else s.setReg .focmd (foStatus true 1 v)

/-- FOCMD_SET (R196): a SET that is taken runs. -/
def execFocmdSet (value : DWord) (s : State) : Result :=
  .next (s.bar4 fun s => if foOp value = 1 ∧ s.foRefusal value = 0 then s.writeFocmd value else s)

/-- FOCMD_READ (R196). -/
def execFocmdRead (value : DWord) (s : State) : Result :=
  .next (s.bar4 fun s => if foOp value = 2 ∧ s.foRefusal value = 0 then s.writeFocmd value else s)

/-- FOCMD_REFUSED (R196). -/
def execFocmdRefused (value : DWord) (s : State) : Result :=
  .next (s.bar4 fun s => if s.foRefusal value ≠ 0 then s.writeFocmd value else s)

/-- A frame's entry as it is kept: 255 is not listed. -/
def ownerEntry (o : Nat) : Option Byte := if o = 255 then none else some (BitVec.ofNat 8 o)

/-- Sets the owner of a run of frames (R196). -/
def State.setOwners (s : State) (first n o : Nat) : State :=
  { s with owners := (List.range n).foldl (fun m i => m.set (first + i) (ownerEntry o)) s.owners }

/-- A write on its way to the memory-side cache of a frame in a run. -/
def State.frameBusy (s : State) (first n : Nat) : Bool :=
  s.writes.any (fun (w : Write) => w.stage == .home && regionOf w.pa == .hbm &&
    decide (first ≤ w.pa / 65536) && decide (w.pa / 65536 < first + n))

/-- A FOCMD value for the frames after its first. -/
def foNext (v : DWord) : DWord :=
  (v &&& ~~~(bits 47 0)) ||| BitVec.ofNat 64 (2 ^ 24 * (foCount v - 1) + (foFrame v + 1))

/-- FOCMD_SET_DONE (R196): the frames in ascending order, one at a time: the lines of a frame are written back, then its
entry is written. BUSY clears with the last one. -/
def execFocmdSetDone (s : State) : Result :=
  .next (
    let v := s.reg .focmd
    if s.field .focmd 63 1 = 0 || s.frameBusy (foFrame v) 1 then s
    else
      let s1 := s.setOwners (foFrame v) 1 (foOwner v)
      if foCount v ≤ 1 then s1.setReg .focmd (foStatus false 0 0) else s1.setReg .focmd (foNext v))

/-! ## Format windows (R161, R162) -/

/-- Two runs of addresses share an address. -/
def runsMeet (a b : Nat × Nat) : Bool :=
  decide (0 < a.2) && decide (0 < b.2) && decide (a.1 < b.1 + b.2) && decide (b.1 < a.1 + a.2)

/-- View, codes and scales of a window. -/
def Window.runs (w : Window) : List (Nat × Nat) := [(w.base, w.size), (w.codes, w.codeBytes), (w.scales, w.scaleBytes)]

/-- The window of a CTL value with the registers as they stand. -/
def State.windowAs (s : State) (n : Nat) (v : Word) : Window :=
  { s.window n with t6 := v.toNat % 4 == 1, noScale := v.getLsbD 4 }

/-- An enable is refused (R162). -/
def State.fwinRefused (s : State) (n : Nat) (v : Word) : Bool :=
  let w := s.windowAs n v
  let others := s.windows.filter (fun (o : Window) => o.n != n)
  w.size == 0 || (w.t6 && w.size / 65536 % 4 != 0) || decide (2 ≤ v.toNat % 4) || (w.noScale && !w.t6) ||
    decide (w.base < 0x10000000000) || decide (0x20000000000 < w.base + w.size) ||
    others.any (fun o => runsMeet (w.base, w.size) (o.base, o.size)) ||
    others.any (fun o => o.runs.any (fun r => runsMeet (w.codes, w.codeBytes) r || runsMeet (w.scales, w.scaleBytes) r))

/-- ENABLE and BUSY of a window. -/
def State.fwinOn (s : State) (n : Nat) : Bool := s.field (.wctl n) 31 1 == 1
def State.fwinBusy (s : State) (n : Nat) : Bool := s.field (.wctl n) 30 1 == 1

/-- CTL.ERR of a window (R162). -/
def State.fwinErr (s : State) (n : Nat) : State := s.setField (.wctl n) 29 1 1

/-- A write to CTL (R162): the other fields hold while the window is enabled. One that clears ENABLE while the enable's BUSY is
still 1 changes nothing and sets no ERR: the spec does not say what it does (log 69). -/
def State.writeWctl (s : State) (n : Nat) (v : Word) : State :=
  let s1 := if v.getLsbD 29 then s.setField (.wctl n) 29 1 0 else s
  let other : DWord := bits 4 4 ||| bits 1 0
  if s1.fwinOn n then
    let s2 := if (v.setWidth 64) &&& other = s1.reg (.wctl n) &&& other then s1 else s1.fwinErr n
    if v.getLsbD 31 || s1.fwinBusy n then s2 else (s2.setField (.wctl n) 31 1 0).setField (.wctl n) 30 1 1
  else if s1.fwinBusy n then s1.fwinErr n
  else if v.getLsbD 31 then
    if s1.fwinRefused n v then s1.fwinErr n
    else (s1.mergeReg (.wctl n) (v.setWidth 64 &&& ~~~(bits 29 29))).setField (.wctl n) 30 1 1
  else s1.mergeReg (.wctl n) (v.setWidth 64 &&& ~~~(bits 29 29))

/-- FWIN_ENABLE (R162). -/
def execFwinEnable (win : Nat) (value : Word) (s : State) : Result :=
  .next (s.bar4 fun s => if win < 16 ∧ value.getLsbD 31 ∧ !s.fwinOn win then s.writeWctl win value else s)

/-- FWIN_ENABLE_DONE (R162). -/
def execFwinEnableDone (win : Nat) (s : State) : Result :=
  .next (if win < 16 ∧ s.fwinOn win ∧ s.fwinBusy win then s.setField (.wctl win) 30 1 0 else s)

/-- FWIN_DISABLE (R162). -/
def execFwinDisable (win : Nat) (value : Word) (s : State) : Result :=
  .next (s.bar4 fun s => if win < 16 ∧ !value.getLsbD 31 ∧ s.fwinOn win then s.writeWctl win value else s)

/-- A write through a view, or of its codes, is not yet acknowledged. -/
def State.viewWrites (s : State) (n : Nat) : Bool :=
  let w := s.window n
  s.writes.any (fun (x : Write) => runsMeet (x.pa, x.bytes.length) (w.base, w.size) ||
    runsMeet (x.pa, x.bytes.length) (w.codes, w.codeBytes))

/-- FWIN_DISABLE_DONE (R162): every write of the view is acknowledged. -/
def execFwinDisableDone (win : Nat) (s : State) : Result :=
  .next (if win < 16 ∧ !s.fwinOn win ∧ s.fwinBusy win ∧ !s.viewWrites win then s.setField (.wctl win) 30 1 0 else s)

/-- A write to VBASE, VSIZE, PBASE or SBASE of a window (R162). -/
def State.writeWindow (s : State) (n : Nat) (r : Reg) (v : DWord) : State :=
  if s.fwinOn n || s.fwinBusy n then s.fwinErr n else s.mergeReg r v

/-! ## Translation and arena registers (R191, R347) -/

/-- A function holds a crew. -/
def State.holdsCrew (s : State) (fn : Nat) : Bool := s.crewList.any (fun e => e.2.fn == fn)

/-- A write to FSATP or FHGATP (R191). -/
def State.writeAtp (s : State) (r : Reg) (v : DWord) : State :=
  let mode := v.toNat / 2 ^ 60
  if mode = 0 ∨ mode = 10 then s.mergeReg r v else s.pcfgErr

/-- A write to FPRIV (R191). The spec names NSLOT 0 and a BASE that is not canonical as refused; an NSLOT above 8,192 is refused as
well, which is the model's choice (log 127). -/
def State.writeFpriv (s : State) (fn : Nat) (v : DWord) : State :=
  let m := (Reg.fpriv fn).merge (s.reg (.fpriv fn)) v
  let n := m.toNat % 2 ^ 14
  if n = 0 ∨ 8192 < n ∨ !canonical (m.toNat / 2 ^ 24 * 2 ^ 24) ∨ s.holdsCrew fn then s.pcfgErr else s.setReg (.fpriv fn) m

/-- A write to FFRAME (R347). -/
def State.writeFframe (s : State) (fn : Nat) (v : DWord) : State :=
  let n := v.toNat % 2 ^ 14
  if n = 0 ∨ 8192 < n ∨ v.toNat / 2 ^ 14 % 2 ^ 7 ≠ 0 ∨ s.holdsCrew fn then s.pcfgErr else s.mergeReg (.fframe fn) v

end Sys2Proof.Machine
end

