-- ==== Sys2Proof/Machine/Record.lean ====
section
/-!
DEFINITION. Nest records: their layout (R18 to R23, R28), the checks of Table 2-6 in order (R32), and the nest
that an accepted record installs (R52, R53, R59).
-/
namespace Sys2Proof.Machine
open Sys2Proof

/-- A signed field of `n` bytes. -/
def sfld (b : List Byte) (off n : Nat) : Int := (BitVec.ofNat (8 * n) (fld b off n)).toInt

/-- The bytes from `off` on, `n` of them, are zero. -/
def zeroRun (b : List Byte) (off n : Nat) : Bool := ((b.drop off).take n).all (· == 0)

/-- FLAGS (Table 2-2) and SHAPE (Table 2-3) of a record. -/
def recFlags (b : List Byte) : Nat := fld b 8 4
def recShape (b : List Byte) : Nat := fld b 0xC 4
/-- Numbers of levels, walked levels and dependence vectors (Table 2-2). -/
def recLevels (b : List Byte) : Nat := recFlags b / 2 % 8 + 1
def recWalked (b : List Byte) : Nat := recFlags b / 16 % 4 + 1
def recDeps (b : List Byte) : Nat := recFlags b / 64 % 16
/-- Attribute byte of a level (Table 2-4). -/
def levelAttr (b : List Byte) (k : Nat) : Nat := fld b (0x20 + 16 * k + 0xE) 1

/-- Level descriptor `k` (Table 2-4). -/
def recLevel (b : List Byte) (k : Nat) : Level :=
  let o := 0x20 + 16 * k
  { lo := sfld b o 4, hi := sfld b (o + 4) 4
    loc := [sfld b (o + 8) 1, sfld b (o + 9) 1, sfld b (o + 10) 1]
    hic := [sfld b (o + 11) 1, sfld b (o + 12) 1, sfld b (o + 13) 1]
    spread := levelAttr b k / 64 % 2 == 1, scope := levelAttr b k / 8 % 8, domain := levelAttr b k % 8 }

/-- Dependence vector `n` of the record (R28). -/
def recDep (b : List Byte) (n : Nat) : List Int := (List.range 4).map (fun k => sfld b (0xA0 + 4 * n + k) 1)

/-- The front end's copy of a record (Table 2-1). -/
def recordOf (b : List Byte) : NestRec where
  entry := BitVec.ofNat 64 (fld b 0 8)
  resident := recFlags b % 2 == 1
  lvls := recLevels b
  walk := recWalked b
  dq := recFlags b / 2 ^ 10 % 4
  prio := recFlags b / 2 ^ 12 % 16
  threads := recShape b % 2 ^ 11
  regs := recShape b / 2 ^ 12 % 2 ^ 7
  priv := recShape b / 2 ^ 20
  localBytes := fld b 0x10 4
  accRows := fld b 0x14 2
  copies := fld b 0x16 1
  levels := (List.range (recLevels b)).map (recLevel b)
  deps := (List.range (recDeps b)).map (fun n => (recDep b n).take (recWalked b))
  args := BitVec.ofNat 64 (fld b 0xC0 8)
  doneAddr := BitVec.ofNat 64 (fld b 0xC8 8)
  doneVal := BitVec.ofNat 64 (fld b 0xD0 8)

/-- Code 0x02: reserved bits and bytes, and descriptors above LVLS (Tables 2-1 to 2-4). -/
def badReserved (b : List Byte) : Bool :=
  decide (2 ^ 16 ≤ recFlags b) || bitOf (recShape b) 19 || bitOf (recShape b) 11 || !zeroRun b 0x17 9 || !zeroRun b 0xD8 40 ||
  (List.range 8).any (fun k =>
    if k < recLevels b then bitOf (levelAttr b k) 7 || !zeroRun b (0x20 + 16 * k + 0xF) 1
    else !zeroRun b (0x20 + 16 * k) 16)

/-- The combinations of kind, DOMAIN and SCOPE of Table 2-5. -/
def Level.allowed (l : Level) : Bool :=
  if l.spread then (l.domain == 3 || l.domain == 4 || l.domain == 5) && l.scope == 1
  else decide (l.scope ≤ 5) &&
    ((l.domain == 0 && decide (3 ≤ l.scope)) || (l.domain == 1 && decide (2 ≤ l.scope)) || (l.domain == 2 && decide (1 ≤ l.scope)))

/-- Code 0x05. -/
def NestRec.badKinds (r : NestRec) : Bool :=
  (List.range r.lvls).any (fun k =>
    let l := r.levels.getD k default
    l.spread != decide (r.walk ≤ k) || !l.allowed)

/-- Code 0x06: a coefficient of a walked level on an index numbered at or above its own (R24). A nonzero coefficient of a
spread level has code 0x07 whatever its index (log 99). -/
def NestRec.badCoeffs (r : NestRec) : Bool :=
  (List.range r.walk).any (fun k =>
    let l := r.levels.getD k default
    (l.loc.drop k ++ l.hic.drop k).any (· != 0))

/-- Extent of a level with constant bounds. -/
def Level.extent (l : Level) : Nat := (l.hi - l.lo).toNat

/-- Product of the extents of levels. -/
def extents (ls : List Level) : Nat := ls.foldl (fun n l => n * l.extent) 1

/-- The rule of a spread level with the inner levels `rest` (R27, Table 2-5). -/
def Level.badSpread (l : Level) (rest : List Level) : Bool :=
  (l.loc ++ l.hic).any (· != 0) || decide (l.hi ≤ l.lo) ||
    (l.domain == 4 && extents rest % 32 != 0) || (l.domain == 5 && decide (32 < extents (l :: rest)))

/-- Some spread level breaks its rule. -/
def badSpreads : List Level → Bool
  | [] => false
  | l :: rest => l.badSpread rest || badSpreads rest

/-- Code 0x07 (R27). -/
def NestRec.badSpread (r : NestRec) : Bool :=
  let ls := r.levels.drop r.walk
  badSpreads ls || (!ls.isEmpty && extents ls != r.threads)

/-- The first nonzero component of a vector is positive (R28). -/
def lexPositive : List Int → Bool
  | [] => false
  | x :: xs => if x = 0 then lexPositive xs else decide (0 < x)

/-- Code 0x08 (R28). -/
def badDeps (b : List Byte) : Bool :=
  (List.range 8).any (fun n =>
    let d := recDep b n
    if n < recDeps b then
      d.any (fun x => decide (x < -64) || decide (64 < x)) || (d.drop (recWalked b)).any (· != 0) ||
        !lexPositive (d.take (recWalked b))
    else d.any (· != 0))

/-- Code 0x0B: beyond what one core can hold (R21). -/
def NestRec.tooLarge (r : NestRec) : Bool :=
  r.localBytes % 128 != 0 || decide (Config.localBytes < r.localBytes) || r.accRows % 32 != 0 ||
    decide (Config.accRows < r.accRows) || decide (Config.copyEntries < r.copies) || decide (Config.slots < r.slots) ||
    decide (Config.coreRegs < r.coreRegs)

/-- The refusal code of a record as read, 0 where it is accepted (R32). -/
def refusalCode (b : List Byte) : Nat :=
  let r := recordOf b
  if badReserved b then 0x02
  else if r.entry.toNat % 4 ≠ 0 ∨ !canonical r.entry.toNat then 0x03
  else if r.lvls < r.walk ∨ 8 < recDeps b then 0x04
  else if r.badKinds then 0x05
  else if r.badCoeffs then 0x06
  else if r.badSpread then 0x07
  else if badDeps b then 0x08
  else if r.resident ∧ recDeps b ≠ 0 then 0x09
  else if r.threads = 0 ∨ 1024 < r.threads ∨ r.regs < 2 then 0x0A
  else if r.tooLarge then 0x0B
  else if r.doneAddr.toNat % 8 ≠ 0 then 0x0C
  else 0

/-- Reads a record for a function and checks it: the refusal code, or the record (R17, R32). All 256 bytes are read at one
moment, so that a record which is being written is seen whole at that moment (log 99). -/
def State.readRecord (s : State) (fn va : Nat) : Except Nat NestRec × State :=
  if va % 256 ≠ 0 then (.error 0x01, s)
  else match s.unitRead fn va 256 with
    | (.error _, s1) => (.error 0x01, s1)
    | (.ok b, s1) => (if refusalCode b = 0 then .ok (recordOf b) else .error (refusalCode b), s1)

/-- The lowest free nest identifier of a walker (R53, log 14). -/
def Walker.freeId (w : Walker) : Option Nat := (List.range Config.nests).find? (fun i => (w.nest i).isNone)

/-- A nest as installed: nothing opened (R53, R59). -/
def newNest (uid fn queue : Nat) (r : NestRec) : Nest where
  uid := uid
  rcd := r
  fn := fn
  hi := (r.levels.take r.walk).map (·.hi)
  ptr := some []
  released := 0
  retired := 0
  forgone := 0
  held := 0
  queue := queue
  finishing := false

end Sys2Proof.Machine
end

