-- ==== Sys2Proof/Machine/Queue.lean ====
section
/-!
DEFINITION. Host queues (R36 to R44): notify writes, queue commands, the reading of slots, and what stops a queue
(R49).
-/
namespace Sys2Proof.Machine
open Sys2Proof

/-! ## Queues and packets of a function -/

/-- A function runs: it holds its partition's slice and no world switch is under way (R50, R78). -/
def State.fnRuns (s : State) (fn : Nat) : Bool :=
  (s.part (s.partOf fn)).running == some fn && !(s.part (s.partOf fn)).switching

/-- An enabled queue of a function. -/
def State.queue (s : State) (fn q : Nat) : Option Queue := (s.func fn).queues.get q

/-- Changes an enabled queue. -/
def State.onQueue (s : State) (fn q : Nat) (f : Queue → Queue) : State :=
  s.onFunc fn (fun k => { k with queues := k.queues.upd q (fun o => o.map f) })

/-- TYPE, STAT, the RIDX flag, TAG and STATADDR (Table 3-7). -/
def Packet.type (p : Packet) : Nat := p.get 0 1
def Packet.stat (p : Packet) : Bool := bitOf (p.get 0 8) 9
def Packet.ridx (p : Packet) : Bool := bitOf (p.get 0 8) 8
def Packet.tag (p : Packet) : Nat := p.get 2 2
def Packet.statAddr (p : Packet) : Nat := p.get 8 8

/-- The status word (R48). -/
def Packet.statusWord (p : Packet) (code nest : Nat) : Nat := code + 2 ^ 16 * p.tag + 2 ^ 32 * nest

/-- Stores bytes of one sector for a function, performed at once at this device (log 16), but where they must wait at their home
slice as any write: for a view, or for a commit mark (R162, R312). -/
def State.unitPoke (s : State) (fn va : Nat) (bytes : List Byte) : Option Cause × State :=
  match s.translateUnit fn va .write with
  | (.error c, s1) => (some c, s1)
  | (.ok tg, s1) =>
    if tg.peer || s1.unitHeld tg.pa bytes.length then (none, s1.unitSend (.unit fn) fn va tg bytes none)
    else
      let (bs, s2) := s1.blurStore fn va tg bytes
      let (pa, b) := s2.stored tg.pa bs
      if s1.unformable pa then (some .poison, s1) else (none, s2.writeUnit (ownerCode fn) 0 pa b)

/-- Stores a packet's status word where STAT is set (R48). -/
def State.statusPoke (s : State) (fn : Nat) (p : Packet) (code nest : Nat) : Option Cause × State :=
  if p.stat then s.unitPoke fn p.statAddr (leBytes 8 (p.statusWord code nest)) else (none, s)

/-- A queue is disabled: packets that have begun go on, the others are abandoned (R38). A drained segment that still
waits for room in the free list is not given back (log 99). -/
def FuncSt.disable (k : FuncSt) (q : Nat) : FuncSt :=
  match k.queues.get q with
  | none => k
  | some x => { k with queues := k.queues.set q none, leftovers := k.leftovers ++ x.packets.filter (·.begun) }

/-- A packet leaves its queue or the packets left over. -/
def FuncSt.dropPacket (k : FuncSt) (id : Nat) : FuncSt :=
  { k with
    queues := k.queues.map (fun e => (e.1, e.2.map (fun x => { x with packets := x.packets.filter (·.id != id) })))
    leftovers := k.leftovers.filter (·.id != id) }

/-- ERRCODE and ERRSLOT, with the zeros after them (Table 3-5). -/
def errBytes (code : Nat) (slot : Word) : List Byte := leBytes 4 code ++ leBytes 4 slot.toNat ++ List.replicate 16 0

/-- A queue stops (R49): the status block, the packet's status word where it is usable, the disable, vector 0. Packets
that were read and have not begun are abandoned, those before ERRSLOT of a code 0x26 among them (log 99). -/
def State.stopQueue (s : State) (fn q : Nat) (block : DWord) (code : Nat) (slot : Word) (p : Option Packet) : State :=
  let s1 := (s.unitPoke fn (block.toNat + 8) (errBytes code slot)).2
  let s2 := match p with
    | some p => if p.statAddr % 8 = 0 then (s1.statusPoke fn p code 0).2 else s1
    | none => s1
  ((s2.onFunc fn (fun k => (match p with | some p => k.dropPacket p.id | none => k).disable q))).msi fn 0

/-- A packet stops its queue; one left over from an earlier enable disables nothing (R38, R49). -/
def State.stopPacket (s : State) (fn : Nat) (p : Packet) (code : Nat) : State :=
  let here := match s.queue fn p.queue with
    | some x => x.packets.any (·.id == p.id)
    | none => false
  s.stopQueue fn (if here then p.queue else 256) p.block code p.idx (some p)

/-! ## NOTIFY (R37, R40, R42) -/

/-- DROPCNT counts a dropped notify write (R37). -/
def State.dropNotify (s : State) (fn : Nat) : State :=
  s.setReg (.dropcnt fn) (BitVec.ofNat 64 (min (2 ^ 32 - 1) ((s.reg (.dropcnt fn)).toNat + 1)))

/-- The kinds of write that a NOTIFY register takes (R37). -/
def notifyTakes (off size : Nat) (value : DWord) : Bool :=
  (size == 8 && off % 8 == 0 && value.toNat / 2 ^ 32 == 0) || (size == 4 && off % 8 == 0)

/-- A write of PIDX to an enabled queue (R40, R42). -/
def State.notify (s : State) (fn q : Nat) (x : Queue) (pidx : Word) : State :=
  if 2 ^ 31 ≤ (pidx - x.kept).toNat then s
  else if !x.segmented && decide (2 ^ x.logSlots < (pidx - x.cidx).toNat) then s.stopQueue fn q x.status 0x26 x.cidx none
  else s.onQueue fn q (fun x => { x with kept := pidx })

/-- Sizes of a write to a BAR. -/
def sizeOk (size : Nat) : Bool := size == 1 || size == 2 || size == 4 || size == 8

/-- A write to the NOTIFY registers of a function (R37). -/
def State.writeNotify (s : State) (fn off size : Nat) (value : DWord) : State :=
  match s.queue fn (off / 8) with
  | some x => if notifyTakes off size value then s.notify fn (off / 8) x (value.setWidth 32) else s.dropNotify fn
  | none => s.dropNotify fn

/-- NOTIFY_WRITE (R37, R40, R42). -/
def execNotifyWrite (fn off size : Nat) (value : DWord) (s : State) : Result :=
  .next (if 64 < fn ∨ 0x800 ≤ off ∨ !sizeOk size then s else s.writeNotify fn off size value)

/-! ## QCMD (R37 to R39, R44) -/

/-- A disable command runs: a packet in progress that it waits for is not finished (R37, R38, log 52). -/
def State.qcmdBusy (s : State) (fn : Nat) : Bool :=
  (s.func fn).busyOn.any (fun id => (s.func fn).leftovers.any (·.id == id))

/-- QUEUE and RESULT of QCMD (Table 3-2). -/
def State.qcmdResult (s : State) (fn q result : Nat) : State :=
  s.setReg (.qcmd fn) (BitVec.ofNat 64 (q % 256 + 2 ^ 16 * result))

/-- The ring kind of the configuration is segmented (Table 3-4). -/
def State.segmentedRings (s : State) : Bool := decide (8 ≤ s.parts')

/-- A field of a descriptor is out of range, or a reserved one is not zero (Table 3-3). -/
def badDescriptor (seg : Bool) (b : List Byte) : Bool :=
  let w := fld b 0x18 4
  let slots := w / 2 % 32
  let logn := w / 2 ^ 6 % 16
  fld b 0 8 % 64 != 0 || fld b 8 8 % 32 != 0 || decide (2 ^ 14 ≤ w) || !zeroRun b 0x1C 36 ||
    decide (slots < 6) || decide (16 < slots) ||
    (if seg then fld b 0x10 8 % 16 != 0 || logn != 0
     else fld b 0x10 8 != 0 || decide (logn < 4) || decide (10 < logn))

/-- A CAP that a free list may have: a power of two up to 2^20 (R44). -/
def capOk (cap : Nat) : Bool := (List.range 21).any (fun i => cap == 2 ^ i)

/-- The queue that a descriptor enables, with HEAD and CAP of its free list (R38, R44). -/
def queueOf (b : List Byte) (head cap : Nat) : Queue where
  base := BitVec.ofNat 64 (fld b 0 8)
  status := BitVec.ofNat 64 (fld b 8 8)
  freeList := BitVec.ofNat 64 (fld b 0x10 8)
  prio := fld b 0x18 4 / 2 ^ 10 % 16
  logN := fld b 0x18 4 / 2 ^ 6 % 16
  logSlots := fld b 0x18 4 / 2 % 32
  segmented := bitOf (fld b 0x18 4) 0
  cidx := 0
  kept := 0
  seg := BitVec.ofNat 64 (fld b 0 8)
  segLog := fld b 0x18 4 / 2 % 32
  segFirst := 0
  flHead := BitVec.ofNat 32 head
  flCap := cap
  drained := none
  packets := []
  nests := []

/-- The checks of an enable command after the first two (R39): RESULT, or the queue. -/
def State.enabledQueue (s : State) (fn q : Nat) : Except Nat Queue × State :=
  let seg := s.segmentedRings
  match s.unitRead fn ((s.reg (.qtbase fn)).toNat + 64 * q) 64 with
  | (.error _, s1) => (.error 1, s1)
  | (.ok b, s1) =>
    if bitOf (fld b 0x18 4) 0 != seg then (.error 3, s1)
    else if badDescriptor seg b then (.error 2, s1)
    else if !seg then (.ok (queueOf b 0 0), s1)
    else match s1.unitRead fn (fld b 0x10 8) 16 with
      | (.error _, s2) => (.error 1, s2)
      | (.ok f, s2) => (if capOk (fld f 8 4) then .ok (queueOf b (fld f 0 4) (fld f 8 4)) else .error 2, s2)

/-- An enable command (R38, R39). -/
def State.enableQueue (s : State) (fn q : Nat) : State :=
  if (s.queue fn q).isSome then s.qcmdResult fn q 4
  else match s.enabledQueue fn q with
    | (.error r, s1) => s1.qcmdResult fn q r
    | (.ok x, s1) => (s1.onFunc fn (fun k => { k with queues := k.queues.set q (some x) })).qcmdResult fn q 0

/-- A disable command (R38, R39). -/
def State.disableQueue (s : State) (fn q : Nat) : State :=
  match s.queue fn q with
  | none => s.qcmdResult fn q 4
  | some x =>
    (s.onFunc fn (fun k => { k.disable q with busyOn := (x.packets.filter (·.begun)).map (·.id) })).qcmdResult fn q 0

/-- A command of QCMD runs, unless one is under way (R37). -/
def State.qcmd (s : State) (fn : Nat) (k : State → State) : State := if 64 < fn || s.qcmdBusy fn then s else k s

/-- QCMD_ENABLE (R38, R39). -/
def execQcmdEnable (fn queue : Nat) (s : State) : Result := .next (s.qcmd fn (·.enableQueue fn (queue % 256)))

/-- QCMD_DISABLE (R38, R39). -/
def execQcmdDisable (fn queue : Nat) (s : State) : Result := .next (s.qcmd fn (·.disableQueue fn (queue % 256)))

/-- QCMD_RESERVED_OP (R39): OP 3 gives RESULT 2. -/
def execQcmdReservedOp (fn queue : Nat) (s : State) : Result :=
  .next (s.qcmd fn (·.qcmdResult fn (queue % 256) 2))

/-- A write to QCMD by its OP (R39, Table 3-2). -/
def State.writeQcmd (s : State) (fn v : Nat) : State :=
  let q := v % 256
  s.qcmd fn (fun s =>
    match v / 256 % 4 with
    | 0 => s.setField (.qcmd fn) 0 8 q
    | 1 => s.enableQueue fn q
    | 2 => s.disableQueue fn q
    | _ => s.qcmdResult fn q 2)

/-! ## The checks on a packet (R45, R49) -/

/-- Where the body that a type uses ends (Table 3-8). -/
def bodyEnd (ty : Nat) : Nat :=
  match ty with
  | 0 => 0x10 | 1 => 0x18 | 2 => 0x1D | 3 => 0x25 | 4 => 0x23 | 5 => 0x29 | 6 => 0x11 | 7 => 0x19 | _ => 0x18

/-- Packet types that are barriers (Table 3-8). -/
def barrierType (ty : Nat) : Bool := ty == 4 || ty == 5 || ty == 6 || ty == 8

/-- Code 0x21 of the fields of the body. -/
def Packet.badBody (p : Packet) : Bool :=
  match p.type with
  | 2 => p.get 0x18 4 == 0 || decide (64 < p.get 0x18 4) || decide (3 < p.get 0x1C 1)
  | 3 => p.get 0x20 4 == 0 || decide (2 < p.get 0x24 1)
  | 4 => decide (1 < p.get 0x20 1) || decide (p.get 0x21 1 < 3) || decide (5 < p.get 0x21 1) || p.get 0x22 1 / 32 % 4 != 0
  | 5 => decide (2 < p.get 0x28 1)
  | 6 => decide (1 < p.get 0x10 1)
  | 7 => decide (p.get 0x18 1 < 6) || decide (16 < p.get 0x18 1)
  | _ => false

/-- Code 0x21 (R45, R49). -/
def Packet.badFields (p : Packet) : Bool :=
  p.get 4 4 != 0 || p.get 0 8 / 2 ^ 10 % 64 != 0 || (!p.stat && p.statAddr != 0) || p.badBody ||
    (List.range 64).any (fun i => decide (bodyEnd p.type ≤ i) && decide (0x10 ≤ i) && p.get i 1 != 0)

/-- Alignment of the address at 0x10; that of an INSTALL is no matter of the queue (Table 3-9). -/
def bodyAlign (ty : Nat) : Nat :=
  match ty with
  | 2 => 32 | 4 => 8 | 5 => 8 | 7 => 64 | 8 => 8 | _ => 1

/-- Code 0x22. -/
def Packet.badAlign (p : Packet) : Bool := (p.stat && p.statAddr % 8 != 0) || p.get 0x10 8 % bodyAlign p.type != 0

/-- The codes that a packet's bytes alone give, 0 for none (R49). -/
def Packet.staticCode (p : Packet) : Nat :=
  if 8 < p.type then 0x20 else if p.badFields then 0x21 else if p.badAlign then 0x22 else 0

/-- The code of a cause on an operand's access, 0 for none. -/
def causeStop : Option Cause → Nat
  | none => 0
  | some c => packetCode c

/-- The translation of an access of a unit, for its fault alone. -/
def State.probe (s : State) (fn va : Nat) (need : Need) : Option Cause :=
  match (s.translateUnit fn va need).1 with
  | .error c => some c
  | .ok _ => none

/-- The code of a read of a unit, 0 for none. -/
def State.readCode (s : State) (fn va n : Nat) : Nat :=
  match (s.unitRead fn va n).1 with
  | .error c => packetCode c
  | .ok _ => 0

/-- BYTES of a COPY. -/
def Packet.size (p : Packet) : Nat := p.get 0x20 4

/-- Bytes of a COPY's next piece: one sector at both ends. -/
def Packet.piece (p : Packet) : Nat :=
  let src := p.get 0x10 8 + p.copied
  let dst := p.get 0x18 8 + p.copied
  min (min (64 - src % 64) (64 - dst % 64)) (p.size - p.copied)

/-- The lowest code of the operands of a packet (R49): APPEND reads its records, WAIT its word, SIGNAL and TIMESTAMP
write theirs; of a COPY the piece that it moves next is looked at, its first before it has begun (log 99). -/
def State.operandCode (s : State) (fn : Nat) (p : Packet) : Nat :=
  match p.type with
  | 2 => lowest ((List.range (p.get 0x18 4)).map (fun i => s.readCode fn (p.get 0x10 8 + 32 * i) 32))
  | 3 => lowest [s.readCode fn (p.get 0x10 8 + p.copied) p.piece, causeStop (s.probe fn (p.get 0x18 8 + p.copied) .write)]
  | 4 => match (s.translateUnit fn (p.get 0x10 8) .write).1 with
    | .error c => packetCode c
    | .ok tg => if p.get 0x20 1 = 1 ∧ regionOf tg.pa = .view then 0x23 else 0
  | 5 => s.readCode fn (p.get 0x10 8) 8
  | 8 => causeStop (s.probe fn (p.get 0x10 8) .write)
  | _ => 0

/-- The code of the store of a packet's status word, 0 for none. -/
def State.statusCode (s : State) (fn : Nat) (p : Packet) : Nat :=
  if p.stat then causeStop (s.probe fn p.statAddr .write) else 0

/-- The lowest code of a packet's accesses: of its status word and of its operands (R49). -/
def State.accessCode (s : State) (fn : Nat) (p : Packet) : Nat := lowest [s.statusCode fn p, s.operandCode fn p]

/-- A LINK in a flat ring, or another packet at the end of a segment: code 0x25 (R43). -/
def Queue.badEnd (x : Queue) (p : Packet) : Bool :=
  if x.segmented then (p.idx - x.segFirst).toNat + 1 == 2 ^ x.segLog && p.type != 7 else p.type == 7

/-! ## SLOT_READ (R40 to R46) -/

/-- Address of the slot of the next packet (R42, R43). -/
def Queue.slot (x : Queue) : Nat :=
  (if x.segmented then x.seg.toNat + 64 * (x.cidx - x.segFirst).toNat else x.base.toNat + 64 * (x.cidx.toNat % 2 ^ x.logSlots)) %
    2 ^ 64

/-- The front end reads a slot of the queue next: its packet has been notified, the one before has begun and is not
stalled, and no segment waits to be given back (R40, R44, R46). -/
def Queue.reads (x : Queue) : Bool :=
  x.cidx != x.kept && x.drained.isNone && x.packets.all (fun p => p.begun && !p.stalled)

/-- The packet of a slot as read. -/
def packetOf (id q : Nat) (x : Queue) (b : List Byte) : Packet where
  id := id
  queue := q
  idx := x.cidx
  words := (List.range 8).map (fun i => BitVec.ofNat 64 (fld b (8 * i) 8))
  block := x.status
  begun := false
  stalled := false
  copied := 0
  nests := []
  code := 0
  ask := none

/-- The count of packets read is published after a packet (R42). -/
def Queue.publishes (x : Queue) (p : Packet) : Bool := !x.segmented && ((x.cidx + 1).toNat % 2 ^ x.logN == 0 || p.ridx)

/-- A packet has been read: RIDX, then the checks that its bytes and the ring's shape give (R42, R49). A packet that one
of these checks fails stops its queue as it is read, whatever earlier packets are still under way (log 99). -/
def State.slotTaken (s : State) (fn q : Nat) (x : Queue) (p : Packet) : State :=
  let s1 := s.onQueue fn q (fun x => { x with cidx := x.cidx + 1, packets := x.packets ++ [p] })
  let (lost, s2) := if x.publishes p then s1.unitPoke fn x.status.toNat (leBytes 8 (x.cidx + 1).toNat) else (none, s1)
  let c := p.staticCode
  if c ≠ 0 then s2.stopPacket fn p c
  else if lost.isSome then s2.stopPacket fn p (lowest [causeStop lost, s2.accessCode fn p])
  else if x.badEnd p then s2.stopPacket fn p (if s2.accessCode fn p ≠ 0 then s2.accessCode fn p else 0x25)
  else s2

/-- SLOT_READ (R40 to R43, R49). -/
def execSlotRead (fn queue : Nat) (s : State) : Result :=
  .next (match s.queue fn queue with
    | none => s
    | some x =>
      if !s.fnRuns fn || !x.reads || s.unitBusy fn x.slot then s
      else match s.unitRead fn x.slot 64 with
        | (.error c, s1) => s1.stopQueue fn queue x.status (packetCode c) x.cidx none
        | (.ok b, s1) =>
          let (id, s2) := s1.newId
          s2.slotTaken fn queue x (packetOf id queue x b))

end Sys2Proof.Machine
end

