-- ==== Sys2Proof/Machine/Packet.lean ====
section
/-!
DEFINITION. Command packets (R45 to R49): how each begins, what it does, when it completes.
-/
namespace Sys2Proof.Machine
open Sys2Proof

/-! ## Beginning (R46) -/

/-- The packet of a queue that may begin: the one before is no longer stalled, no barrier is under way, and a
barrier waits for every earlier packet. The earlier packets of a queue are those of its present enable: whether packets that
began under an earlier one and still run hold up a barrier the spec does not say, and here they do not (log 53). -/
def Queue.next (x : Queue) : Option Packet :=
  match x.packets.find? (fun p => !p.begun) with
  | none => none
  | some p =>
    let before := x.packets.filter (·.begun)
    if before.any (fun o => o.stalled || barrierType o.type) || (barrierType p.type && !before.isEmpty) then none else some p

/-- The queues of a function with a packet ready to begin. -/
def FuncSt.readyQueues (k : FuncSt) : List (Nat × Queue) :=
  k.queues.filterMap (fun e => e.2.bind (fun x => if x.next.isSome then some (e.1, x) else none))

/-- The queue whose packet begins next: highest PRIO, then round-robin (R46). -/
def FuncSt.chosen (k : FuncSt) : Option Nat :=
  let rs := k.readyQueues
  let top := rs.foldl (fun m e => max m e.2.prio) 0
  let best := (rs.filter (·.2.prio == top)).map (·.1)
  match best.find? (fun q => decide (k.lastQueue < q)) with
  | some q => some q
  | none => best.head?

/-! ## The end of a slice, as the front ends see it (R50, R77, R78) -/

/-- Entry `k` of a slice table names a function assigned to the partition (Table 5-3). -/
def State.sliceFn (s : State) (p k : Nat) : Option Nat :=
  let v := s.field (.pslice p k) 16 6
  if s.field (.pslice p k) 31 1 = 1 ∧ s.field (.vfpart v) 31 1 = 1 ∧ s.field (.vfpart v) 0 4 = p then some v else none

/-- A function has an installed nest. -/
def State.hasNests (s : State) (fn : Nat) : Bool :=
  (List.range Config.nests).any (fun i => ((s.shareOf fn).nest i).isSome)

/-- A queue has a packet ready to begin (R46): one that has been read, or the one in a slot that may be read, unless a
barrier is under way. -/
def Queue.readyPacket (x : Queue) : Bool := x.next.isSome || (x.reads && !x.packets.any (fun p => barrierType p.type))

/-- A function is idle (R77): no packet ready to begin, no nest, no saved crew that awaits restore. -/
def State.fnIdle (s : State) (fn : Nat) : Bool :=
  !(s.func fn).queues.any (fun e => match e.2 with
    | some x => x.readyPacket
    | none => false) &&
  !s.hasNests fn && !s.crewList.any (fun e => e.2.fn == fn && e.2.loc.isNone && e.2.fst.state == 2)

/-- The entries of a slice table in cyclic order after `k`. -/
def cyclic (k : Nat) : List Nat := (List.range 16).map (fun i => (k + 1 + i) % 16)

/-- The next entry that is not passed over, and its function (R77). -/
def State.nextSlice (s : State) (p : Nat) : Option (Nat × Nat) :=
  (cyclic (s.part p).slice).findSome? (fun k =>
    match s.sliceFn p k with
    | some v => if s.field (.pslice p k) 30 1 = 1 ∧ s.fnIdle v then none else some (k, v)
    | none => none)

/-- Some valid entry names an assigned function (R78). -/
def State.anySlice (s : State) (p : Nat) : Option (Nat × Nat) :=
  (cyclic (s.part p).slice).findSome? (fun k => (s.sliceFn p k).map (fun v => (k, v)))

/-- LEN of an entry in units of 10 µs; 0 is read as 1. -/
def State.sliceLen (s : State) (p k : Nat) : Nat := max 1 (s.field (.pslice p k) 0 16)

/-- The current slice of a partition has run its length (R77). -/
def State.sliceOver (s : State) (p : Nat) : Bool :=
  decide ((s.part p).since + (s.part p).len * 10 * Config.fabPerUs ≤ s.fab)

/-- The slice of a partition's function has ended and another entry, or none, follows: a world switch is due (R50, R77,
R78). -/
def State.switchDue (s : State) (p : Nat) : Bool :=
  s.sliceOver p && ((s.anySlice p).isNone || match s.nextSlice p with
    | some (_, v) => (s.part p).running != some v
    | none => false)

/-- A function's packets may begin: it runs, and no world switch is due (R50, log 100). -/
def State.begins (s : State) (fn : Nat) : Bool := s.fnRuns fn && !s.switchDue (s.partOf fn)

/-- A packet that does not hold up a world switch: one that has not begun, a WAIT, a COPY at a 4 KiB boundary of DST
(R50). -/
def Packet.mayPause (p : Packet) : Bool :=
  !p.begun || p.type == 5 || (p.type == 3 && decide (p.copied < p.get 0x20 4) && (p.get 0x18 8 + p.copied) % 4096 == 0)

/-- Every packet of a function that a world switch waits for has completed (R50). -/
def State.packetsPause (s : State) (fn : Nat) : Bool :=
  ((s.func fn).leftovers ++ (s.func fn).queues.flatMap (fun e => (e.2.map (·.packets)).getD [])).all (·.mayPause)

/-- An access that a packet makes now waits for a view (R162). -/
def State.packetBusy (s : State) (fn : Nat) (p : Packet) : Bool :=
  (p.stat && s.unitBusy fn p.statAddr) ||
  match p.type with
  | 1 => s.unitBusy fn (p.get 0x10 8)
  | 2 => (List.range (p.get 0x18 4)).any (fun i => s.unitBusy fn (p.get 0x10 8 + 32 * i))
  | 3 => s.unitBusy fn (p.get 0x10 8 + p.copied) || s.unitBusy fn (p.get 0x18 8 + p.copied)
  | 4 | 5 | 8 => s.unitBusy fn (p.get 0x10 8)
  | _ => false

/-- A packet of a queue begins, where it is the one that begins next and of type `ty`: a fault of its accesses
stops the queue, else `k` performs it (R46, R49). -/
def State.beginPacket (s : State) (fn q ty : Nat) (k : State → Queue → Packet → State) : State :=
  if !s.begins fn || (s.func fn).chosen != some q then s
  else match s.queue fn q with
    | none => s
    | some x =>
      match x.next with
      | none => s
      | some p =>
        if p.type ≠ ty || s.packetBusy fn p then s
        else
          let s1 := s.onFunc fn (fun f => { f with lastQueue := q })
          let c := s1.accessCode fn p
          if c ≠ 0 then s1.stopPacket fn p c
          else k (s1.onPacket fn p.id (fun p => { p with begun := true })) x { p with begun := true }

/-- A packet completes with a code and a nest identifier: its status word, then it is gone (R48). -/
def State.finishPacket (s : State) (fn : Nat) (p : Packet) (code nest : Nat) : State :=
  match s.statusPoke fn p code nest with
  | (some c, s1) => s1.stopPacket fn p (packetCode c)
  | (none, s1) => s1.onFunc fn (·.dropPacket p.id)

/-- A packet stalls (R46). -/
def State.stallPacket (s : State) (fn : Nat) (p : Packet) : State := s.onPacket fn p.id (fun p => { p with stalled := true })

/-- The stalled packet of a type in a queue or left over from it. -/
def FuncSt.stalledPacket (k : FuncSt) (q ty : Nat) : Option Packet :=
  let here := match k.queues.get q with
    | some x => x.packets
    | none => []
  (k.leftovers ++ here).find? (fun p => p.queue == q && p.stalled && p.type == ty)

/-! ## NOP and INSTALL (R47) -/

/-- PKT_NOP: completes at once. -/
def execPktNop (fn queue : Nat) (s : State) : Result :=
  .next (s.beginPacket fn queue 0 (fun s _ p => s.finishPacket fn p 0 0))

/-- Cores whose crews belong to a partition's function. -/
def State.coreOfPart (s : State) (p core : Nat) : Bool :=
  match (s.cluster (core / 4)).lent with
  | some q => q == p
  | none => s.clusterPart (core / 4) == p

/-- The instruction caches of a partition's cores are invalidated (R96). -/
def State.dropCode (s : State) (p : Nat) : State := { s with icache := s.icache.filter (fun b => !s.coreOfPart p b.core) }

/-- An INSTALL takes an identifier, or is refused (R32, R47, R53). The record is read and checked now, after a stall for
an identifier (log 99). A nest with an empty walked space completes at once (R31). -/
def State.install (s : State) (fn : Nat) (p : Packet) (id : Nat) : State :=
  match s.readRecord fn (p.get 0x10 8) with
  | (.error c, s1) => s1.finishPacket fn p c 0
  | (.ok r, s1) =>
    let (uid, s2) := s1.newId
    let part := s.partOf fn
    let n := newNest uid fn p.queue r
    let s3 := (s2.onWalker part (fun w => { w with nests := w.nests.set id (some n) })).dropCode part
    let s4 := s3.onQueue fn p.queue (fun x => if x.packets.any (·.id == p.id) then { x with nests := x.nests ++ [uid] } else x)
    (s4.completeIfEmpty part id n).finishPacket fn p 0 id

/-- PKT_INSTALL (R47, R48): a misaligned RECORD is refused, a walker with 32 nests stalls the packet before its record
is read; that order is the model's choice (log 99). -/
def execPktInstall (fn queue : Nat) (s : State) : Result :=
  .next (s.beginPacket fn queue 1 (fun s _ p =>
    if p.get 0x10 8 % 256 ≠ 0 then s.finishPacket fn p 0x01 0
    else match (s.walker (s.partOf fn)).freeId with
      | none => s.stallPacket fn p
      | some id => s.install fn p id))

/-- INSTALL_STALL_END (R46, R47). -/
def execInstallStallEnd (fn queue : Nat) (s : State) : Result :=
  .next (match (s.func fn).stalledPacket queue 1, (s.walker (s.partOf fn)).freeId with
    | some p, some id =>
      if !s.fnRuns fn then s
      else (s.onPacket fn p.id (fun p => { p with stalled := false })).install fn { p with stalled := false } id
    | _, _ => s)

/-! ## APPEND (R47, R65, R67) -/

/-- The work entry of a record in memory (Table 4-3). -/
def entryOf (b : List Byte) : Entry :=
  workEntry (BitVec.ofNat 64 (fld b 0 8)) ((List.range 3).map (fun i => BitVec.ofNat 64 (fld b (8 + 8 * i) 8)))

/-- The records are inserted together, and drawers wake (R47). -/
def State.appendPacket (s : State) (fn : Nat) (p : Packet) : State :=
  let part := s.partOf fn
  let dq := p.get 0x1C 1
  match s.unitReads fn (p.get 0x10 8) 32 (p.get 0x18 4) with
  | (.error _, s1) => s1.stopPacket fn p (s.accessCode fn p)
  | (.ok rs, s1) => (s1.onWalker part (fun w => w.insert dq (rs.map entryOf))).wakeDrawers part dq

/-- Room for an APPEND's records. -/
def Walker.roomFor (w : Walker) (p : Packet) : Bool := decide (p.get 0x18 4 ≤ w.room (p.get 0x1C 1))

/-- PKT_APPEND (R47, R67): it stalls behind another packet that waits on its deal queue, and until it has room. -/
def execPktAppend (fn queue : Nat) (s : State) : Result :=
  .next (s.beginPacket fn queue 2 (fun s _ p =>
    let w := s.walker (s.partOf fn)
    if w.packetWaits (p.get 0x1C 1) || !w.roomFor p then
      (s.stallPacket fn p).onWalker (s.partOf fn) (fun w => { w with waits := w.waits ++ [(p.get 0x1C 1, queue)] })
    else s.appendPacket fn p))

/-- APPEND_STALL_END (R46, R67): packets that wait on one deal queue are inserted in the order of their waiting. -/
def execAppendStallEnd (fn queue : Nat) (s : State) : Result :=
  .next (match (s.func fn).stalledPacket queue 2 with
    | none => s
    | some p =>
      let w := s.walker (s.partOf fn)
      let dq := p.get 0x1C 1
      if !s.fnRuns fn || w.waits.find? (·.1 == dq) != some (dq, queue) || !w.roomFor p then s
      else
        let s1 := (s.onPacket fn p.id (fun p => { p with stalled := false })).onWalker (s.partOf fn)
          (fun w => { w with waits := w.waits.erase (dq, queue) })
        s1.appendPacket fn { p with stalled := false })

/-! ## COPY (R47, R49, R50) -/

/-- The largest aligned power of two of bytes, up to 64, that begins a run (R331). -/
def alignedRun (a n : Nat) : Nat := ([64, 32, 16, 8, 4, 2].find? (fun k => a % k == 0 && decide (k ≤ n))).getD 1

/-- The source bytes of a COPY's next piece: another device's are asked for (R334). -/
inductive PieceIn where
  | ok (bytes : List Byte)
  | wait
  | fault (c : Cause)

/-- Reads the source of a COPY's next piece. Another device is asked for an aligned power of two of bytes, which is then the
piece (R331). -/
def State.pieceIn (s : State) (fn : Nat) (p : Packet) : PieceIn × State :=
  let va := p.get 0x10 8 + p.copied
  match s.translateUnit fn va .read with
  | (.error c, s1) => (.fault c, s1)
  | (.ok tg, s1) =>
    if tg.peer then
      match p.ask with
      | some a => match a.data with
        | some bs => (.ok bs, s1.onPacket fn p.id (fun p => { p with ask := none }))
        | none => (.wait, s1)
      | none =>
        let a : Ask := {
          key := va, pa := tg.pa, width := alignedRun tg.pa p.piece, tag := freeTag s1.tagsInUse s1.tagsInUse.length s1.nextId, sent := s.fab
          data := none }
        (.wait, s1.onPacket fn p.id (fun p => { p with ask := some a }))
    else match s1.unitReadAs p.cls fn va p.piece with
      | (.error c, s2) => (.fault c, s2)
      | (.ok bs, s2) => (.ok bs, s2)

/-- An access of a packet faults: the packet stops its queue with the lowest code that applies to it, once none of its writes
can add one (R49). -/
def State.failPacket (s : State) (fn : Nat) (p : Packet) (code : Nat) : State :=
  let c := lowest [code, p.code, s.accessCode fn p]
  if s.writes.any (fun (w : Write) => w.by_ == .packet fn p.id) then s.packetError fn p.id c else s.stopPacket fn p c

/-- The next piece of a COPY, whose requests carry its CLASS; where source and destination overlap the bytes are
indeterminate (R47). -/
def State.copyPiece (s : State) (fn : Nat) (p : Packet) : State :=
  let src := p.get 0x10 8
  let dst := p.get 0x18 8
  match s.pieceIn fn p with
  | (.wait, s1) => s1
  | (.fault c, s1) => s1.failPacket fn p (packetCode c)
  | (.ok bs, s1) =>
    let n := bs.length
    let open_ := (List.range n).map (fun i =>
      let d := dst + p.copied + i
      if decide (src ≤ d) && decide (d < src + p.size) then none else some (bs.getD i 0))
    let (out, s2) := s1.fillFree open_
    match s2.unitStore (.packet fn p.id) fn (dst + p.copied) out with
    | (some c, s3) => s3.failPacket fn p (packetCode c)
    | (none, s3) => s3.onPacket fn p.id (fun p => { p with copied := p.copied + n })

/-- The packets of a queue that are under way, or left over from it. -/
def FuncSt.allUnderWay (k : FuncSt) (q ty : Nat) (more : Packet → Bool) : List Packet :=
  let here := match k.queues.get q with
    | some x => x.packets
    | none => []
  (k.leftovers ++ here).filter (fun p => p.queue == q && p.begun && !p.stalled && p.type == ty && more p)

/-- The first of them. -/
def FuncSt.underWay (k : FuncSt) (q ty : Nat) (more : Packet → Bool) : Option Packet := (k.allUnderWay q ty more).head?

/-- A COPY goes on: always in its function's slice; once a world switch is due, up to a 4 KiB boundary of DST (R50). -/
def State.copyGoes (s : State) (fn : Nat) (p : Packet) : Bool :=
  (s.part (s.partOf fn)).running == some fn && (s.begins fn || (p.get 0x18 8 + p.copied) % 4096 != 0)

/-- The packet that a queue begins next is of a type. -/
def State.beginsNext (s : State) (fn q ty : Nat) : Bool :=
  s.begins fn && (s.func fn).chosen == some q && (((s.queue fn q).bind (·.next)).map (·.type)) == some ty

/-- One of the COPY packets of a queue that may go on, by free choice, moves its next piece (R46, R47). -/
def State.copyOn (s : State) (fn q : Nat) : State :=
  let ps := ((s.func fn).allUnderWay q 3 (fun p => decide (p.copied < p.size) && p.code == 0)).filter
    (fun p => s.copyGoes fn p && !s.packetBusy fn p)
  let (k, s1) := s.choose ps.length
  match ps[k]? with
  | some p => s1.copyPiece fn p
  | none => s

/-- PKT_COPY (R46, R47, R50): a COPY begins where it may, else one under way moves its next piece. -/
def execPktCopy (fn queue : Nat) (s : State) : Result :=
  .next (if s.beginsNext fn queue 3 then s.beginPacket fn queue 3 (fun s _ p => s.copyPiece fn p) else s.copyOn fn queue)

/-! ## SIGNAL, WAIT, FENCE, TIMESTAMP (R47) -/

/-- The wrapping add of a SIGNAL. -/
def signalAdd (v : DWord) : AtomOp := { op := 0, ty := .b64, b := v, c := 0, d := none, acq := .none }

/-- PKT_SIGNAL: the store or the add is sent. -/
def execPktSignal (fn queue : Nat) (s : State) : Result :=
  .next (s.beginPacket fn queue 4 (fun s _ p =>
    let va := p.get 0x10 8
    match s.translateUnit fn va .write with
    | (.error c, s1) => s1.stopPacket fn p (packetCode c)
    | (.ok tg, s1) =>
      s1.unitSend (.packet fn p.id) fn va tg (leBytes 8 (p.get 0x18 8))
        (if p.get 0x20 1 = 1 then some (signalAdd (BitVec.ofNat 64 (p.get 0x18 8))) else none)))

/-- The comparison of a WAIT (R47). -/
def Packet.holds (p : Packet) (x : DWord) : Bool :=
  let v := BitVec.ofNat 64 (p.get 0x18 8)
  let m := BitVec.ofNat 64 (p.get 0x20 8)
  match p.get 0x28 1 with
  | 0 => x &&& m == v &&& m
  | 1 => x &&& m != v &&& m
  | _ => decide (((x - v) &&& m).toNat < 2 ^ 63)

/-- A WAIT reads its word (R47). -/
def State.look (s : State) (fn : Nat) (p : Packet) : State :=
  match s.unitRead fn (p.get 0x10 8) 8 with
  | (.error c, s1) => s1.failPacket fn p (packetCode c)
  | (.ok b, s1) =>
    if p.holds (BitVec.ofNat 64 (leValue b)) then s1.onPacket fn p.id (fun p => { p with copied := 1 }) else s1

/-- PKT_WAIT. -/
def execPktWait (fn queue : Nat) (s : State) : Result :=
  .next (s.beginPacket fn queue 5 (fun s _ p => s.look fn p))

/-- WAIT_REREAD (R47). -/
def execWaitReread (fn queue : Nat) (s : State) : Result :=
  .next (match (s.func fn).underWay queue 5 (fun p => p.copied == 0) with
    | some p => if s.fnRuns fn && !s.packetBusy fn p then s.look fn p else s
    | none => s)

/-- The WAIT packets of a function that have begun read again (R47). -/
def State.lookAgain (s : State) (fn : Nat) : State :=
  let k := s.func fn
  let ps := (k.leftovers ++ k.queues.flatMap (fun e => (e.2.map (·.packets)).getD [])).filter
    (fun p => p.begun && p.type == 5 && p.copied == 0 && !s.packetBusy fn p)
  if s.fnRuns fn then ps.foldl (fun s p => s.look fn p) s else s

/-- PKT_FENCE: with NESTS, the nests of the queue that run (R47). -/
def execPktFence (fn queue : Nat) (s : State) : Result :=
  .next (s.beginPacket fn queue 6 (fun s x p =>
    s.onPacket fn p.id (fun p => { p with nests := if p.get 0x10 1 = 1 then x.nests else [] })))

/-- PKT_TIMESTAMP: the time as the packet begins. -/
def execPktTimestamp (fn queue : Nat) (s : State) : Result :=
  .next (s.beginPacket fn queue 8 (fun s _ p =>
    match s.unitStore (.packet fn p.id) fn (p.get 0x10 8) (leBytes 8 s.time) with
    | (some c, s1) => s1.stopPacket fn p (packetCode c)
    | (none, s1) => s1))

/-! ## LINK and the free list (R43, R44) -/

/-- What comes of giving a segment back. -/
inductive Returned where
  | done
  | stall
  | fault (c : Cause)
  deriving DecidableEq, Repr

/-- Gives a drained segment back to the free list of its queue: TAIL is read, then the entry and HEAD are stored
(R44). -/
def State.returnSegment (s : State) (fn q : Nat) (x : Queue) (base : DWord) : Returned × State :=
  let fl := x.freeList.toNat
  if s.unitBusy fn fl || s.unitBusy fn (fl + 0x10 + 8 * (x.flHead.toNat % x.flCap)) then (.stall, s)
  else match s.unitRead fn (fl + 4) 4 with
  | (.error c, s1) => (.fault c, s1)
  | (.ok b, s1) =>
    if (x.flHead - BitVec.ofNat 32 (leValue b)).toNat = x.flCap then (.stall, s1)
    else match s1.unitPoke fn (fl + 0x10 + 8 * (x.flHead.toNat % x.flCap)) (leBytes 8 base.toNat) with
      | (some c, s2) => (.fault c, s2)
      | (none, s2) =>
        match s2.unitPoke fn fl (leBytes 4 (x.flHead + 1).toNat) with
        | (some c, s3) => (.fault c, s3)
        | (none, s3) => (.done, s3.onQueue fn q (fun x => { x with flHead := x.flHead + 1, drained := none }))

/-- The queue goes on in the next segment (R43). -/
def Queue.follow (x : Queue) (p : Packet) : Queue :=
  { x with seg := BitVec.ofNat 64 (p.get 0x10 8), segLog := p.get 0x18 1, segFirst := p.idx + 1, drained := some x.seg }

/-- PKT_LINK (R43, R44): completes at once; without room in the free list the queue stalls after it. -/
def execPktLink (fn queue : Nat) (s : State) : Result :=
  .next (s.beginPacket fn queue 7 (fun s x p =>
    let s1 := s.onQueue fn queue (fun x => x.follow p)
    match s1.returnSegment fn queue (x.follow p) x.seg with
    | (.fault c, s2) => s2.stopPacket fn p (packetCode c)
    | (_, s2) => s2.finishPacket fn p 0 0))

/-- SEGMENT_STALL_END (R44, R46). -/
def execSegmentStallEnd (fn queue : Nat) (s : State) : Result :=
  .next (match s.queue fn queue with
    | none => s
    | some x =>
      match x.drained with
      | none => s
      | some base =>
        if !s.fnRuns fn then s
        else match s.returnSegment fn queue x base with
          | (.fault c, s1) => s1.stopQueue fn queue x.status (packetCode c) (x.segFirst - 1) none
          | (_, s1) => s1)

/-! ## Completion (R46 to R49) -/

/-- Nothing of a packet is outstanding. -/
def State.packetDone (s : State) (fn : Nat) (p : Packet) : Bool :=
  p.begun && !p.stalled && !s.writes.any (fun (w : Write) => w.by_ == .packet fn p.id) &&
  (p.code != 0 ||
    match p.type with
    | 3 => p.copied == p.size
    | 5 => p.copied == 1
    | 6 => p.nests.all (fun u => !(List.range Config.nests).any (fun i =>
        ((s.walker (s.partOf fn)).nest i).map (·.uid) == some u))
    | _ => true)

/-- What follows a SIGNAL's write: its MSI-X vector, and WAIT packets of the partition read again (R47). -/
def State.signalled (s : State) (fn : Nat) (p : Packet) : State :=
  if p.type = 4 then
    (if p.get 0x22 1 / 128 = 1 then s.msi fn (p.get 0x22 1 % 32) else s).lookAgain fn
  else s

/-- PACKET_COMPLETE (R46 to R49): `idx` is the model's number of the packet. -/
def execPacketComplete (fn queue idx : Nat) (s : State) : Result :=
  .next (match (List.range 9).findSome? (fun ty => (s.func fn).underWay queue ty (fun p => p.id == idx)) with
    | some p =>
      if (s.part (s.partOf fn)).running != some fn || !s.packetDone fn p || s.packetBusy fn p then s
      else if p.code ≠ 0 then s.stopPacket fn p (lowest [p.code, s.statusCode fn p])
      else (s.finishPacket fn p 0 0).signalled fn p
    | none => s)

end Sys2Proof.Machine
end

