-- ==== Sys2Proof/Machine/Start.lean ====
section
/-!
DEFINITION. Crews start and end (R21, R29, R30, R63, R64, R66, R105, R139, R186, R187, R198, R296, R347, R349).
-/
namespace Sys2Proof.Machine
open Sys2Proof

/-- The partition whose crews a core may start: the borrower of a lent cluster, else its own (R69, R72). -/
def State.serves (s : State) (core : Nat) : Nat :=
  match (s.cluster (core / 4)).lent with
  | some q => q
  | none => s.clusterPart (core / 4)

/-- A thread at the start of its crew (R30, R103, R104). -/
def startThread (r : NestRec) (tid : Nat) : Thread where
  pc := r.entry
  pos := tid
  regs := FMap.set (FMap.set [] 0 (r.args.extractLsb' 0 32)) 1 (r.args.extractLsb' 32 32)
  empty := []
  preds := []
  fibres := []
  streams := []
  status := .runnable
  age := 0
  retired := false
  unack := 0
  unackNc := 0
  errs := []
  txthr := 8
  dqsel := BitVec.ofNat 2 r.dq
  txcause := 0
  tx := default

/-- The bytes of a reservation whose contents differ from what its other bytes hold: on a scrubbed core those last
written by the function itself, which are free where the others are zero; on another core those last written by another
function, which read as zero where the others are free (R73, R198). -/
def State.zeroAt (s : State) (core fn base size : Nat) : FMap Bool :=
  let lo := core * Config.localBytes + base
  (s.lwriter.filter (fun e => decide (lo ≤ e.1) && decide (e.1 < lo + size) && ((e.2 != fn + 1) != s.clean.get core))).map
    (fun e => (e.1 - lo, true))

/-- A crew at its start (R30), in the lowest free places (log 14). -/
def State.newCrew (s : State) (core fn part nest : Nat) (r : NestRec) (p : PointEntry) : Crew where
  loc := some (core, (s.freeContext core).getD 0)
  ran := core
  fn := fn
  part := part
  nest := nest
  point := p
  rcd := r
  threads := (List.range r.threads).map (fun tid => (tid, some (startThread r tid)))
  lmem := []
  lzero := s.zeroAt core fn ((s.localGap core r.localBytes).getD 0) r.localBytes
  lclean := s.clean.get core
  marks := []
  acc := []
  rowZero := if s.accClean.get core then (List.range r.accRows).map (fun i => (i, true)) else []
  rowReset := []
  tiles := []
  slots := s.freeSlots core r.slots
  own := []
  ownPa := []
  backed := []
  privSlot := if r.priv = 0 then none else s.freePriv fn
  lbase := (s.localGap core r.localBytes).getD 0
  frame := (s.freeFrame fn).getD 0
  save := none
  fst := { (default : FrameInfo) with state := 1 }
  replay := []
  lineReplay := []
  cards := []
  rend := []
  holdsPoint := true
  ended := false

/-- A crew starts for a point: HELD rises, every thread acquires at the nest scope, the frame reads live (R64, R296,
R347). -/
def State.startCrew (s : State) (core fn part nest : Nat) (r : NestRec) (p : PointEntry) : State :=
  let c := s.newCrew core fn part nest r p
  let (id, s0) := s.newId
  let s1 := ((s0.putCrew id c).frameWrite c 0 c.headState).onCluster (core / 4) (fun k => { k with idle := false })
  let s2 := { s1.dropL1 (·.core == core) with
    accClean := if r.accRows = 0 then s1.accClean else s1.accClean.set core false }
  (s2.onWalker part (fun w => w.onNest nest (fun n => { n with held := n.held + 1 }))).revokeIfShort part

/-- A saved crew that a core may restore: STATE 2, its function running, placement and room, in the card ring too (R26, R241,
R349; log 111). -/
def State.restorable (s : State) (core : Nat) (c : Crew) : Bool :=
  c.loc.isNone && c.fst.state == 2 && decide (core < Config.cores) && !s.thalt &&
    s.walks c.part == some c.fn && s.coreTakes c.part core c.point.place c.point.unit && s.fits core c.rcd &&
    decide ((s.cards.filter (fun k => k.core == core)).length + c.cards.length ≤ Config.ringSlots)

/-- A core may start new crews for the running function of its partition: no thermal halt, and no saved crew that it
could restore (R349). -/
def State.startsFor (s : State) (core : Nat) : Option Nat :=
  if Config.cores ≤ core || s.thalt || s.crewList.any (fun e => s.restorable core e.2) then none
  else s.walks (s.serves core)

/-- A point entry is eligible to a core (R26, R63). -/
def State.eligibleAt (s : State) (core part fn : Nat) (e : Entry) : Bool :=
  match e.point with
  | some p =>
    match (s.walker part).rcdOf p with
    | some r => s.coreTakes part core p.place p.unit && s.roomFor core fn r
    | none => false
  | none => false

/-- The deal queue that a core draws from: its smallest eligible key is the smallest (R66). -/
def State.startQueue (s : State) (core part fn : Nat) : Option Nat :=
  ((List.range 4).filterMap (fun q =>
    ((eligible ((s.walker part).queue q) (s.eligibleAt core part fn)).head?).map (fun e => (q, e.2.key.toNat)))).foldl
    (fun m x => match m with
      | some y => if x.2 < y.2 then some x else some y
      | none => some x) none |>.map (·.1)

/-- CREW_START (R64, R66): `pick` is the draw's free choice among the 32 smallest. -/
def execCrewStart (core pick : Nat) (s : State) : Result :=
  .next (match s.startsFor core with
    | none => s
    | some fn =>
      let part := s.serves core
      match s.startQueue core part fn with
      | none => s
      | some q =>
        let w := s.walker part
        let ok := s.eligibleAt core part fn
        match drawn (w.queue q) ok pick with
        | none => s
        | some (i, e) =>
          match e.point with
          | none => s
          | some p =>
            match w.rcdOf p with
            | none => s
            | some r =>
              (s.onWalker part (fun w => { w with queues := w.queues.set q (afterDraw (w.queue q) ok i) })).startCrew
                core fn part p.nest r p)

/-- The ready points of resident nests that a core can take, in the order of R57 within a nest. -/
def State.residentPoints (s : State) (core part fn : Nat) : List (Nat × Row × Nat × NestRec × PointEntry) :=
  let w := s.walker part
  (List.range Config.nests).flatMap (fun id =>
    match w.nest id with
    | none => []
    | some n =>
      if !n.rcd.resident || n.finishing then []
      else
        let rows := w.rowsOf id
        (rows.filter (fun r => !r.closed)).flatMap (fun r =>
          ((List.range 64).filter (w.pointReady n rows r)).filterMap (fun b =>
            let p := s.pointEntry part id n (r.point b)
            if s.coreTakes part core p.place p.unit && s.roomFor core fn n.rcd then some (id, r, b, n.rcd, p) else none)))

/-- RESIDENT_CREW_START (R29): each point of a resident nest becomes one crew as occupancy allows. -/
def execResidentCrewStart (core pick : Nat) (s : State) : Result :=
  .next (match s.startsFor core with
    | none => s
    | some fn =>
      let part := s.serves core
      let ps := s.residentPoints core part fn
      match ps[pick % ps.length]? with
      | none => s
      | some (id, r, b, rcd, p) =>
        (s.onWalker part (fun w => w.issuePoint id r b)).startCrew core fn part id rcd p)

/-! ## The end of a crew (R105, R139) -/

/-- A crew of a partition leaves a core: from now on its cluster holds no crew of its own partition, if it holds none
(R72). A borrower's crew that leaves does not count. -/
def State.noteIdle (s : State) (core part : Nat) : State :=
  if part ≠ s.clusterPart (core / 4) then s
  else if s.crewList.any (fun e => e.2.loc.isSome && e.2.cluster == core / 4 && e.2.part == s.clusterPart (core / 4)) then s
  else s.onCluster (core / 4) (fun k => { k with idleSince := s.fab })

/-- What a crew has written of its core's local memory is its function's (R198). -/
def State.noteWriters (s : State) (c : Crew) : State :=
  match c.loc with
  | none => s
  | some (core, _) =>
    { s with lwriter := c.lmem.foldl (fun m e => m.set (core * Config.localBytes + c.lbase + e.1) (c.fn + 1)) s.lwriter }

/-- A card still has to do with a crew: it is the crew's, or lands lines in it. -/
def State.cardsHold (s : State) (crew : Nat) : Bool :=
  s.cards.any (fun k => k.who.crew == crew || k.receivers.contains crew) ||
    s.crewList.any (fun e => e.2.cards.any (·.receivers.contains crew))

/-- A crew's resources may be freed (R139, R253): it is resident or discarded, its point is given back, its stores are acknowledged, its cards and
the lines that land in it are done. -/
def State.crewFree (s : State) (crew : Nat) (c : Crew) : Bool :=
  c.ended && !c.holdsPoint && c.save.isNone && (c.loc.isSome || c.fst.state == 0) && c.threadList.all (fun t => t.2.unack == 0 && t.2.unackNc == 0) &&
    !s.cardsHold crew && c.lineReplay.isEmpty

/-- A crew is gone: its frame reads free, its private lines vanish (R187, R347). -/
def State.endCrew (s : State) (crew : Nat) (c : Crew) : State :=
  let s1 := (s.noteWriters c).dropCrew crew
  match c.loc with
  | some (core, _) => (s1.frameWrite c 0 [0, 0, 0]).noteIdle core c.part
  | none => s1

/-- CREW_RESOURCES_FREED (R139). -/
def execCrewResourcesFreed (crew : Nat) (s : State) : Result :=
  .next (match s.crew crew with
    | none => s
    | some c => if s.crewFree crew c then s.endCrew crew c else s)

end Sys2Proof.Machine
end

