-- ==== Sys2Proof/Machine/Partition.lean ====
section
/-!
DEFINITION. Partitions (R50, R68 to R80): world switches, vacancy, the lending and revocation of kitty clusters,
failed clusters, and the registers that set them.
-/
namespace Sys2Proof.Machine
open Sys2Proof

/-! ## Slices (R77, R78) -/

/-- A slice begins now (R77). -/
def PartSt.enter (t : PartSt) (k len now : Nat) : PartSt := { t with slice := k, len := len, since := now }

/-! ## The world switch (R50, R62, R73, R77, R358) -/

/-- The clusters that a partition holds on loan. -/
def State.borrowed (s : State) (p : Nat) : List Nat := (List.range Config.clusters).filter (fun k => (s.cluster k).lent == some p)

/-- Every crew of a function on a core is saved with a plain kind (R344). -/
def State.saveAll (s : State) (kind : Nat) (which : Crew → Bool) : State :=
  (s.crewList.filter (fun e => e.2.loc.isSome && !e.2.ended && which e.2)).foldl (fun s e => s.beginSave e.1 (plainSave kind)) s

/-- A world switch begins (R50, R73, R77): the outgoing function's crews are saved, borrowed clusters go back. -/
def State.beginSwitch (s : State) (p fn k : Nat) (incoming : Option Nat) : State :=
  let s1 := s.onPart p (fun t => { t.enter k (s.sliceLen p k) s.fab with switching := true, incoming := incoming })
  let s2 := s1.saveAll 3 (fun c => c.fn == fn)
  (s2.borrowed p).foldl State.revoke s2

/-- A world switch begins once the packets that have begun are complete, COPY and WAIT packets apart (R50, log 100). -/
def State.beginWhenPaused (s : State) (p fn k : Nat) (incoming : Option Nat) : State :=
  if s.packetsPause fn then s.beginSwitch p fn k incoming else s

/-- WORLD_SWITCH (R50, R77, R78): the slice ends. -/
def execWorldSwitch (part : Nat) (s : State) : Result :=
  .next (match (s.part part).running with
    | none => s
    | some fn =>
      if (s.part part).switching || !s.sliceOver part then s
      else match s.anySlice part with
        | none => s.beginWhenPaused part fn (s.part part).slice none
        | some _ =>
          match s.nextSlice part with
          | none => s.onPart part (fun t => t.enter t.slice t.len s.fab)
          | some (k, v) =>
            if v = fn then s.onPart part (fun t => t.enter k (s.sliceLen part k) s.fab)
            else s.beginWhenPaused part fn k (some v))

/-- Base of a function's save area (Table 5-3), in sectors. -/
def State.saveSector (s : State) (fn : Nat) : Nat := s.field (.vfsave fn) 22 42 * 2 ^ 16

/-- The outgoing function of a switch is off its cores and its packets rest; no commit mark stands in its save area (R312). -/
def State.switchedOut (s : State) (fn : Nat) : Bool :=
  !s.crewList.any (fun e => e.2.loc.isSome && e.2.fn == fn) && s.packetsPause fn &&
    !s.marks.any (fun m => m.line / 2 ^ 15 == s.saveSector fn / 2 ^ 16) &&
    !s.writes.any (fun (w : Write) => match w.by_ with | .completion f _ _ => f == fn | _ => false)

/-- Memory that the device has written in a format of its own still stands as it was written. -/
def State.intact (s : State) (lo n seed : Nat) : Bool := s.veil.contains ⟨lo, lo + n, seed⟩

/-- The saved share of a function cannot be read (R358): a sector of its save area is poisoned, fails its check value or
cannot be formed, or the check of the share fails, which is free where software has written into the area. -/
def State.shareBad (s : State) (fn : Nat) : Bool × State :=
  if !(s.func fn).shareHeld then (false, s)
  else if !(s.badIn (s.saveSector fn) (2 ^ 16)).isEmpty then (true, s)
  else if s.intact (s.saveSector fn * 64) (2 ^ 22) (s.func fn).shareSeed then (false, s)
  else
    let (k, s1) := s.choose 2
    (k == 1, s1)

/-- The record of an unreadable share (R358). -/
def shareRec : FaultRec :=
  { cause := causeCode .queueBad, kind := 0, code := 0, handle := 0xFFFF, tid := 0xFFFF, pc := 0, faddr := 0, nest := 0
    core := 0, pt := [] }

/-- A function's share of the walker goes to its save area, which is written whole (R62): the spec gives no format, so
the bytes of the area are free values from here on (log 101). -/
def State.storeShare (s : State) (p fn : Nat) : State :=
  ((s.onFunc fn (fun f => { f with share := s.walker p, shareSeed := s.fresh, shareHeld := true })).onWalker p (fun _ => default)).veilOver
    (s.saveSector fn * 64) (2 ^ 22)

/-- A function's share comes back: whole, or where it cannot be read without its nests, rows and entries (R358). -/
def State.loadShare (s : State) (p fn : Nat) : State :=
  let w := (s.func fn).share
  let (bad, s') := s.shareBad fn
  let s0 := if bad then s'.meetBad (s.badIn (s.saveSector fn) (2 ^ 16)) else s'
  let s1 := if bad then (s0.onWalker p (fun _ => { (default : Walker) with waits := w.waits })).record fn shareRec
    else s0.onWalker p (fun _ => w)
  (s1.onFunc fn (fun f => { f with share := default, shareHeld := false })).revokeIfShort p

/-- The incoming function of a partition runs, or the partition is vacant (R77, R78). -/
def State.comeIn (s : State) (p : Nat) (fn : Option Nat) : State :=
  let s1 := s.onPart p (fun t => { t with running := fn, switching := false, incoming := none, since := s.fab })
  match fn with
  | some v => s1.loadShare p v
  | none => s1

/-- WORLD_SWITCH_DONE (R62, R77, R358): an incoming function that is no longer assigned does not come in. -/
def execWorldSwitchDone (part : Nat) (s : State) : Result :=
  .next (match (s.part part).running with
    | none => s
    | some fn =>
      if !(s.part part).switching || !s.switchedOut fn then s
      else (s.storeShare part fn).comeIn part
        ((s.part part).incoming.filter (fun v => s.field (.vfpart v) 31 1 == 1 && s.field (.vfpart v) 0 4 == part)))

/-- VACANCY_EXIT (R78): a vacant partition takes the function of an entry in, as the second half of a switch. Which valid entry
comes first the spec does not say: here the cyclic order goes on after the entry that ran last, after reset with entry 1, and one that
is not passed over as idle comes before the others (log 124). -/
def execVacancyExit (part : Nat) (s : State) : Result :=
  .next (if (s.part part).running.isSome || s.parts' ≤ part then s
    else match (s.nextSlice part).or (s.anySlice part) with
      | none => s
      | some (k, v) => (s.onPart part (fun t => t.enter k (s.sliceLen part k) s.fab)).comeIn part (some v))

/-! ## Lending (R72, R73) -/

/-- A cluster is scrubbed (R73): its caches hold nothing, its local memory and accumulator stores hold zero. Its cores
hold no crew, and what their registers held cannot be read again (R30). -/
def State.scrub (s : State) (k : Nat) : State :=
  { s with
    lwriter := s.lwriter.keep (fun a => a / Config.localBytes / 4 != k)
    clean := (List.range 4).foldl (fun m i => m.set (4 * k + i) true) s.clean
    accClean := (List.range 4).foldl (fun m i => m.set (4 * k + i) true) s.accClean
    l1 := s.l1.filter (fun (l : L1Line) => l.core / 4 != k)
    icache := s.icache.filter (fun b => b.core / 4 != k)
    tlb := s.tlb.filter (fun e => e.cluster != k) }

/-- LENDDLY in µs (Table 5-3). -/
def State.lendDelay (s : State) (p : Nat) : Nat := max 1 (min 1000 (s.field (.pkitty p) 12 10))

/-- A kitty cluster holds no crew. -/
def State.kittyEmpty (s : State) (k : Nat) : Bool :=
  (s.kitty (s.clusterPart k)).contains k && (s.cluster k).lent.isNone &&
    !s.crewList.any (fun e => e.2.loc.isSome && e.2.cluster == k)

/-- KITTY_IDLE (R72): the cluster has held no crew of its own partition for LENDDLY µs. -/
def execKittyIdle (cluster : Nat) (s : State) : Result :=
  .next (
    if s.kittyEmpty cluster &&
        decide ((s.cluster cluster).idleSince + s.lendDelay (s.clusterPart cluster) * Config.fabPerUs ≤ s.fab) then
      s.onCluster cluster (fun c => { c with idle := true })
    else s)

/-- The lowest short partition that a lender may lend to (R72). -/
def State.borrower (s : State) (p : Nat) : Option Nat :=
  (List.range s.parts').find? (fun q => q != p && s.field (.pkitty p) (32 + q) 1 == 1 && s.short q)

/-- KITTY_LEND (R72): the lowest idle kitty cluster (log 14) is scrubbed and lent. -/
def execKittyLend (part : Nat) (s : State) : Result :=
  .next (match s.borrower part, (s.kitty part).find? (fun k => (s.cluster k).idle && s.kittyEmpty k) with
    | some q, some k => ((s.scrub k).onCluster k (fun c => { c with lent := some q, idle := false })).revokeIfShort part
    | _, _ => s)

/-- REVOCATION_DONE (R73): the borrower's crews are off the cluster; it is scrubbed and back. A borrower that is short
without it takes its own clusters back. -/
def execRevocationDone (cluster : Nat) (s : State) : Result :=
  .next (
    let c := s.cluster cluster
    if c.lent.isNone || !c.revoking || s.crewList.any (fun e => e.2.loc.isSome && e.2.cluster == cluster) then s
    else ((s.scrub cluster).onCluster cluster (fun c => { c with lent := none, revoking := false })).revokeIfShort
      (c.lent.getD 0))

/-- First kitty cluster of a partition. -/
def State.kittyBase (s : State) (p : Nat) : Nat := s.firstCluster p + (perPart s.parts').2.1

/-- A write to PREVOKE (R73). -/
def State.writePrevoke (s : State) (p : Nat) (v : Nat) : State :=
  ((List.range (perPart s.parts').2.2).filter (fun b => bitOf v b)).foldl (fun s b => s.revoke (s.kittyBase p + b)) s

/-- PREVOKE_WRITE (R73). -/
def execPrevokeWrite (part : Nat) (value : BitVec 16) (s : State) : Result :=
  .next (s.bar4 fun s => if s.parts' ≤ part then s else s.writePrevoke part value.toNat)

/-- A write to PKITTY (R72, R73): clusters lent to a partition that LENDTO loses go back. -/
def State.writePkitty (s : State) (p : Nat) (v : DWord) : State :=
  let s1 := s.mergeReg (.pkitty p) v
  ((List.range Config.clusters).filter (fun k => s.clusterPart k == p && match (s.cluster k).lent with
    | some q => s1.field (.pkitty p) (32 + q) 1 == 0
    | none => false)).foldl State.revoke s1

/-- PKITTY_WRITE (R72, R73). -/
def execPkittyWrite (part : Nat) (value : DWord) (s : State) : Result :=
  .next (s.bar4 fun s => if 16 ≤ part then s else s.writePkitty part value)

/-! ## A failed cluster (R69, R357) -/

/-- A resident crew is lost with its cluster: no frame is written (R357), and its trump is freed (R321). -/
def State.loseCrew (s : State) (crew : Nat) (c : Crew) : State :=
  let s1 := { s with
    loads := s.loads.filter (fun (l : Load) => l.who.crew != crew), marks := s.marks.filter (fun m => m.who.crew != crew) }.dropTrump c.fn crew
  s1.putCrew crew { c with
    loc := none, save := none, fst := { c.fst with state := 1 }, ended := true
    threads := c.threads.map (fun e => (e.1, e.2.map (fun t => { t with status := .exited }))) }

/-- The record of a cluster failure (Table 19-5). -/
def clusterRec (k : Nat) : FaultRec :=
  { cause := 0, kind := 3, code := 0, handle := 0xFFFF, tid := 0xFFFF, pc := 0, faddr := BitVec.ofNat 64 k, nest := 0
    core := 4 * k, pt := [] }

/-- The guaranteed number that a cluster serves (R69). -/
def State.guaranteeOf (s : State) (k : Nat) : Option Nat :=
  let (c, g, _) := perPart s.parts'
  if k % c < g then some (k % c) else (s.cluster k).takes

/-- The lowest working kitty cluster takes a guaranteed number over (R69). -/
def State.takeOver (s : State) (p n : Nat) : State :=
  match (s.kitty p).head? with
  | some k => s.onCluster k (fun c => { c with takes := some n, idle := false })
  | none => s

/-- A cluster fails (R69, R73, R357): its partition, and the one that has borrowed it, take their own clusters back where
they are short without it. -/
def State.failCluster (s : State) (k : Nat) : State :=
  let p := s.clusterPart k
  let crews := s.crewList.filter (fun e => e.2.loc.isSome && e.2.cluster == k)
  let fns := (crews.map (·.2.fn)).dedup
  let g := s.guaranteeOf k
  let s1 := (crews.foldl (fun s e => s.loseCrew e.1 e.2) s).scrub k
  let gone := s1.cards.filter (fun c => c.core / 4 == k)
  let s2 := gone.foldl (fun s c => { s.leaveRing c.id with insts := s.insts.filter (fun i => i.card != some c.id) }) s1
  let s3 := s2.onCluster k (fun c => { c with failed := true, takes := none, lent := none, revoking := false, idle := false })
  let s4 := match g with
    | some n => (s3.revokeAll p).takeOver p n
    | none => s3.revokeIfShort p
  let s5 := match (s.cluster k).lent with
    | some q => s4.revokeIfShort q
    | none => s4
  (fns ++ [64]).foldl (fun s fn => s.record fn (clusterRec k)) (s5.logs (.clusterFail k))

/-- CLUSTER_FAIL (R69, R357). -/
def execClusterFail (cluster : Nat) (s : State) : Result :=
  .next (if Config.clusters ≤ cluster || (s.cluster cluster).failed then s else s.failCluster cluster)

/-! ## PCFG, VFPART, CAL and PSLICE (R76, R78, R80) -/

/-- No function is assigned. -/
def State.noneAssigned (s : State) : Bool := (List.range 64).all (fun v => s.field (.vfpart v) 31 1 == 0)

/-- A write to PCFG (R80). -/
def State.writePcfg (s : State) (v : Word) : State :=
  let s1 := if v.getLsbD 30 then s.setField .pcfg 30 1 0 else s
  let n := v.toNat % 8
  if n = s.field .pcfg 0 3 then s1
  else if 4 < n ∨ !s.noneAssigned ∨ s.field .pcfg 31 1 = 1 then s1.pcfgErr
  else (s1.setField .pcfg 0 3 n).setField .pcfg 31 1 1

/-- PCFG_WRITE (R80). -/
def execPcfgWrite (value : Word) (s : State) : Result := .next (s.bar4 fun s => s.writePcfg value)

/-- Registers that return to their reset values with a new count (R76, R80): CAL, and the partition blocks. -/
def partRegister (key : Nat) : Bool :=
  decide ((Reg.cal 0).key ≤ key) && decide (key < (Reg.vbase 0).key)

/-- Working kitty clusters stand in for failed guaranteed ones (R69). -/
def State.standIns (s : State) : State :=
  let (c, g, _) := perPart s.parts'
  let s0 := { s with clusters := s.clusters.map (fun e => (e.1, { e.2 with takes := none, lent := none, revoking := false, idle := false })) }
  ((List.range Config.clusters).filter (fun k => decide (k % c < g) && (s0.cluster k).failed)).foldl
    (fun s k => s.takeOver (s.clusterPart k) (k % c)) s0

/-- PARTS_APPLY_DONE (R80): the shared cache has been written back, so no write stands between its home slice and the
memory-side cache. -/
def execPartsApplyDone (s : State) : Result :=
  .next (
    if s.field .pcfg 31 1 = 0 ∨ s.writes.any (fun (w : Write) => w.stage == .home && regionOf w.pa == .hbm) then s
    else
      let s1 := (List.range Config.clusters).foldl State.scrub s
      ({ s1.setField .pcfg 31 1 0 with
        walkers := [], parts := [], regs := (s1.setField .pcfg 31 1 0).regs.keep (fun k => !partRegister k) }).standIns)

/-- A VFPART write may be made (R78). -/
def State.vfpartOk (s : State) (fn : Nat) (v : Word) : Bool :=
  (s.part (s.partOf fn)).running != some fn && !s.hasNests fn && decide (v.toNat % 16 < s.parts') &&
    (v.getLsbD 31 || s.field (.vfpart fn) 31 1 == 0 || !s.crewList.any (fun e => e.2.fn == fn))

/-- A write to VFPART (R78): saved crews go with their function. While PCFG.BUSY is 1 the spec says nothing of a write to VFPART,
PSLICE, CAL or PKITTY: it is taken, and the last three return to their reset values as BUSY falls (log 125). -/
def State.writeVfpart (s : State) (fn : Nat) (v : Word) : State :=
  if s.vfpartOk fn v then
    let s1 := s.mergeReg (.vfpart fn) (v.setWidth 64)
    { s1 with crews := s1.crews.map (fun e => (e.1, e.2.map (fun c => if c.fn = fn then { c with part := s1.partOf fn } else c))) }
  else s.pcfgErr

/-- VFPART_WRITE (R78). -/
def execVfpartWrite (fn : Nat) (value : Word) (s : State) : Result :=
  .next (s.bar4 fun s => if 64 ≤ fn then s else s.writeVfpart fn value)

/-- Some slot of the calendar carries a partition's traffic (R76). -/
def State.hasSlot (s : State) (p : Nat) : Bool :=
  (List.range 64).any (fun n => s.field (.cal n) 4 1 == 1 && s.field (.cal n) 0 4 == p)

/-- A write to CAL (R76). -/
def State.writeCal (s : State) (n : Nat) (v : Word) : State :=
  let s1 := s.mergeReg (.cal n) (v.setWidth 64)
  if (List.range s.parts').all s1.hasSlot then s1 else s.pcfgErr

/-- CAL_WRITE (R76). -/
def execCalWrite (slot : Nat) (value : Word) (s : State) : Result :=
  .next (s.bar4 fun s => if 64 ≤ slot then s else s.writeCal slot value)

/-- PSLICE_WRITE (R78). -/
def execPsliceWrite (part entry : Nat) (value : Word) (s : State) : Result :=
  .next (s.bar4 fun s => if 16 ≤ part ∨ 16 ≤ entry then s else s.mergeReg (.pslice part entry) (value.setWidth 64))

end Sys2Proof.Machine
end

