-- ==== Sys2Proof/Machine/CrewLife.lean ====
section
/-!
DEFINITION. Crew saves and restores, fault rings, commands and function-level resets (R51, R115, R187, R239, R258,
R321, R322, R344 to R360, R390, R391).
-/
namespace Sys2Proof.Machine
open Sys2Proof

/-! ## The end of a save (R344, R345) -/

/-- What a thread stands at once its crew is saved (R140, R141, R147 to R149, R321): it keeps a rendezvous and an end;
a sleep is over; an instruction that waited is executed afresh, with its destinations full. -/
def Thread.rest (t : Thread) : Thread :=
  match t.status with
  | .sleeping _ => { t with status := .runnable, age := 0 }
  | .waita _ _ width _ d _ _ => (t.mark (waitaRegs width d) false).stand
  | .drawing _ d => (t.mark ((List.range 8).map (d + ·)) false).stand
  | .bndset _ _ _ => t.stand
  | .queued => { t.stand with tx := { t.tx with state := .outside } }
  | _ => t

/-- Commits that are prepared are applied, other transactions abort with PREEMPT, and every thread comes to rest (R310, R321,
R322). -/
def State.restThreads (s : State) (crew : Nat) (c : Crew) : State :=
  let s1 := (c.threadList.filter (fun t => t.2.tx.state == .transactional)).foldl
    (fun s t => if t.2.tx.prepared.isSome then s.applyCommit ⟨crew, t.1⟩ else s.abortTx ⟨crew, t.1⟩ 6 0 0) s
  (s1.onCrew crew (fun c => c.mapThreads (fun _ t => t.rest))).onShare c.fn (fun w => { w with
    trump := { w.trump with fifo := w.trump.fifo.filter (fun r => r.crew != crew) } })

/-- A load that has its data at the bank, or from an atomic, lands before the save ends (R344, R345). -/
def Load.settles (l : Load) : Bool := l.data.isSome && !l.poison && (l.space == .localMem || l.space == .ownWords || l.space == .accRows)

/-- A read of a saved crew that is issued again on restore (R345); a poisoned one keeps its flag for SKIP (R390). -/
def Load.replays (l : Load) : Bool := !l.atomic && !l.sync && l.cmp.isNone && !l.tx

/-- A read that is out, whose answer will be dropped (R346). -/
def State.strayOf (s : State) (c : Crew) (l : Load) : Option Stray :=
  let ctx := c.core * Config.contexts + c.context
  let out : Bool := match l.tag with | some t => s.posted.contains t | none => true
  if (l.space = .global ∨ l.space = .peer) ∧ l.data.isNone ∧ !l.poison ∧ out = true then some ⟨l.id, ctx, s.gens.get ctx, l.tag, l.sent, l.pa⟩
  else none

/-- The loads of a crew at its save: what has arrived lands, reads become replay packets, atomics stay (R345). -/
def State.restLoads (s : State) (crew : Nat) : State :=
  let mine := s.loads.filter (fun (l : Load) => l.who.crew == crew)
  let s1 := (mine.filter Load.settles).foldl (fun s l => s.land l (l.data.getD [])) s
  let left := s1.loads.filter (fun (l : Load) => l.who.crew == crew && !l.atomic)
  { s1.onCrew crew (fun c => { c with replay := (left.filter Load.replays).map (fun l => { l with data := none }) }) with
    strays := s1.strays ++ ((s1.crew crew).map (fun c => left.filterMap (s1.strayOf c))).getD []
    loads := s1.loads.filter (fun (l : Load) => l.who.crew != crew || l.atomic) }

/-- The dirty private lines of a crew are written to memory (R187). -/
def State.writeBack (s : State) (crew : Nat) : State := s.cleanPriv crew (fun _ _ => true)

/-- The unicast form of a multicast card for one receiver (R258). -/
def State.unicast (s : State) (k : Card) (crew : Nat) : Card :=
  { k with
    kind := .linear, dir := 0, dst := BitVec.ofNat 64 (k.localDst crew), bar := k.barIn crew, receivers := []
    passed := [], asks := [], held := [], paused := false, req := none, miss := none }

/-- The lines of a multicast card that have not landed in a crew, as replay packets (R258). -/
def State.castReplays (s : State) (k : Card) (crew : Nat) : List LineReplay :=
  if k.kind = .multicast ∧ k.receivers.contains crew then
    ((s.unlanded k).filter (·.1 == crew)).map (fun t => { card := s.unicast k crew, line := t.2 })
  else []

/-- A crew is no receiver of a card any more. -/
def Card.without (k : Card) (crew : Nat) : Card := { k with receivers := k.receivers.filter (· != crew) }

/-- A saved crew takes the lines of multicast cards that it waits for with it; a card of its own that has not started is
saved whole (R258). It stays a source of saved matrix cards, for which it keeps its reservation (R225). -/
def State.restReceiver (s : State) (crew : Nat) : State :=
  let held := (s.cards ++ s.crewList.flatMap (fun e => e.2.cards)).filter (fun k => k.who.crew != crew || k.started)
  let rs := held.flatMap (fun k => s.castReplays k crew)
  let strip (k : Card) : Card := if k.kind = .multicast ∧ (k.who.crew ≠ crew ∨ k.started = true) then k.without crew else k
  let s1 : State := { s with
    cards := s.cards.map strip
    crews := s.crews.map (fun e => (e.1, e.2.map (fun c => { c with cards := c.cards.map strip }))) }
  s1.onCrew crew (fun c => { c with lineReplay := c.lineReplay ++ rs })

/-- A card goes into the frame with its crew: unless it is a multicast or collective card that has started (R239,
R258). -/
def Card.goesAlong (k : Card) : Bool := !(k.started && (k.kind == .multicast || k.kind == .collective))

/-- A crew's cards at its save. -/
def State.restCards (s : State) (crew : Nat) : State :=
  let mine := s.cards.filter (fun k => k.who.crew == crew && k.goesAlong)
  (mine.foldl (fun s k => s.leaveRing k.id) s).onCrew crew (fun c => { c with cards := mine })

/-- STATE after a save of a kind (R349). -/
def stateAfter (kind : Nat) : Nat := if 3 ≤ kind then 2 else 3

/-- The record that follows a save, for the kinds that have one (R350). -/
def State.saveRecord (s : State) (c : Crew) (q : SaveReq) : State :=
  if q.kind = 1 then s.record c.fn (c.faultRec 1 q) else if q.kind = 2 then s.record c.fn (c.faultRec 0 q) else s

/-- Bytes of a frame's regions, behind its header of 4 KiB (R348). -/
def frameRegions : Nat := 2 ^ 21 - 4096

/-- The crew as its frame holds it, off its core (R344, R347). -/
def State.framed (s : State) (c : Crew) (q : SaveReq) : Crew :=
  { c with
    loc := none, save := none
    rend := c.rend.map (fun e => (e.1, e.2.map (fun v => s.fab - v)))
    fst := { c.fst with state := stateAfter q.kind, kind := q.kind, gen := BitVec.ofNat 8 (s.genOf c.fn)
                        req := if 3 ≤ q.kind then none else some q } }

/-- A save or a restore moves the regions of a frame by requests of the bulk class; what the device moves of them is its own,
and one request stands for them all (R276, log 20). -/
def State.frameMoves (s : State) (c : Crew) : State :=
  let pa := s.frameAt c + 4096
  if regionOf pa = .hbm then s.request pa 64 1 (s.stampOf 64 1) else s

/-- The last step of a save: tag, frame, resources, record (R344, R346, R350). The frame is written whole (R347): its
regions are the device's own, so their bytes are free values from here on (R348, log 20). -/
def State.leaveCore (s : State) (crew : Nat) (c : Crew) (q : SaveReq) : State :=
  let (v, s0) := s.free
  let c0 := s.framed c q
  let c1 : Crew := { c0 with fst := { c0.fst with seed := s0.fresh } }
  let s1 := (((s0.noteWriters c).putCrew crew c1).veilOver (s.frameAt c1 + 4096) frameRegions).frameMoves c1
  let s2 := { s1 with gens := s1.gens.upd (c.core * Config.contexts + c.context) (· + 1) }
  ((s2.frameHeader c1 (Config.frameCheck v.toNat)).noteIdle c.core c.part).saveRecord c1 q

/-- A save may end: no matrix card of the crew runs (R239, R344), and none reads its local memory from another core
(R225); no commit mark stands in its frame (R312). -/
def State.saveReady (s : State) (crew : Nat) : Bool :=
  !s.marks.any (fun m => ((s.crew crew).map (fun c => m.line / 2 ^ 14 == s.frameAt c / 2 ^ 21)).getD false) &&
  !s.cards.any (fun k => k.kind.isMatrix && ((k.started && k.who.crew == crew) || k.receivers.contains crew))

/-- CREW_SAVE_END (R344). -/
def execCrewSaveEnd (crew : Nat) (s : State) : Result :=
  .next (match s.crew crew with
    | none => s
    | some c =>
      if c.save.isNone || c.loc.isNone || !s.saveReady crew then s
      else
        let s1 := (((s.restThreads crew c).restLoads crew).restReceiver crew).restCards crew
        let s2 := s1.writeBack crew
        match s2.crew crew with
        | none => s
        | some c1 =>
          match c1.save with
          | none => s
          | some q => s2.leaveCore crew c1 q)

/-! ## Restore (R349) -/

/-- The bad sectors of a frame. -/
def State.frameSectors (s : State) (c : Crew) : List Nat := s.badIn (s.frameAt c / 64) (2 ^ 15)

/-- A frame that is not restored: a sector is poisoned, fails its check value or cannot be formed, or CHECK fails, which is free
where software has written into its regions (R272, R348, R349). -/
def State.frameBad (s : State) (c : Crew) : Bool × State :=
  if !(s.frameSectors c).isEmpty then (true, s)
  else if s.intact (s.frameAt c + 4096) frameRegions c.fst.seed then (false, s)
  else
    let (k, s1) := s.choose 2
    (k == 1, s1)

/-- The control complex logs the bad sectors of a frame (R272, R350). -/
def State.logFrame (s : State) (c : Crew) : State := s.meetBad (s.frameSectors c)

/-- The save that a bad frame becomes (R349). -/
def poisonSave : SaveReq := faultSave .poison 0 none 0 0 0 false

/-- A saved card is accepted again; one that had started goes on from where it stopped, without another start test, as soon as
fewer than eight copies run (R239, R243, R258). -/
def State.reaccept (s : State) (core : Nat) (k : Card) : State :=
  s.accept { k with core := core, started := false, resumes := k.started || k.resumes, asks := [], passed := [] }

/-- A crew in its new place (R346, R349). -/
def State.placed (s : State) (core : Nat) (c : Crew) : Crew :=
  { c with
    loc := some (core, (s.freeContext core).getD 0), ran := core, slots := s.freeSlots core c.rcd.slots, lbase := (s.localGap core c.rcd.localBytes).getD 0
    save := c.fst.held.head?, replay := [], cards := []
    rend := c.rend.map (fun e => (e.1, e.2.map (fun v => s.fab - v)))
    fst := { c.fst with state := 1, kind := 0, req := none, held := c.fst.held.tail } }

/-- A replay packet is issued again as a fresh load of the same form: it is translated and checked anew, and a peer's takes a
new tag (R345). One whose access faults now is not performed; its crew is saved with the fault (log 114). -/
def State.reissue (s : State) (crew : Nat) (l : Load) : State :=
  let (id, s0) := s.newId
  let push (s : State) (l : Load) : State := { s with loads := s.loads ++ [l] }
  let again : Load := { l with id := id, sent := s.fab, poison := false, tag := none }
  match s.crew crew with
  | none => s
  | some c =>
    if l.space ≠ .global ∧ l.space ≠ .peer then push s0 again
    else match s0.translate c.cluster c.fn l.va .read false with
      | (.error e, s1) => (push s1 again).loadFault again e
      | (.ok tg, s1) => push s1 { again with
          pa := tg.pa, kind := tg.kind, space := if tg.peer then .peer else .global, tag := s.tagFor tg.peer }

/-- A crew is restored (R349): its frame is read in the bulk class (R276), then come its cards, its reads, its threads; a rendezvous that can only fault does so at once (R114). The shared lines of the new core go (R285, log 29). -/
def State.restoreCrew (s : State) (crew core : Nat) (c : Crew) : State :=
  let c1 := s.placed core c
  let s1 := ((s.putCrew crew c1).frameWrite c1 0 c1.headState).onCluster (core / 4) (fun k => { k with idle := false })
  let s2 := c.cards.foldl (fun s k => s.reaccept core k) (s1.dropL1 (·.core == core))
  let s3 := c.replay.foldl (fun s l => s.reissue crew l) (s2.frameMoves c)
  ((s3.settleReads crew).settle crew).revokeIfShort c.part

/-- CREW_RESTORE (R349). -/
def execCrewRestore (crew core : Nat) (s : State) : Result :=
  .next (match s.crew crew with
    | none => s
    | some c =>
      if !s.restorable core c then s
      else match s.frameBad c with
        | (true, s1) => (s1.logFrame c).becomeFault crew { c with fst := { c.fst with bad := true } } poisonSave
        | (false, s1) => s1.restoreCrew crew core c)

/-! ## The fault ring (R350, R352) -/

/-- Entries of the ring, as a power of two: below 4 is read as 4 (Table 19-6). -/
def State.ringLog (s : State) (fn : Nat) : Nat := max 4 (s.field (.frctl fn) 0 4)

/-- Address of the ring block. -/
def State.ringBase (s : State) (fn : Nat) : Nat := (s.reg (.frbase fn)).toNat

/-- A record goes to the ring; where that fails it waits, and the control complex logs it (R350). -/
def State.drainRecord (s : State) (fn : Nat) (rec_ : List Byte) : State :=
  let k := s.func fn
  let base := s.ringBase fn
  if s.unitBusy fn base || s.unitBusy fn (base + 0x40 + 64 * (k.frHead.toNat % 2 ^ s.ringLog fn)) then s
  else match s.unitRead fn (base + 4) 4 with
  | (.error _, s1) => s1.logs (.ringFault fn)
  | (.ok b, s1) =>
    if (k.frHead - BitVec.ofNat 32 (leValue b)).toNat = 2 ^ s.ringLog fn then s1
    else match s1.unitPoke fn (base + 0x40 + 64 * (k.frHead.toNat % 2 ^ s.ringLog fn)) rec_ with
      | (some _, s2) => s2.logs (.ringFault fn)
      | (none, s2) =>
        let s3 := (s2.unitPoke fn base (leBytes 4 (k.frHead + 1).toNat)).2
        s3.onFunc fn (fun k => { k with frHead := k.frHead + 1, records := k.records.tail, written := k.written + 1 })

/-- FAULT_RECORD_DRAIN (R350). -/
def execFaultRecordDrain (fn : Nat) (s : State) : Result :=
  .next (match (s.func fn).records with
    | [] => s
    | r :: _ => if s.field (.frctl fn) 31 1 = 0 then s else s.drainRecord fn r)

/-- FAULT_MSI (R352): vector 3, at most once in a µs. -/
def execFaultMsi (fn : Nat) (s : State) : Result :=
  .next (
    let k := s.func fn
    if k.written = 0 ∨ (k.msiAt ≠ 0 ∧ s.fab < k.msiAt + Config.fabPerUs) then s
    else (s.onFunc fn (fun k => { k with written := 0, msiAt := s.fab })).msi fn 3)

/-- A write to FRCTL (R350): LOG holds while ENABLE is 1; an enable reads HEAD, a free value where it is unreadable
(log 30). -/
def State.writeFrctl (s : State) (fn : Nat) (v : Word) : State :=
  let on := s.field (.frctl fn) 31 1 = 1
  if on ∧ max 4 (v.toNat % 16) ≠ s.ringLog fn then s
  else
    let s1 := s.mergeReg (.frctl fn) (v.setWidth 64)
    if on ∨ !v.getLsbD 31 then s1
    else match s1.unitRead fn (s1.ringBase fn) 4 with
      | (.ok b, s2) => s2.onFunc fn (fun k => { k with frHead := BitVec.ofNat 32 (leValue b) })
      | (.error _, s2) =>
        let (w, s3) := s2.free
        s3.onFunc fn (fun k => { k with frHead := w.setWidth 32 })

/-- FRCTL_ENABLE (R350). -/
def execFrctlEnable (fn : Nat) (value : Word) (s : State) : Result :=
  .next (if 64 < fn ∨ !value.getLsbD 31 then s else s.writeFrctl fn value)

/-- A write to FRBASE (R350). -/
def State.writeFrbase (s : State) (fn : Nat) (v : DWord) : State :=
  if s.field (.frctl fn) 31 1 = 1 then s else s.mergeReg (.frbase fn) v

/-! ## Commands (R354) -/

/-- GEN, OP and HANDLE of a CREWCMD value, and its reserved bits (Table 19-6). -/
def cmdGen (v : DWord) : Nat := v.toNat / 2 ^ 48 % 256
def cmdOp (v : DWord) : Nat := v.toNat / 2 ^ 32 % 16
def cmdHandle (v : DWord) : Nat := v.toNat % 2 ^ 16
def cmdReserved (v : DWord) : Bool := v.toNat / 2 ^ 56 != 0 || v.toNat / 2 ^ 36 % 2 ^ 12 != 0 || v.toNat / 2 ^ 16 % 2 ^ 16 != 0

/-- What a handle names (Table 19-5). -/
inductive CmdTarget where
  | crew (id : Nat) (c : Crew)
  | card (id : Nat)
  | nothing
  deriving DecidableEq, Repr

/-- The crew in STATE 3 or the open card request of a handle (R354). -/
def State.cmdTarget (s : State) (fn h : Nat) : CmdTarget :=
  if h < 8192 then
    match s.crewList.find? (fun e => e.2.fn == fn && e.2.frame == h && e.2.loc.isNone && e.2.fst.state == 3) with
    | some (id, c) => .crew id c
    | none => .nothing
  else if h / 256 = 0x80 then
    match (s.func fn).cardReqs.get (h % 256) with
    | some id => .card id
    | none => .nothing
  else .nothing

/-- An operation is allowed for a saved crew (Table 19-7, R349, R354). -/
def Crew.allows (c : Crew) (op : Nat) : Bool :=
  if c.fst.bad then op == 3
  else if c.fst.kind = 1 then op == 4 || op == 5
  else op == 1 || op == 3 || (op == 2 && reqCause c.fst.req != causeCode .fetchAlign)

/-- What a command acts on; nothing where it is dropped (R354). -/
def State.command (s : State) (fn : Nat) (v : DWord) : CmdTarget :=
  if cmdGen v ≠ s.genOf fn ∨ cmdReserved v then .nothing
  else match s.cmdTarget fn (cmdHandle v) with
    | .crew id c => if c.allows (cmdOp v) then .crew id c else .nothing
    | .card id => if cmdOp v = 4 ∨ cmdOp v = 5 then .card id else .nothing
    | .nothing => .nothing

/-- A dropped command (R354). -/
def State.dropCommand (s : State) (fn : Nat) (v : DWord) : State :=
  (s.setReg (.cmddrop fn) (BitVec.ofNat 64 (min (2 ^ 32 - 1) ((s.reg (.cmddrop fn)).toNat + 1)))).logs
    (.cmdDrop fn (cmdGen v) (s.genOf fn) (cmdHandle v))

/-- The access is one whose deferred fault a save reports (R390, log 113). -/
def SaveReq.reports (q : Option SaveReq) (l : Load) : Bool := l.poison && (q.map (fun q => q.deferred && q.pc == l.pc)).getD false

/-- The reported atomics of a crew: their destinations turn full, holding zero (R390). -/
def State.zeroAtoms (s : State) (crew : Nat) : State :=
  let q := (s.crew crew).bind (·.fst.req)
  let mine (l : Load) : Bool := l.who.crew == crew && l.atomic && SaveReq.reports q l
  (s.loads.filter mine).foldl (fun s l => s.onThread l.who (·.zeroLoad l)) { s with loads := s.loads.filter (fun l => !mine l) }

/-- The crew returns to STATE 2 (Table 19-7). -/
def State.release2 (s : State) (crew : Nat) : State :=
  match s.crew crew with
  | none => s
  | some c =>
    let c1 := { c with fst := { c.fst with state := 2 } }
    (s.putCrew crew c1).frameUpdate c1

/-- A BANDWAIT count restarts at zero. -/
def Crew.restart (c : Crew) : Crew :=
  if reqCause c.fst.req = causeCode .bandWait then { c with rend := c.rend.map (fun e => (e.1, e.2.map (fun _ => 0))) } else c

/-- RESUME: the threads execute their instruction again; poisoned reads are issued again (R354, R390). -/
def State.cmdResume (s : State) (crew : Nat) : State := ((s.zeroAtoms crew).onCrew crew (·.restart)).release2 crew

/-- Registers turn full, holding zero (R390). -/
def Thread.zeroRegs (t : Thread) (rs : List Nat) : Thread :=
  { t with regs := rs.foldl (fun m i => m.set i 0) t.regs }.mark rs false

/-- The threads that raised a fault in the reported issue go on at its successor, the destinations of a read for which they
waited full and zero (R354, R390). -/
def Crew.skipFaulters (c : Crew) : Crew :=
  match c.fst.req with
  | none => c
  | some q => q.faulters.foldl (fun c tid =>
    match c.thread tid with
    | some t => if t.pc = q.pc then c.putThread tid ((if q.zeroed.contains tid then t.zeroRegs q.dest else t).advance q.next)
      else c
    | none => c) c

/-- The replay packets of the reported reads are dropped, their destinations full and zero (R390). -/
def Crew.skipReads (c : Crew) : Crew :=
  (c.replay.filter (SaveReq.reports c.fst.req)).foldl (fun c l =>
    match c.thread l.who.tid with
    | some t => c.putThread l.who.tid (t.zeroLoad l)
    | none => c) { c with replay := c.replay.filter (fun l => !SaveReq.reports c.fst.req l) }

/-- SKIP (R354, R390). -/
def State.cmdSkip (s : State) (crew : Nat) : State :=
  ((s.zeroAtoms crew).onCrew crew (fun c => c.restart.skipFaulters.skipReads)).release2 crew

/-- A crew's own cards, wherever they stand, are discarded or abandoned (R360). -/
def State.discardCards (s : State) (crew : Nat) : State :=
  let mine := s.cards.filter (·.who.crew == crew) ++ ((s.crew crew).map (·.cards)).getD []
  (mine.foldl (fun s k => s.discardCard k) s).onCrew crew (fun c => { c with cards := [], lineReplay := [] })

/-- ABORT (R360): the crew is discarded; its RETIRE event follows once its stores are answered. A frame number of 8192
stands for no frame. -/
def State.cmdAbort (s : State) (crew : Nat) (c : Crew) : State :=
  let s1 := ((s.discardCards crew).dropTrump c.fn crew).frameWrite c 0 [0, 0, 0]
  let s2 := { s1 with loads := s1.loads.filter (fun (l : Load) => l.who.crew != crew) }
  s2.onCrew crew (fun c => { c.mapThreads (fun _ t => { t with status := .exited }) with
    ended := true, replay := [], frame := 8192, privSlot := none
    fst := { (default : FrameInfo) with state := 0 } })

/-- PAGEOK of a card: it resumes, and its request is closed (Table 19-7). -/
def State.cardPageOk (s : State) (fn r id : Nat) : State :=
  (s.onCardCopies id (fun k => { k with paused := false, req := none })).onFunc fn
    (fun q => { q with cardReqs := q.cardReqs.set r none })

/-- The page that a paused card misses, wherever the card stands. -/
def State.missing (s : State) (id : Nat) : Nat :=
  ((s.allCards.find? (fun k => k.id == id && k.miss.isSome)).bind (·.miss)).elim 0 (·.2)

/-- PAGEFAIL of a card: it is abandoned, and its crew is saved with PERM (Table 19-7, R246). -/
def State.cardPageFail (s : State) (fn r id : Nat) : State :=
  (s.abandonCard id .perm (s.missing id)).onFunc fn (fun q => { q with cardReqs := q.cardReqs.set r none })

/-- PAGEFAIL of a crew: a fault save with cause PERM and a new record (Table 19-7). -/
def State.crewPageFail (s : State) (crew : Nat) (c : Crew) : State :=
  match c.fst.req with
  | some q => s.becomeFault crew c { q with kind := 2, cause := .perm, code := 0 }
  | none => s

/-- A write to CREWCMD (R354). -/
def State.crewcmd (s : State) (fn : Nat) (v : DWord) : State :=
  match s.command fn v with
  | .nothing => s.dropCommand fn v
  | .crew id c =>
    match cmdOp v with
    | 1 => s.cmdResume id
    | 2 => s.cmdSkip id
    | 3 => s.cmdAbort id c
    | 4 => s.release2 id
    | _ => s.crewPageFail id c
  | .card id => if cmdOp v = 4 then s.cardPageOk fn (cmdHandle v % 256) id else s.cardPageFail fn (cmdHandle v % 256) id

/-- A command of operation `op` that acts. -/
def State.commandOf (s : State) (fn op : Nat) (v : DWord) : State :=
  if fn ≤ 64 ∧ cmdOp v = op ∧ s.command fn v ≠ .nothing then s.crewcmd fn v else s

/-- CREWCMD_RESUME (R354, R390). -/
def execCrewcmdResume (fn : Nat) (value : DWord) (s : State) : Result := .next (s.commandOf fn 1 value)

/-- CREWCMD_SKIP (R354, R390). -/
def execCrewcmdSkip (fn : Nat) (value : DWord) (s : State) : Result := .next (s.commandOf fn 2 value)

/-- CREWCMD_ABORT (R360). -/
def execCrewcmdAbort (fn : Nat) (value : DWord) (s : State) : Result := .next (s.commandOf fn 3 value)

/-- CREWCMD_PAGEOK (R354). -/
def execCrewcmdPageok (fn : Nat) (value : DWord) (s : State) : Result := .next (s.commandOf fn 4 value)

/-- CREWCMD_PAGEFAIL (R354). -/
def execCrewcmdPagefail (fn : Nat) (value : DWord) (s : State) : Result := .next (s.commandOf fn 5 value)

/-- CREWCMD_DROP (R354). -/
def execCrewcmdDrop (fn : Nat) (value : DWord) (s : State) : Result :=
  .next (if fn ≤ 64 ∧ s.command fn value = .nothing then s.dropCommand fn value else s)

/-! ## Function-level reset (R51, R359) -/

/-- A crew goes with its function's reset, unsaved; a commit that has not been applied is not, and its marks clear (R51, R359,
log 45). -/
def State.tearDown (s : State) (crew : Nat) (c : Crew) : State :=
  let s1 := (s.noteWriters c).dropCrew crew
  let s2 := { s1 with
    loads := s1.loads.filter (fun (l : Load) => l.who.crew != crew), marks := s1.marks.filter (fun m => m.who.crew != crew) }
  let s3 := if c.frame < 8192 then s2.frameWrite c 0 [0, 0, 0] else s2
  match c.loc with
  | some (core, _) => s3.noteIdle core c.part
  | none => s3

/-- The cards of a function go. -/
def State.tearCards (s : State) (fn : Nat) : State :=
  let mine := s.cards.filter (·.fn == fn)
  { mine.foldl (fun s k => s.leaveRing k.id) s with insts := s.insts.filter (fun i => i.fn != fn) }

/-- What the front end, the walker and the fault ring keep of a function (R51, R359). -/
def FuncSt.reset (k : FuncSt) : FuncSt :=
  { k with
    queues := [], leftovers := [], busyOn := [], lastQueue := 0, frHead := 0, records := [], written := 0, cardReqs := [], share := default, shareHeld := false }

/-- The registers that a function-level reset clears (R51, R281, R342, R359). -/
def State.clearRegs (s : State) (fn : Nat) : State :=
  ([Reg.qtbase fn, .dropcnt fn, .frbase fn, .frctl fn, .cmddrop fn, .cgbase fn, .hotctl fn] ++
    (List.range 3).map (Reg.miss fn)).foldl (fun s r => s.setReg r (r.reset s.parts')) s

/-- A member's pass of an atomic that has not been issued yet: an earlier member's to the same bytes is under way, or a peer's
request has not been sent (R212, R359). -/
def State.passWaits (s : State) (w : Write) : Bool :=
  w.stage == .issued && w.atom.isSome && (s.writeBehind w || match w.tag with | some t => !s.posted.contains t | none => false)

/-- A function-level reset (R51, R259, R359): a completion write that is not yet performed never is, and neither is a pass
that has not been issued. -/
def State.flr (s : State) (fn : Nat) : State :=
  let s1 := (s.setField (.fstat fn) 8 8 (s.genOf fn + 1)).setField (.fstat fn) 0 1 1
  let s2 := s1.tearCards fn
  let s3 := (s2.crewList.filter (fun e => e.2.fn == fn)).foldl (fun s e => s.tearDown e.1 e.2) s2
  let s4 := (s3.onShare fn (fun _ => default)).onFunc fn FuncSt.reset
  { s4.clearRegs fn with
    buckets := (List.range Config.clusters).foldl (fun m k => m.upd (bucketKey k fn) (fun b => { b with tok := 0, debt := 0 })) s4.buckets
    writes := s4.writes.filter (fun (w : Write) => !(w.owner == ownerCode fn && s4.passWaits w) && !(w.stage == .issued &&
      match w.by_ with
      | .completion f _ _ => f == fn
      | .packet f _ => f == fn
      | _ => false)) }

/-- FLR_REQUEST (R51). -/
def execFlrRequest (fn : Nat) (s : State) : Result := .next (if 64 < fn then s else s.flr fn)

/-- FLR_TEARDOWN_DONE (R51). -/
def execFlrTeardownDone (fn : Nat) (s : State) : Result :=
  .next (if 64 < fn then s else s.setField (.fstat fn) 0 1 0)

end Sys2Proof.Machine
end

