-- ==== Sys2Proof/Machine/Waldin.lean ====
section
/-!
DEFINITION. Waldin links and peers (R323 to R335, R342): wiring, lanes, routes, flits, requests that peers make and
their answers to ours.
-/
namespace Sys2Proof.Machine
open Sys2Proof

/-! ## Wiring (R323) -/

/-- Ports of a device. -/
def ports : Nat := 18

/-- Copy and offset of a global link by its number in the group (R323). -/
def globalLink (q : Nat) : Nat × Nat :=
  if q < 38 then (q / 19, q % 19 + 1) else (2, if q - 38 < 5 then q - 37 else q - 38 + 10)

/-- Number in a group of the link of a copy and an offset (R323). -/
def linkNumber (copy off : Nat) : Option Nat := (List.range 48).find? (fun q => globalLink q == (copy, off))

/-- Rank and port at the other end of a port (R323). -/
def wiredTo (rank port : Nat) : Nat × Nat :=
  let g := rank / 16
  let d := rank % 16
  if port < 15 then (16 * g + (d + 1 + port) % 16, 14 - port)
  else
    let (c, o) := globalLink (3 * d + (port - 15))
    let h := (g + o) % 20
    match linkNumber c (20 - o) with
    | some q => (16 * h + q / 3, 15 + q % 3)
    | none => (0, 0)

/-! ## Training and lanes (R324, R325) -/

/-- The widest width that a set of lanes allows (R325). -/
def widest (lanes : Nat) : Nat :=
  let n := ((List.range 8).filter (fun i => bitOf lanes i)).length
  if 8 ≤ n then 8 else if 4 ≤ n then 4 else if 2 ≤ n then 2 else n

/-- A port's link layer and its link. -/
def State.port (s : State) (n : Nat) : Port := s.ports.get n
def State.onPort (s : State) (n : Nat) (f : Port → Port) : State := { s with ports := s.ports.upd n f }
def State.portUp (s : State) (n : Nat) : Bool := s.field (.wport n) 31 1 == 1

/-- LANES, WIDTH and UP of a port for its working lanes (R325). -/
def State.setLanes (s : State) (n lanes : Nat) : State :=
  ((s.setField (.wport n) 8 8 lanes).setField (.wport n) 0 4 (widest lanes)).setField (.wport n) 31 1
    (if widest lanes = 0 then 0 else 1)

/-- The link layer of a port as it trains: the first flit each way takes SEQ 0 (log 31); every buffer is free. -/
def Port.fresh (p : Port) : Port :=
  { p with
    txNext := 0, rxLast := 0xFFF, peerAck := 0xFFF, nak := false, queue := [], replay := [], rx := [], rxSet := 0
    rxLeft := 0, credits := [], owed := (List.range 15).foldl (fun m i => m.set i (Config.flitBuffers i)) [], wire := []
    retraining := false }

/-- PORT_TRAIN (R324): the peer's rank and port decide whether the port enters service. -/
def execPortTrain (port peerRank peerPort : Nat) (lanes : Byte) (s : State) : Result :=
  .next (match s.rank with
    | none => s
    | some r =>
      if ports ≤ port || s.portUp port then s
      else if wiredTo r port = (peerRank, peerPort) then
        ((s.setField (.wport port) 30 1 0).setLanes port (lanes &&& ~~~(s.port port).retired).toNat).onPort port Port.fresh
      else (s.setField (.wport port) 30 1 1).logs (.miswire port peerRank peerPort))

/-- LANE_RETIRE (R325): the port retrains on the lanes that are left; without one it is down. -/
def execLaneRetire (port lane : Nat) (s : State) : Result :=
  .next (
    let lanes := s.field (.wport port) 8 8
    if ports ≤ port || 8 ≤ lane || !s.portUp port || !bitOf lanes lane then s
    else
      let left := lanes - 2 ^ lane
      let s1 := s.onPort port (fun p => { p with retired := p.retired ||| BitVec.ofNat 8 (2 ^ lane), retraining := left != 0 })
      if left = 0 then s1.setLanes port 0 else s1.setField (.wport port) 8 8 left)

/-- PORT_RETRAIN_DONE (R325). -/
def execPortRetrainDone (port : Nat) (s : State) : Result :=
  .next (
    if ports ≤ port || !(s.port port).retraining then s
    else (s.onPort port (fun p => { p with retraining := false })).setLanes port (s.field (.wport port) 8 8))

/-! ## Routes (R326, R327) -/

/-- The in-group port from a place to another (R323). -/
def groupPort (d e : Nat) : Nat := (e + 16 - d - 1) % 16

/-- Links between groups at an offset (R323). -/
def copies (off : Nat) : Nat := if off ≤ 5 ∨ 15 ≤ off then 3 else 2

/-- Offset from the group of a rank to that of another. -/
def groupOff (s t : Nat) : Nat := (t / 16 + 20 - s / 16) % 20

/-- The copy of the global link that a packet from `s` to `t` takes (R326). -/
def copyOf (s t : Nat) : Nat := (s + t) % copies (groupOff s t)

/-- The first port toward the link of a copy and an offset (R326). -/
def portToLink (d copy off : Nat) : Nat :=
  match linkNumber copy off with
  | some q => if q / 3 = d then 15 + q % 3 else groupPort d (q / 3)
  | none => 0

/-- The port by which device `m` passes on a packet from `s` to `t` (R326); its own where `m` is `s`. -/
def portAt (m s t : Nat) : Nat :=
  if m / 16 = t / 16 then groupPort (m % 16) (t % 16) else portToLink (m % 16) (copyOf s t) (groupOff s t)

/-- The first port of the route from a rank to another (R326). -/
def firstPort (s t : Nat) : Nat := portAt s s t

/-- Ports that are out of service, by rank and port: this device's, and those of others that are down or absent (R323, R327). -/
def State.portOff (s : State) (own r p : Nat) : Bool :=
  if r = own then !s.portUp p else s.downs.contains (r * Sys2Proof.Machine.ports + p)

/-- A link out of a port is out of service at one of its ends. -/
def linkOff (off : Nat → Nat → Bool) (rank port : Nat) : Bool := off rank port || off (wiredTo rank port).1 (wiredTo rank port).2

/-- A link out of a port of a device is down or absent at one of its ends (R323, R327). -/
def State.linkDown (s : State) (own rank port : Nat) : Bool := linkOff (s.portOff own) rank port

/-- Hops inside a group over links that stand, through one further device at most (R327). -/
def groupHops (off : Nat → Nat → Bool) (a b : Nat) : Option (List (Nat × Nat)) :=
  let hop (a b : Nat) : Nat × Nat := (a, groupPort (a % 16) (b % 16))
  if a = b then some []
  else if !linkOff off a (groupPort (a % 16) (b % 16)) then some [hop a b]
  else
    ((List.range 16).find? (fun d =>
      let x := a / 16 * 16 + d
      x != a && x != b && !linkOff off a (hop a x).2 && !linkOff off x (hop x b).2)).map
        (fun d => [hop a (a / 16 * 16 + d), hop (a / 16 * 16 + d) b])

/-- The route over the link of a copy, where every part of it stands: at most five hops (R327). -/
def routeOver (off : Nat → Nat → Bool) (a t copy : Nat) : Option (List (Nat × Nat)) :=
  match linkNumber copy (groupOff a t) with
  | none => none
  | some q =>
    let h := a / 16 * 16 + q / 3
    let g := 15 + q % 3
    if linkOff off h g then none
    else match groupHops off a h, groupHops off (wiredTo h g).1 t with
      | some x, some y => some (x ++ (h, g) :: y)
      | _, _ => none

/-- The route from a rank to a target over the links that stand: that of R326 first, then over the other links of the group
pair; a link inside a group is passed round through its lowest device (R327, log 14). -/
def routeWith (off : Nat → Nat → Bool) (a t : Nat) : Option (List (Nat × Nat)) :=
  if a / 16 = t / 16 then groupHops off a t
  else
    let c := copyOf a t
    (c :: (List.range (copies (groupOff a t))).filter (· != c)).findSome? (routeOver off a t)

/-- The route as the links stand now. -/
def State.routeFrom (s : State) (own a t : Nat) : Option (List (Nat × Nat)) := routeWith (s.portOff own) a t

/-- The route in effect, which the last rewrite has made. -/
def State.routeHeld (s : State) (a t : Nat) : Option (List (Nat × Nat)) :=
  routeWith (fun r p => s.links.contains (r * Sys2Proof.Machine.ports + p)) a t

/-- The first port of the route of this device, 18 for a target that cannot be reached. -/
def State.portFor (s : State) (own t : Nat) : Nat :=
  match s.routeFrom own own t with
  | some ((_, p) :: _) => p
  | _ => Sys2Proof.Machine.ports

/-- The first port toward a target: as rewritten, kept as the port plus 1, with 19 for a target that cannot be reached;
else that of R326. -/
def State.routeTo (s : State) (rank t : Nat) : Nat :=
  if s.routes.get t = 0 then firstPort rank t else s.routes.get t - 1

/-- The route to a target is to change, in its first hop or in a later one (R327). -/
def State.rerouted (s : State) (rank t : Nat) : Bool := t != rank && s.routeFrom rank rank t != s.routeHeld rank t

/-- The targets whose route is to change (R327). -/
def State.reroutes (s : State) (rank : Nat) : List Nat := (List.range 320).filter (s.rerouted rank)

/-- A request to a rank has been sent and is outstanding, those of saved crews among them (R346). -/
def State.asks (s : State) (t : Nat) : Bool :=
  let sent (tag : Option Nat) : Bool := match tag with | some n => s.posted.contains n | none => false
  s.loads.any (fun (l : Load) => l.space == .peer && sent l.tag && rankOfPa l.pa == t) ||
    s.writes.any (fun (w : Write) => w.space == .peer && sent w.tag && rankOfPa w.pa == t) ||
    s.strays.any (fun x => sent x.tag && rankOfPa x.pa == t) ||
    s.allCards.any (fun k => k.asks.any (fun a => a.data.isNone && sent (some a.tag) && rankOfPa a.pa == t)) ||
    s.funcs.any (fun f => f.2.allPackets.any (fun p => p.ask.any (fun a => a.data.isNone && sent (some a.tag) && rankOfPa a.pa == t)))

/-- Every port that is out of service, as rank · 18 + port. -/
def State.portsOff (s : State) (own : Nat) : List Nat :=
  ((List.range Sys2Proof.Machine.ports).filter (fun p => !s.portUp p)).map (own * Sys2Proof.Machine.ports + ·) ++
    s.downs.filter (fun x => x / Sys2Proof.Machine.ports != own)

/-- ROUTE_REWRITE (R323, R327): a port of this device, or port `p` of rank `r` as 18 + 18·r + p, has gone down. The routes
that are to change do so together, once every earlier request to their targets is over; until then no new one is sent. -/
def execRouteRewrite (port : Nat) (s : State) : Result :=
  .next (match s.rank with
    | none => s
    | some r =>
      let s1 := if port < ports ∨ s.downs.contains (port - ports) then s else { s with downs := s.downs ++ [port - ports] }
      let ts := s1.reroutes r
      if ts.any s1.asks then s1
      else { s1 with
        links := s1.portsOff r
        routes := ts.foldl (fun m t => m.set t (if s1.portFor r t = firstPort r t then 0 else s1.portFor r t + 1)) s1.routes })

/-- WPORT_CRCERR_CLEAR (R342): a 1 in any bit of CRCERR clears the whole count. -/
def State.writeWport (s : State) (port : Nat) (v : DWord) : State :=
  if v.toNat / 2 ^ 32 = 0 then s else s.setField (.wport port) 32 32 0

/-- WPORT_CRCERR_CLEAR (R342). -/
def execWportCrcerrClear (port : Nat) (value : DWord) (s : State) : Result :=
  .next (s.bar4 fun s => if ports ≤ port then s else s.writeWport port value)

/-! ## Requests of peers (R330 to R333) -/

/-- SIZE plus 1. -/
def pktBytes (p : PeerPacket) : Nat := p.size.toNat + 1

/-- A masked WRITE (R331). -/
def pktMasked (p : PeerPacket) : Bool := p.op == 2 && p.aux.getLsbD 0

/-- Bit `j` of a mask. -/
def pktMaskBit (p : PeerPacket) (j : Nat) : Bool := (p.data.getD (j / 8) 0).getLsbD (j % 8)

/-- Data byte `j` of a masked WRITE. -/
def pktMaskedByte (p : PeerPacket) (j : Nat) : Byte := p.data.getD (16 + j) 0

/-- A run of bytes that R331 allows: a power of two up to 128, aligned to its size. -/
def runOk (addr n : Nat) : Bool := [1, 2, 4, 8, 16, 32, 64, 128].contains n && addr % n == 0

/-- The operand type of an atomic operation (Table 12-4): bits for the logical ones and the exchange. -/
def atomTyOk (op : Nat) (ty : Ty) : Bool :=
  if op ≤ 2 then ([Ty.s32, .z32, .s64, .z64, .f32] : List Ty).contains ty else op ≤ 6 && (ty == .b32 || ty == .b64)

/-- The atomic that a request asks for and its bytes: one operand, or expected and new values for ACAS (R330, R331). -/
def pktAtom (p : PeerPacket) : Option (AtomOp × Nat) :=
  let fn := p.aux.toNat % 256
  match Ty.ofCode (p.aux.toNat / 256 % 16) with
  | none => none
  | some ty =>
    let w := tyBytes ty
    let v (i : Nat) : DWord := BitVec.ofNat 64 (fld p.data (w * i) w)
    if pktBytes p = w ∧ atomTyOk fn ty then some ({ op := fn, ty := ty, b := v 0, c := 0, d := none, acq := .none }, w)
    else if pktBytes p = 2 * w ∧ fn = 0 ∧ (ty = .b32 ∨ ty = .b64) then
      some ({ op := 7, ty := ty, b := v 0, c := v 1, d := none, acq := .none }, w)
    else none

/-- Reserved bits of a request are zero (Table 18-2). -/
def pktPlain (p : PeerPacket) : Bool :=
  p.addr.toNat < 2 ^ 42 && p.src.toNat < 512 && p.dst.toNat < 512 &&
    (if p.op = 1 then p.aux == 0 else if p.op = 2 then decide (p.aux.toNat < 2) else decide (p.aux.toNat < 2 ^ 12))

/-- The shape of a request is one that R331 allows; what stands under a clear mask bit is not looked at. -/
def pktShapely (p : PeerPacket) : Bool :=
  (pktPlain p) &&
  (if p.op = 1 then runOk p.addr.toNat (pktBytes p) && p.data.isEmpty
   else if p.op = 2 then
     if (pktMasked p) then p.addr.toNat % 128 == 0 && p.size == 127 && p.data.length == 144
     else runOk p.addr.toNat (pktBytes p) && p.data.length == (pktBytes p)
   else match (pktAtom p) with
     | some (_, w) => p.addr.toNat % w == 0 && p.data.length == (pktBytes p)
     | none => false)

/-- Every view sector of a request lies in an enabled window. -/
def State.backed (s : State) (pa : Nat) : Bool := regionOf pa == .hbm || (regionOf pa == .view && (s.viewOf pa).isSome)

/-- The local owner of a request (R333). -/
def State.peerOwner (s : State) (p : PeerPacket) : Nat := s.field (.inown p.func.toNat) 0 8

/-- The rank is let in (Table 18-6). -/
def State.letsIn (s : State) (rank : Nat) : Bool := decide (rank < 320) && s.field (.inrank (rank / 32)) (rank % 32) 1 == 1

/-- The frame's owner, with the scales' frame of a view (R163, R333). -/
def State.peerOwns (s : State) (l pa : Nat) : Bool := s.ownerAt pa == some l && (l == 0 || s.ownedBy l pa)

/-- The bytes that a request reads or writes. -/
def pktTouches (p : PeerPacket) : List Nat :=
  if pktMasked p then ((List.range 128).filter (pktMaskBit p)).map (p.addr.toNat + ·)
  else if p.op = 3 then (List.range (((pktAtom p).map (·.2)).getD 1)).map (p.addr.toNat + ·)
  else (List.range (pktBytes p)).map (p.addr.toNat + ·)

/-- The addresses at which a request is checked: its own, and one in each further sector that it touches (R163, R333). -/
def pktSectors (p : PeerPacket) : List Nat :=
  p.addr.toNat :: (((pktTouches p).map (· / 64)).dedup.filter (· != p.addr.toNat / 64)).map (64 * ·)

/-- The first check that a request fails (R331, R333). -/
def State.peerFails (s : State) (p : PeerPacket) : Option Cause :=
  let ads := pktSectors p
  if !(pktShapely p) ∨ !s.letsIn p.src.toNat ∨ s.peerOwner p = 255 ∨ ads.any (fun a => !s.backed a || s.inCodes a) then some .perm
  else if ads.any (fun a => !s.peerOwns (s.peerOwner p) a) then some .owner
  else if p.op = 3 ∧ regionOf p.addr.toNat = .view then some .perm
  else none

/-- The runs of bytes that a WRITE stores, each inside one sector (R331). -/
def pktRuns (p : PeerPacket) : List (Nat × List Byte) :=
  if (pktMasked p) then ((List.range 128).filter (pktMaskBit p)).map (fun j => (p.addr.toNat + j, [(pktMaskedByte p) j]))
  else if p.data.length ≤ 64 then [(p.addr.toNat, p.data)]
  else [(p.addr.toNat, p.data.take 64), (p.addr.toNat + 64, p.data.drop 64)]

/-- The check value of sector `j` of the block that a packet carries bytes of. -/
def pktChk (p : PeerPacket) (j : Nat) : Word := if j = 0 then p.chk0 else p.chk1

/-- A run of a WRITE is a sector whole whose check value, as the packet carries it, does not hold (R272, Table 18-2). -/
def pktChkBad (p : PeerPacket) (r : Nat × List Byte) : Bool :=
  let c := pktChk p (r.1 / 64 % 2)
  p.op == 2 && r.2.length == 64 && c != 0 && c != crc32c (r.2 ++ leBytes 8 (r.1 / 64 % 2 ^ 46))

/-- A write of a peer is performed at its home slice as it arrives (R331, R332). Data that come with the poison mark, or whose check
value fails, poison the sector that they enter; a failed check value is logged (R272, R273). -/
def State.peerWrite (s : State) (p : PeerPacket) (r : Nat × List Byte) (old : Option DWord) : State :=
  let (id, s0) := s.newId
  let (a, bs) := s.stored r.1 r.2
  let failed := pktChkBad p r
  let bad := p.op == 2 && (p.poison || failed)
  let s1 := if failed then (s0.writeHome a bs).logs (.poisoned (r.1 / 64 * 64)) else s0.writeHome a bs
  let s2 := if bad then { s1 with poison := (sectorRun a bs.length).foldl (fun m k => m.set k true) s1.poison } else s1
  s2.pushWrite { unitWrite id (.peer p.src.toNat p.tag.toNat p.func.toNat p.addr.toNat) 64 a bs
      (s.lazyOwner (s.peerOwner p)) false with
    va := r.1, owner := s.peerOwner p, stage := .home, old := old, bad := bad }

/-- A request that passes the checks (R331 to R333). -/
def State.peerServe (s : State) (p : PeerPacket) : State :=
  let pa := p.addr.toNat
  let src := p.src.toNat
  let tag := p.tag.toNat
  if p.op = 1 then
    let bad := s.runBad pa (pktBytes p)
    (if bad then s.meetPoison pa (pktBytes p) else s).answer (.readRsp src tag pa (s.bytesAt pa (pktBytes p)) bad)
  else if p.op = 2 then
    match (pktRuns p) with
    | [] => s.answer (.writeAck src tag)
    | rs => rs.foldl (fun s r => s.peerWrite p r none) s
  else match (pktAtom p) with
    | none => s
    | some (a, w) =>
      if s.runBad pa w then ((s.meetPoison pa w).logs (.peerFault src p.func.toNat pa .poison)).answer (.fault src tag .poison)
      else
        let old := s.bytesAt pa w
        s.peerWrite p (pa, a.newBytes old) (some (BitVec.ofNat 64 (leValue old)))

/-- Responses and collective streams are no requests (Table 18-3). -/
def pktIsRequest (p : PeerPacket) : Bool := !([0x08, 0x09, 0x0A, 0x0F, 0x10] : List Byte).contains p.op

/-- An earlier request of the same source to one of the bytes waits (R331). -/
def State.peerBehind (s : State) (p : PeerPacket) : Bool :=
  (s.parked.takeWhile (· != p)).any (fun o => o.src == p.src && (pktTouches o).any (pktTouches p).contains)

/-- A request waits at its home slice: for a view (R162), for a commit mark (R312), or behind an earlier one (R331). -/
def State.peerWaits (s : State) (p : PeerPacket) : Bool :=
  (pktSectors p).any s.homeBusy || s.marked (p.addr.toNat / 128) none (p.op == 1) || s.peerBehind p

/-- PEER_REQUEST (R331 to R333): a request to another device passes through; one that must wait is kept. -/
def execPeerRequest (pkt : PeerPacket) (s : State) : Result :=
  .next (
    if s.rank ≠ some (pkt.dst.toNat % 512) ∨ !pktIsRequest pkt then s
    else if ¬ (pkt.op = 1 ∨ pkt.op = 2 ∨ pkt.op = 3) then
      (s.logs (.peerFault pkt.src.toNat pkt.func.toNat pkt.addr.toNat .perm)).answer (.fault pkt.src.toNat pkt.tag.toNat .perm)
    else if s.peerWaits pkt then (if s.parked.contains pkt then s else { s with parked := s.parked ++ [pkt] })
    else
      let s1 := { s with parked := s.parked.erase pkt }
      match s1.peerFails pkt with
      | some c =>
        (s1.logs (.peerFault pkt.src.toNat pkt.func.toNat pkt.addr.toNat c)).answer (.fault pkt.src.toNat pkt.tag.toNat c)
      | none => s1.peerServe pkt)

/-! ## Answers to our requests (R331, R332, R334, R335) -/

/-- The read that waits for an answer with a tag. -/
def State.peerLoad (s : State) (tag : Nat) : Option Load :=
  s.loads.find? (fun (l : Load) => l.tag == some tag && l.space == .peer && l.data.isNone && !l.atomic && !l.poison)

/-- The writes that wait for an answer with a tag: an atomic, or those that one WRITE carries (R207). -/
def State.peerStores (s : State) (tag : Nat) : List Write := s.writes.filter (fun (w : Write) => w.tag == some tag && w.space == .peer)

/-- The first of them. -/
def State.peerStore (s : State) (tag : Nat) : Option Write := (s.peerStores tag).head?

/-- An answer that no request waits for: dropped for a saved crew (R346), counted where its request has timed out, whose tag stays
out of use for its time (R335). -/
def State.lateAnswer (s : State) (tag : Nat) : State :=
  if s.strays.any (·.tag == some tag) then { s with strays := s.strays.filter (·.tag != some tag) }
  else if s.expired.any (·.1 == tag) then
    { s.setReg .plate (BitVec.ofNat 64 (min (2 ^ 32 - 1) ((s.reg .plate).toNat + 1))) with
      expired := s.expired.filter (fun e => e.1 != tag || decide (s.fab < e.2 + s.peerLimit)) }
  else s

/-- The card that waits for an answer with a tag, and the packet of a function that does (R334). -/
def waitsFor (tag : Nat) (a : Ask) : Bool := a.tag == tag && a.data.isNone
def State.askingCard (s : State) (tag : Nat) : Option Card := s.allCards.find? (fun k => k.asks.any (waitsFor tag))
def State.askingPacket (s : State) (tag : Nat) : Option (Nat × Packet) :=
  s.funcs.findSome? (fun f => (f.2.allPackets.find? (fun p => p.ask.any (waitsFor tag))).map (fun p => (f.1, p)))

/-- The bytes of a card's or a packet's read arrive. -/
def State.askBytes (s : State) (tag : Nat) (bytes : List Byte) : State :=
  let fill (a : Ask) : Ask := if waitsFor tag a ∧ bytes.length = a.width then { a with data := some bytes } else a
  match s.askingCard tag, s.askingPacket tag with
  | some k, _ => s.onCardCopies k.id (fun k => { k with asks := k.asks.map fill })
  | none, some (fn, p) => s.onPacket fn p.id (fun p => { p with ask := p.ask.map fill })
  | none, none => s.lateAnswer tag

/-- Such a read ends with a fault: the card is abandoned, or the queue stops (R246, R334). -/
def State.askFault (s : State) (tag : Nat) (c : Cause) : State :=
  match s.askingCard tag, s.askingPacket tag with
  | some k, _ => s.abandonCard k.id c (64 * ((k.asks.find? (waitsFor tag)).map (·.key)).getD 0)
  | none, some (fn, p) => (s.packetError fn p.id (lowest [packetCode c, s.accessCode fn p])).onPacket fn p.id (fun p => { p with ask := none })
  | none, none => s.lateAnswer tag

/-- A load is gone. -/
def State.dropLoad (s : State) (id : Nat) : State := { s with loads := s.loads.filter (fun (l : Load) => l.id != id) }

/-- The fetch of another device's code ends with a fault: the threads that wait for it take it (R334). -/
def State.codeFault (s : State) (l : Load) (c : Cause) : State :=
  let ids := (((s.crew l.who.crew).map (·.threadList)).getD []).filterMap (fun t =>
    if t.2.pc == l.pc && stuck t.2.status then some t.1 else none)
  ({ s with cur := ⟨l.who.crew, ids, l.pc, successor l.pc 4, s.nextId⟩ } : State).groupFault c 0 l.pc

/-- A peer read ends with a fault, deferred; SKIP goes on at the instruction's successor (R334, R390). -/
def State.peerLoadFault (s : State) (l : Load) (c : Cause) : State :=
  match s.thread l.who with
  | none => s.dropLoad l.id
  | some t =>
    match t.status with
    | .waita va _ width _ d _ next =>
      if l.cmp.isSome then
        ((s.dropLoad l.id).onThread l.who (·.mark (waitaRegs width d) false)).syncFault l.who t c (BitVec.ofNat 64 va) next (waitaRegs width d)
      else s.loadFault l c
    | _ =>
      if l.code then (s.dropLoad l.id).codeFault l c
      else if l.sync then (s.dropLoad l.id).syncFault l.who t c (BitVec.ofNat 64 l.va) l.next []
      else s.loadFault l c

/-- Bytes of a peer read arrive (R331). -/
def State.peerBytes (s : State) (l : Load) (bytes : List Byte) : State :=
  match s.thread l.who, l.cmp with
  | some t, some _ =>
    match t.status with
    | .waita va pa width b d acq next => (s.dropLoad l.id).waitaWord l.who va pa width b d acq next bytes
    | _ => s.dropLoad l.id
  | _, _ => { s with loads := s.loads.map (fun (o : Load) => if o.id = l.id then { o with data := some bytes } else o) }

/-- PEER_READRSP (R331, R334). -/
def execPeerReadrsp (tag : Nat) (data : List Byte) (poison : Bool) (s : State) : Result :=
  .next (match s.peerLoad tag with
    | none => if poison then s.askFault tag .poison else s.askBytes tag data
    | some l =>
      if poison then s.peerLoadFault l .poison
      else if data.length = l.width * l.count then s.peerBytes l data
      else s)

/-- A peer has acknowledged a write (R332). -/
def State.peerAcked (s : State) (w : Write) : State :=
  let s1 := (s.dropWrite w.id).uncount w
  match w.by_ with
  | .completion fn nest uid => s1.onShare fn (·.freeFinished nest uid)
  | _ => s1

/-- PEER_WRITEACK (R332). -/
def execPeerWriteack (tag : Nat) (s : State) : Result :=
  .next (match s.peerStore tag with
    | some w => if w.atom.isNone then (s.peerStores tag).foldl (fun s w => s.peerAcked w) s else s
    | none => s.lateAnswer tag)

/-- PEER_ATOMRSP (R332): the old value is the destination's. -/
def execPeerAtomrsp (tag : Nat) (old : DWord) (s : State) : Result :=
  .next (match s.peerStore tag with
    | none => s.lateAnswer tag
    | some w =>
      if w.atom.isNone then s
      else
        let s1 := s.peerAcked w
        { s1 with loads := s1.loads.map (fun (l : Load) =>
            if l.id = w.id ∧ l.atomic then { l with data := some (leBytes w.bytes.length old.toNat) } else l) })

/-- A request ends with a fault (R334). -/
def State.peerEnds (s : State) (tag : Nat) (c : Cause) : State :=
  match s.peerStore tag, s.peerLoad tag with
  | some w, _ =>
    match w.atom.bind (·.d) with
    | some _ => ((s.dropWrite w.id).uncount w).atomAnswer w.id c
    | none => (s.peerStores tag).foldl (fun s w => s.writeError w c) s
  | none, some l => s.peerLoadFault l c
  | none, none => s.askFault tag c

/-- PEER_FAULT (R334): whatever cause the target gives, the initiator takes PEERFAULT. -/
def execPeerFault (tag : Nat) (cause : Cause) (s : State) : Result :=
  .next (match cause with
    | _ => s.peerEnds tag .peerFault)

/-- A request with a tag was sent PEERTO ago (R335). -/
def State.peerOverdue (s : State) (tag : Nat) : Bool :=
  s.posted.contains tag &&
  match s.peerStore tag, s.peerLoad tag with
  | some w, _ => decide (w.sent + s.peerLimit ≤ s.fab)
  | none, some l => decide (l.sent + s.peerLimit ≤ s.fab)
  | none, none =>
    let late (a : Ask) : Bool := waitsFor tag a && decide (a.sent + s.peerLimit ≤ s.fab)
    s.strays.any (fun x => x.tag == some tag && decide (x.sent + s.peerLimit ≤ s.fab)) ||
    s.allCards.any (fun k => k.asks.any late) || s.funcs.any (fun f => f.2.allPackets.any (fun p => p.ask.any late))

/-- PEER_TIMEOUT (R335). -/
def execPeerTimeout (tag : Nat) (s : State) : Result :=
  .next (
    if s.peerOverdue tag then
      let s1 := s.peerEnds tag .peerTimeout
      { s1 with expired := s1.expired ++ [(tag, s.fab)] }
    else s)

end Sys2Proof.Machine
end

