-- ==== Sys2Proof/Machine/Firmware.lean ====
section
/-!
DEFINITION. The control complexes: thermal response (R13), the state table and failover (R361 to R363), live update
(R364 to R366), attestation (R367 to R369), start-up (R370), test ports (R371), and the loss of power.
-/
namespace Sys2Proof.Machine
open Sys2Proof

/-! ## Thermal response (R13) -/

/-- THERMAL_WARN (R13). -/
def execThermalWarn (die : Nat) (s : State) : Result := .next (if 7 ≤ die then s else s.logs (.thermalWarn die))

/-- THERMAL_HALT (R13): save kind 5 for every crew, THALT, vector 5. -/
def execThermalHalt (s : State) : Result :=
  .next (if s.thalt then s else ((s.saveAll 5 (fun _ => true)).setField .devstat 26 1 1).msi 64 5)

/-- THERMAL_RESUME (R13). -/
def execThermalResume (s : State) : Result :=
  .next (if s.thalt then (s.setField .devstat 26 1 0).msi 64 5 else s)

/-! ## Reset and power (R13, R270, R325, R366, R370) -/

/-- What a reset leaves (R270, R325, R363, R366): the image in flash, the fuses, lost stacks, failed clusters, retired
lanes, a failed complex, and memory. The timestamp goes on (log 80); the cores leave reset now (Table 8-7). -/
def State.restarted (s : State) (flash : Option Image) : State :=
  let s0 : State := { State.reset with
    agenda := s.agenda, fresh := s.fresh, nextId := s.nextId, fab := s.fab, coreReset := s.fab
    home := s.home, msc := s.msc, parity := s.parity, poison := s.poison
    checks := s.checks, parityBad := s.parityBad, owners := s.owners, veil := s.veil
    lost := s.lost, lwriter := s.lwriter, clean := s.clean, accClean := s.accClean
    clusters := ((List.range Config.clusters).filter (fun k => (s.cluster k).failed)).foldl
      (fun m k => m.set k { (default : ClusterSt) with failed := true }) []
    ports := (List.range Sys2Proof.Machine.ports).foldl (fun m n => m.set n { (default : Port) with retired := (s.port n).retired }) []
    cc := { (default : Firmware) with
      flash := flash, minSvn := s.cc.minSvn, debugFuse := s.cc.debugFuse, fusedKey := s.cc.fusedKey, failed := s.cc.failed } }
  s0.setReg .memstat (if s.lost.isEmpty then Reg.memstat.reset 1 else s.reg .memstat)

/-- Memory outside the package (Table 11-4). -/
def outside (k : Nat) : Bool := regionOf k != .hbm

/-- Power goes (R13, R366): memory of the package is lost, and a COMMIT under way leaves no image. -/
def State.losePower (s : State) : State :=
  let s1 := s.restarted (if s.cc.op = 3 then none else s.cc.flash)
  { s1 with
    powered := false, home := s1.home.keep outside, msc := [], parity := []
    poison := s1.poison.keep (fun k => outside (64 * k)), checks := s1.checks.keep (fun k => outside (64 * k)), parityBad := []
    owners := [], lwriter := []
    clean := [], accClean := [], veil := s1.veil.filter (fun v => outside v.lo) }

/-- THERMAL_POWER_OFF (R13). -/
def execThermalPowerOff (s : State) : Result := .next s.losePower

/-- POWER_LOSS (R366). -/
def execPowerLoss (s : State) : Result := .next s.losePower

/-- PHASE of DEVSTAT. -/
def State.phase (s : State) : Nat := s.field .devstat 16 4
def State.setPhase (s : State) (n : Nat) : State := s.setField .devstat 16 4 n

/-- POWER_ON_RESET (R366, R370): start-up begins with calibration. What a device reset leaves in flash under a COMMIT is
open: the old image, the new one, or none. -/
def execPowerOnReset (s : State) : Result :=
  .next (
    let (k, s1) := if s.cc.op = 3 then s.choose 3 else (0, s)
    let new := if s.field .devstat 29 1 = 1 then s.cc.img1 else s.cc.img0
    (s1.restarted (match k with | 0 => s1.cc.flash | 1 => new | _ => none)).setPhase 1)

/-- An image is accepted (R361): its signature verifies against the fused key, its body matches its digest, and its SVN
is at least the fused minimum. -/
def accepts (c : Firmware) (i : Image) : Bool :=
  i.signer == some c.fusedKey && i.body == i.digest && decide (c.minSvn.toNat ≤ i.svn.toNat)

/-- Start-up stops (R370). -/
def State.startFails (s : State) (code : Nat) : State := ((s.setField .devstat 8 8 code).setField .devstat 30 1 1).setPhase 4

/-- The complexes load the flash image; CC0 is active, CC1 stands by, and a complex that has failed takes no part (R361,
R363). The version of the state table is one that the image reads (R364). -/
def State.loadImages (s : State) (i : Image) : State :=
  let (k, s1) := s.choose (i.stMax - i.stMin + 1)
  let s2 : State := { s1 with cc := { s1.cc with
    img0 := if s1.cc.failed = some false then none else some i, img1 := if s1.cc.failed = some true then none else some i
    table := { (default : StateTable) with version := i.stMin + k } } }
  (((s2.setField .devstat 28 1 (if s1.cc.failed.isSome then 0 else 1)).setField .devstat 29 1
    (if s1.cc.failed = some false then 1 else 0)).setField .fwstat 32 32 i.version.toNat).setField .fwstat 24 8 (i.stMin + k)

/-- DOMCFG from the straps (R324). -/
def State.readStraps (s : State) (straps : BitVec 9) : State :=
  if straps.toNat < 320 then (s.setField .domcfg 0 9 straps.toNat).setField .domcfg 31 1 1 else s

/-- CALIBRATION_DONE (R324, R361, R370): PLLs, the image, the straps, the stacks, in that order. -/
def execCalibrationDone (res : Calibration) (s : State) : Result :=
  .next (
    if s.phase ≠ 1 then s
    else if !res.pll then s.startFails 1
    else match s.cc.flash.filter (accepts s.cc) with
      | none => s.startFails 3
      | some i =>
        let s1 := (s.loadImages i).readStraps res.straps
        if !res.hbm then s1.startFails 2 else (s1.setPhase 2).setField .lzctl 16 1 1)

/-- Frames that firmware keeps: from 176 to 256 at the top of HBM (R196). -/
def State.keepFrames (s : State) (count : Nat) : State :=
  let n := max 176 (min 256 count)
  ({ s with owners := [] }.setOwners (Config.hbmFrames - n) n 0).setReg .fofw
    (BitVec.ofNat 64 (2 ^ 24 * n + (Config.hbmFrames - n)))

/-- Memory as initialisation leaves it: zeros with consistent parity (R370). -/
def State.zeroMemory (s : State) : State :=
  { s with
    home := s.home.keep outside, msc := [], parity := [], deltas := [], veil := s.veil.filter (fun v => outside v.lo)
    poison := s.poison.keep (fun k => outside (64 * k)), checks := s.checks.keep (fun k => outside (64 * k)), parityBad := []
    parityChecks := [] }

/-- Registers that a state table carries: VFPART, VFSAVE and PSLICE (R362). -/
def tableKey (k : Nat) : Bool :=
  (decide ((Reg.vfpart 0).key ≤ k) && decide (k < (Reg.cal 0).key)) ||
    (decide ((Reg.pkitty 0).key ≤ k) && decide (k < (Reg.vbase 0).key) && decide (64 ≤ k % 256))

/-- The active complex commits the state table (R362). -/
def State.commitTable (s : State) : State :=
  { s with cc := { s.cc with table :=
    { s.cc.table with
      regs := s.regs.keep tableKey, queues := s.funcs.map (fun f => (f.1, f.2.queues)), routes := s.routes, links := s.links, logged := s.log.length } } }

/-- As PHASE 3 is reached the registers of the functions hold their reset values, and so do the front ends behind them: what was
written before READY is gone (R370). -/
def State.hostReset (s : State) : State := { s with regs := s.regs.keep (fun k => decide (4 * 2 ^ 32 ≤ k)), funcs := [] }

/-- MEMORY_INIT_DONE (R196, R270, R370): `failed` are the stacks found failed, `count` the frames that firmware keeps. -/
def execMemoryInitDone (failed : BitVec 12) (count : Nat) (s : State) : Result :=
  .next (
    if s.phase ≠ 2 then s
    else
      let s1 := ((List.range 12).filter (fun k => failed.getLsbD k)).foldl State.loseStack s
      if 2 ≤ s1.lost.length then s1.startFails 4
      else (((s1.zeroMemory.hostReset.keepFrames count).setField .lzctl 16 1 0).setPhase 3 |>.setField .devstat 31 1 1).commitTable)

/-! ## Roles, packet boundaries and the state table (R361 to R363) -/

/-- CC1 is active; the standby complex is healthy (Table 20-1). -/
def State.cc1 (s : State) : Bool := s.field .devstat 29 1 == 1
def State.standby (s : State) : Bool := s.field .devstat 28 1 == 1

/-- The image of the active complex, and of the other one. -/
def State.running (s : State) : Option Image := if s.cc1 then s.cc.img1 else s.cc.img0
def State.other (s : State) : Option Image := if s.cc1 then s.cc.img0 else s.cc.img1

/-- Sets the image of the complex that is not active. -/
def State.setOther (s : State) (i : Option Image) : State :=
  { s with cc := if s.cc1 then { s.cc with img0 := i } else { s.cc with img1 := i } }

/-- A packet rests at a packet boundary: it has not begun, or is a WAIT, or a COPY paused as at a slice end (R362). -/
def Packet.atBoundary (p : Packet) : Bool :=
  !p.begun || p.type == 5 || (p.type == 3 && (p.get 0x18 8 + p.copied) % 4096 == 0 && decide (p.copied < p.size))

/-- A packet boundary: no front end holds a packet that has begun and not completed (R362). -/
def State.packetBoundary (s : State) : Bool :=
  s.funcs.all (fun f => (f.2.leftovers ++ f.2.queues.flatMap (fun e => (e.2.map (·.packets)).getD [])).all (·.atBoundary))

/-- STATE_TABLE_COMMIT (R362). -/
def execStateTableCommit (s : State) : Result :=
  .next (if s.ready && s.packetBoundary then s.commitTable else s)

/-- Roles change: ACTIVE, VERSION and the attestation session (R363, R365, R369). -/
def State.swapRoles (s : State) : State :=
  let s1 := s.setField .devstat 29 1 (if s.cc1 then 0 else 1)
  let s2 : State := { s1 with cc := { s1.cc with
    spdm := [0, 1].map (fun p => (p, { (default : Spdm) with resynch := true, owed := true })) } }
  match s2.running with
  | some i => s2.setField .fwstat 32 32 i.version.toNat
  | none => s2

/-- The complex that takes over works from the committed table (R363). The front ends run on with the queues they hold
(log 103). -/
def State.fromTable (s : State) : State :=
  let t := s.cc.table
  { s with
    regs := t.regs.foldl (fun m e => m.set e.1 e.2) (s.regs.keep (fun k => !tableKey k))
    routes := t.routes, links := t.links, log := s.log.take t.logged }

/-- World switches and revocations under way begin again (R363). -/
def State.restartWork (s : State) : State :=
  let s1 := (List.range 16).foldl (fun s p =>
    match (s.part p).switching, (s.part p).running with
    | true, some fn => s.beginSwitch p fn (s.part p).slice (s.part p).incoming
    | _, _ => s) s
  ((List.range Config.clusters).filter (fun k => (s1.cluster k).revoking)).foldl
    (fun s k => (s.onCluster k (fun c => { c with revoking := false })).revoke k) s1

/-- CC_FAILOVER (R363): a standby complex that holds no image takes that of the flash; the failed one stays out. -/
def execCcFailover (s : State) : Result :=
  .next (
    if !s.standby then s
    else
      let s0 := if s.other.isNone then s.setOther (s.cc.flash.filter (accepts s.cc)) else s
      let s1 := (s0.swapRoles.setField .devstat 28 1 0).fromTable.restartWork
      ({ s1 with cc := { s1.cc with staged := false, taken := s1.running != s1.cc.flash, failed := some s.cc1 } } : State).msi 64 4)

/-! ## Live update (R364 to R366) -/

/-- FWSTAT.BUSY and RESULT. -/
def State.fwBusy (s : State) : Bool := s.field .fwstat 0 1 == 1
def State.fwResult (s : State) (r : Nat) : State := s.setField .fwstat 16 8 r

/-- A command runs. -/
def State.fwStart (s : State) (op : Nat) (cand : Option Image) : State :=
  (({ s with cc := { s.cc with op := op, cand := cand } } : State).setField .fwstat 0 1 1).fwResult 1

/-- HOPEND: a staged image is accepted and not yet committed (Table 20-1). -/
def State.showPending (s : State) : State := s.setField .devstat 27 1 (if s.cc.staged || s.cc.taken then 1 else 0)

/-- The frames of an image to stage are the hypervisor's (Table 20-1). -/
def State.stageOwned (s : State) (size : Nat) : Bool :=
  let base := s.field .fwstage 12 40 * 4096
  decide (base + size * 4096 ≤ 0xB000000000) &&
    (List.range ((base % 65536 + size * 4096 + 65535) / 65536)).all (fun i => s.frameOwner (base / 65536 + i) == 1)

/-- The RESULT with which a command is refused at once, 0 where it runs (R364, Table 20-2). -/
def State.fwRefusal (s : State) (op size : Nat) : Nat :=
  if !s.ready then 5
  else if s.fwBusy then 1
  else match op with
    | 1 => if size < 2 ∨ !s.stageOwned size then 7 else if !s.standby then 6 else 0
    | 2 => if !s.cc.staged then 4 else if !s.standby then 6 else 0
    | 3 => if !s.cc.staged ∧ !s.cc.taken then 4 else 0
    | 4 => if !s.cc.staged then 4 else 0
    | _ => 7

/-- The image that lies at FWSTAGE.BASE; none where a sector of it is poisoned or cannot be formed (R273, R364). -/
def State.stagedImage (s : State) (size : Nat) : Option Image :=
  let base := s.field .fwstage 12 40 * 4096
  if s.runBad base (size * 4096) then none else some (Config.imageOf (s.bytesAt base (size * 4096)))

/-- A write to FWCTL (R364). A STAGE that runs reads its image. -/
def State.writeFwctl (s : State) (v : Word) : State :=
  let op := v.toNat / 2 ^ 28
  let size := v.toNat % 2 ^ 14
  let r := s.fwRefusal op size
  if r ≠ 0 then s.fwResult r else s.fwStart op (if op = 1 then s.stagedImage size else none)

/-- FWCTL_STAGE (R364): `image` is the one that lies at FWSTAGE.BASE, where its bytes can be read. -/
def execFwctlStage (value : Word) (image : Image) (s : State) : Result :=
  .next (
    let there := s.stagedImage (value.toNat % 2 ^ 14)
    if value.toNat / 2 ^ 28 = 1 ∧ (there = some image ∨ there = none) then s.writeFwctl value else s)

/-- FWCTL_TAKEOVER (R365). -/
def execFwctlTakeover (s : State) : Result := .next (s.writeFwctl 0x20000000)

/-- FWCTL_COMMIT (R366). -/
def execFwctlCommit (s : State) : Result := .next (s.writeFwctl 0x30000000)

/-- FWCTL_DISCARD (R364). -/
def execFwctlDiscard (s : State) : Result := .next (s.writeFwctl 0x40000000)

/-- FWCTL_INVALID (R364): OP 0 and 5 to 15. -/
def execFwctlInvalid (value : Word) (s : State) : Result :=
  .next (
    let op := value.toNat / 2 ^ 28
    if op = 0 ∨ 5 ≤ op then s.writeFwctl value else s)

/-- The running command ends with a RESULT. -/
def State.fwEnd (s : State) (r : Nat) : State :=
  ((({ s with cc := { s.cc with op := 0, cand := none } } : State).setField .fwstat 0 1 0).fwResult r).showPending

/-- What the active complex lets end before a hand-over is over (R365): world switches, revocations, teardowns, a thermal
halt. -/
def State.mayHandOver (s : State) : Bool :=
  s.packetBoundary && !s.parts.any (fun p => p.2.switching) && !s.clusters.any (fun k => k.2.revoking) &&
    (List.range 65).all (fun f => s.field (.fstat f) 0 1 == 0) && !s.thalt

/-- The table's version is one that an image reads. -/
def Image.reads (i : Image) (v : Nat) : Bool := decide (i.stMin ≤ v) && decide (v ≤ i.stMax)

/-- STAGE ends: an image that is accepted waits in the standby complex (R364). -/
def State.endStage (s : State) : State :=
  if !s.standby then s.fwEnd 6
  else match s.cc.cand.filter (accepts s.cc) with
    | some i => (({ s with cc := { s.cc with staged := true } } : State).setOther (some i)).fwEnd 0
    | none => s.fwEnd 2

/-- TAKEOVER ends (R365). -/
def State.endTakeover (s : State) : State :=
  if !s.standby || !s.cc.staged then s.fwEnd (if s.standby then 4 else 6)
  else if !s.mayHandOver then s
  else match s.other with
    | none => s.fwEnd 4
    | some i =>
      if Image.reads i s.cc.table.version then
        let s1 := s.commitTable.swapRoles
        ({ s1 with cc := { s1.cc with staged := false, taken := true } } : State).fwEnd 0
      else s.commitTable.fwEnd 3

/-- COMMIT ends (R366): no copy of the old image remains; what the standby complex then holds is open. -/
def State.endCommit (s : State) : State :=
  let (k, s1) := s.choose 2
  let s2 : State := { s1 with cc := { s1.cc with flash := s1.running, staged := false, taken := false } }
  (s2.setOther (if k = 0 then s2.running else none)).fwEnd 0

/-- DISCARD ends (R364). -/
def State.endDiscard (s : State) : State :=
  (({ s with cc := { s.cc with staged := false } } : State).setOther none).fwEnd 0

/-- FW_COMMAND_DONE (R364 to R366). -/
def execFwCommandDone (s : State) : Result :=
  .next (
    if !s.fwBusy then s
    else match s.cc.op with
      | 1 => s.endStage
      | 2 => s.endTakeover
      | 3 => s.endCommit
      | _ => s.endDiscard)

/-! ## Attestation (R367 to R369) -/

/-- An answer leaves the mailbox. -/
def State.attest (s : State) (a : SpdmAnswer) : State := { s with cc := { s.cc with answers := s.cc.answers ++ [a] } }

/-- The complex that answers: the active one, or for a late answer the one that was active before (R369). -/
def State.answering (s : State) (late : Bool) : Bool := s.cc1 != late

/-- The image of a complex. -/
def State.imageOf (s : State) (cc1 : Bool) : Option Image := if cc1 then s.cc.img1 else s.cc.img0

/-- A signature of the answering complex over its next answer. -/
def State.sign (s : State) (cc1 : Bool) : Nat := Config.signature (if cc1 then 1 else 0) s.cc.answers.length

/-- Changes the conversation of a port. -/
def State.onSpdm (s : State) (port : Nat) (f : Spdm → Spdm) : State :=
  { s with cc := { s.cc with spdm := s.cc.spdm.upd port f } }

/-- The complex that has accepted a request before the last change of roles answers it, once for each port (R369). -/
def State.spdmLate (s : State) (port : Nat) (k : State → State) : State :=
  if (s.cc.spdm.get port).owed then k (s.onSpdm port (fun c => { c with owed := false })) else s

/-- A request other than GET_VERSION is answered (R367, R369): by the complex of ports 0 and 1 that has accepted it;
after a change of roles with RequestResynch, until its requester starts again. -/
def State.spdm (s : State) (req : SpdmRequest) (k : State → State) : State :=
  if 2 ≤ req.port ∨ s.running.isNone then s
  else if req.late then s.spdmLate req.port k
  else if (s.cc.spdm.get req.port).resynch then s.attest .resynch
  else k s

/-- GET_VERSION (R367, R369). -/
def execGetVersion (req : SpdmRequest) (s : State) : Result :=
  .next (
    if 2 ≤ req.port ∨ s.running.isNone then s
    else if req.late then s.spdmLate req.port (·.attest .version)
    else (s.onSpdm req.port (fun c => { c with resynch := false, sm2 := false, sm3 := false })).attest .version)

/-- GET_CAPABILITIES (R367). -/
def execGetCapabilities (req : SpdmRequest) (s : State) : Result := .next (s.spdm req (·.attest .capabilities))

/-- NEGOTIATE_ALGORITHMS (R367): SM2 for signatures, SM3 for hashes. -/
def execNegotiateAlgorithms (req : SpdmRequest) (s : State) : Result :=
  .next (s.spdm req (fun s =>
    (if req.late then s else s.onSpdm req.port (fun c => { c with sm2 := req.sm2, sm3 := req.sm3 })).attest
      (.algorithms req.sm2 req.sm3)))

/-- A request about a slot: there is one, slot 0 (R367). -/
def State.slot0 (s : State) (req : SpdmRequest) (a : SpdmAnswer) : State :=
  s.attest (if req.slot = 0 then a else .unsupported)

/-- GET_DIGESTS (R367). -/
def execGetDigests (req : SpdmRequest) (s : State) : Result :=
  .next (s.spdm req (fun s => s.slot0 req (.digests Config.certificateDigest)))

/-- GET_CERTIFICATE (R367). -/
def execGetCertificate (req : SpdmRequest) (s : State) : Result :=
  .next (s.spdm req (fun s => s.slot0 req (.cert Config.certificate)))

/-- Blocks 2 to 4 of Table 20-3 as the complex that answers reports them: its own image, the roles as they stand now, and the
other complex's image (R368, R369). -/
def State.blocks (s : State) (late : Bool) (i : Image) : ImageBlocks :=
  { version := i.version, svn := i.svn.toNat, digest := i.digest, hopend := s.field .devstat 27 1 == 1, active := s.cc1
    role := !late, standby := (s.imageOf (!s.answering late)).map (fun o => (o.version, o.digest)) }

/-- Answers with the blocks of the complex that answers. -/
def State.withBlocksOf (s : State) (req : SpdmRequest) (mk : State → ImageBlocks → Nat → SpdmAnswer) : State :=
  s.spdm req (fun s =>
    match s.imageOf (s.answering req.late) with
    | some i => s.slot0 req (mk s (s.blocks req.late i) (s.sign (s.answering req.late)))
    | none => s)

/-- CHALLENGE (R367, R369): the answer holds blocks 2 to 4. -/
def execChallenge (req : SpdmRequest) (s : State) : Result :=
  .next (s.withBlocksOf req (fun _ b sig => .challengeAuth req.nonce b sig))

/-- GET_MEASUREMENTS (R368, R369). -/
def execGetMeasurements (req : SpdmRequest) (s : State) : Result :=
  .next (s.withBlocksOf req (fun s b sig =>
    .measurements Config.bootRomDigest b s.cc.minSvn.toNat s.cc.table.version s.cc.debugFuse sig))

/-- UNSUPPORTED_REQUEST (R367). -/
def execUnsupportedRequest (req : SpdmRequest) (s : State) : Result := .next (s.spdm req (·.attest .unsupported))

/-! ## Test ports (R371) -/

/-- A test-port instruction is performed. -/
def State.tapOk (s : State) (c : JtagCode) : Bool :=
  match c with
  | .boundaryScan => true
  | .idcode => true
  | .other _ => s.cc.debugFuse

/-- JTAG_INSTRUCTION (R371): what a performed one does to its pins and cores is not stated. -/
def execJtagInstruction (code : JtagCode) (s : State) : Result :=
  .next { s with cc := { s.cc with taps := s.cc.taps ++ [(code, s.tapOk code)] } }

end Sys2Proof.Machine
end

