-- ==== Sys2Proof/Machine/Bar.lean ====
section
/-!
DEFINITION. The BARs as software writes and reads them (R4, R37, R79, R353, R364, R370).
-/
namespace Sys2Proof.Machine
open Sys2Proof

/-- The value that a write of `size` bytes at an offset gives a register: all of it, or one half of an 8-byte register,
whose other half keeps its RW fields. Registers that act as commands take whole writes. -/
def State.written (s : State) (r : Reg) (off size : Nat) (v : DWord) : Option DWord :=
  let keep := (s.reg r &&& r.rw).toNat
  if size = r.bytes ∧ off = r.place.2.2 then some (BitVec.ofNat 64 (v.toNat % 2 ^ (8 * size)))
  else if size = 4 ∧ r.bytes = 8 then
    match r with
    | .tlbi => none
    | .focmd => none
    | .crewcmd _ => none
    | _ =>
      if off = r.place.2.2 then some (BitVec.ofNat 64 (keep / 2 ^ 32 * 2 ^ 32 + v.toNat % 2 ^ 32))
      else if off = r.place.2.2 + 4 then some (BitVec.ofNat 64 (v.toNat % 2 ^ 32 * 2 ^ 32 + keep % 2 ^ 32))
      else none
  else none

/-- A write to the vector control of an MSI-X table entry: a pending vector that is no longer masked is sent (log 98). -/
def State.writeMsiCtl (s : State) (fn vector : Nat) (v : DWord) : State :=
  let s1 := s.mergeReg (.msiCtl fn vector) v
  if s1.field (.msiCtl fn vector) 0 1 = 0 ∧ s1.field (.msiPba fn) vector 1 = 1 then
    (s1.setField (.msiPba fn) vector 1 0).sendMsi fn vector
  else s1

/-- A write to a register: the behaviour that its chapter gives it, else its fields by their access codes (R4). -/
def State.writeReg (s : State) (r : Reg) (v : DWord) : State :=
  match r with
  | .notify f q => s.writeNotify f (8 * q) 8 v
  | .qcmd f => s.writeQcmd f v.toNat
  | .frbase f => s.writeFrbase f v
  | .frctl f => s.writeFrctl f (v.setWidth 32)
  | .crewcmd f => s.crewcmd f v
  | .msiCtl f k => s.writeMsiCtl f k v
  | .pcfg => s.writePcfg (v.setWidth 32)
  | .vfpart f => s.writeVfpart f (v.setWidth 32)
  | .cal n => s.writeCal n (v.setWidth 32)
  | .pkitty p => s.writePkitty p v
  | .prevoke p => if s.parts' ≤ p then s else s.writePrevoke p v.toNat
  | .vbase n => s.writeWindow n r v
  | .vsize n => s.writeWindow n r v
  | .pbase n => s.writeWindow n r v
  | .sbase n => s.writeWindow n r v
  | .wctl n => s.writeWctl n (v.setWidth 32)
  | .fsatp _ => s.writeAtp r v
  | .fhgatp _ => s.writeAtp r v
  | .fpriv f => s.writeFpriv f v
  | .fframe f => s.writeFframe f v
  | .tlbi => s.writeTlbi v
  | .memctl => s.writeMemctl v
  | .accctl => s.writeAccctl v
  | .hotbase f => s.writeHotbase f v
  | .hotctl f => s.writeHotctl f v
  | .lzctl => s.writeLzctl v
  | .wport n => s.writeWport n v
  | .fwctl => s.writeFwctl (v.setWidth 32)
  | .focmd => s.writeFocmd v
  | _ => s.mergeReg r v

/-- The register that a write of 4 or 8 bytes reaches: at its offset, or its upper half. -/
def regReached (bar fn off : Nat) : Option Reg :=
  match Reg.at bar fn off with
  | some r => some r
  | none => if off % 8 = 4 then (Reg.at bar fn (off - 4)).filter (fun r => r.bytes == 8) else none

/-- A write to a BAR (R4, R37, R370): before READY only FWCTL of BAR 4 answers; what BAR 0 and BAR 2 take then is gone as start-up ends
(log 129). -/
def State.writeBar (s : State) (bar fn off size : Nat) (v : DWord) : State :=
  if 64 < fn ∨ !sizeOk size then s
  else if bar = 0 ∧ off < 0x800 then s.writeNotify fn off size v
  else match regReached bar fn off with
    | none => s
    | some r =>
      match s.written r off size v with
      | none => s
      | some w => if bar ≠ 4 ∨ s.ready ∨ r = .fwctl then s.writeReg r w else s

/-- REGISTER_WRITE (R4). -/
def execRegisterWrite (bar fn off size : Nat) (value : DWord) (s : State) : Result :=
  .next (s.writeBar bar fn off size value)

/-! ## What registers read as -/

/-- Kitty clusters of a partition that are lent, as bits (Table 5-3). -/
def State.lentBits (s : State) (p : Nat) : Nat :=
  ((List.range (perPart s.parts').2.2).filter (fun b => (s.cluster (s.kittyBase p + b)).lent.isSome)).foldl (fun n b => n + 2 ^ b) 0

/-- Partitions that lend to a partition, as bits (Table 5-3). -/
def State.borrowedBits (s : State) (p : Nat) : Nat :=
  (((s.borrowed p).map s.clusterPart).dedup).foldl (fun n q => n + 2 ^ q) 0

/-- What a register reads as (R4): fields that show other state are formed here. FSTAT.PART of the physical function,
which no register assigns to a partition, reads 0 (log 99). -/
def State.readReg (s : State) (r : Reg) : DWord :=
  match r with
  | .notify _ _ => 0
  | .crewcmd _ => 0
  | .prevoke _ => 0
  | .fwctl => 0
  | .tlbi => s.reg .tlbi &&& bits 63 63
  | .focmd => s.reg .focmd &&& bits 63 60
  | .qcmd f => s.reg (.qcmd f) ||| (if s.qcmdBusy f then bits 31 31 else 0)
  | .fstat f => s.reg (.fstat f) ||| BitVec.ofNat 64 (2 ^ 16 * s.partOf f +
      (if (s.part (s.partOf f)).running = some f then 2 else 0))
  | .pkitty p => s.reg (.pkitty p) ||| BitVec.ofNat 64 (2 ^ 7 * (s.kitty p).length + (s.guaranteed p).length)
  | .plend p => BitVec.ofNat 64 (2 ^ 32 * (s.borrowed p).length + 2 ^ 16 * s.borrowedBits p + s.lentBits p)
  | _ => s.reg r

/-- What a read of `size` bytes of a BAR returns: a register whole, or a half of one of 8 bytes; zero where no register
lies, at an access of another size, and of registers that take whole writes only (R4, R37, R353). -/
def State.readBar (s : State) (bar fn off size : Nat) : DWord :=
  if 64 < fn ∨ !sizeOk size then 0
  else match regReached bar fn off with
    | none => 0
    | some r =>
      if size = r.bytes ∧ off = r.place.2.2 then s.readReg r
      else if size = 4 ∧ r.bytes = 8 then
        if off = r.place.2.2 then BitVec.ofNat 64 ((s.readReg r).toNat % 2 ^ 32) else BitVec.ofNat 64 ((s.readReg r).toNat / 2 ^ 32)
      else 0

end Sys2Proof.Machine
end

