-- ==== Sys2Proof/Machine/Fence.lean ====
section
/-!
DEFINITION. FENCE, CINV and CWB (R292 to R295).
-/
namespace Sys2Proof.Machine
open Sys2Proof

/-- The acquire half of a fence: it first waits for every earlier read of the thread (R293). -/
def State.fenceAcq (s : State) (r : ThreadRef) (sc : Scope) : State :=
  if (s.loadsOf r).isEmpty then (s.acquire r sc).proceed r else s.stay r

/-- FENCE (R293): OR 1 `.acq`, 2 `.rel`, 3 `.ar`. -/
def execFence (f : Fields) (s : State) : Result :=
  .next (s.issue (.fence f) f.g (fun s r t =>
    s.outsideTx r t (fun s =>
      if f.rm = 1 then s.fenceAcq r f.sc
      else if f.rm = 2 then s.release r (fun s => s.proceed r)
      else s.release r (fun s => s.fenceAcq r f.sc))))

/-- CINV (R294): it needs no translation and never faults. -/
def execCinv (f : Fields) (s : State) : Result :=
  .next (s.issue (.cinv f) f.g (fun s r t =>
    match s.crew r.crew with
    | none => s
    | some c =>
      let va := (t.globalAddr f).toNat
      let s1 :=
        if f.fn = 1 then s.dropL1 (fun (l : L1Line) => l.core == c.core)
        else if canonical va then s.dropL1 (fun (l : L1Line) =>
          l.core == c.core && l.vline == va / 128 && l.vmid == s.vmid c.fn && l.asid == s.asid c.fn)
        else s
      s1.proceed r))

/-- A delta of a store of the thread, or of its cards, is still to be applied (R295, R300). -/
def State.deltaPending (s : State) (r : ThreadRef) : Bool :=
  s.deltas.any (fun (d : Delta) => match d.by_ with
    | .thread q => q == r
    | .card q _ => q == r
    | _ => false) ||
  s.writes.any (fun (w : Write) => w.lazy && w.stage != .applied && match w.by_ with
    | .thread q => q == r
    | .card q _ => q == r
    | _ => false)

/-- The line of a local address has data that are not yet applied below its home slice (R295). -/
def State.lineDirty (s : State) (pa : Nat) : Bool :=
  let (a, bs) := s.stored (pa / 128 * 128) (List.replicate 128 0)
  s.writes.any (fun (w : Write) => w.stage == .home && overlaps a bs.length w.pa w.bytes.length &&
    regionOf w.pa == .hbm)

/-- CWB (R295). -/
def execCwb (f : Fields) (s : State) : Result :=
  .next (s.issue (.cwb f) f.g (fun s r t =>
    if f.fn = 0 then
      s.outsideTx r t (fun s =>
        if t.unack = 0 ∧ t.unackNc = 0 ∧ !s.deltaPending r then s.proceed r else s.stay r)
    else
      let va := t.globalAddr f
      match s.crew r.crew with
      | none => s
      | some c =>
        match s.translate c.cluster c.fn va.toNat .read false with
        | (.error e, s1) => s1.accessFault r e .read va
        | (.ok tg, s1) =>
          if tg.peer || tg.kind == .io then s1.raise r .perm va
          else s1.outsideTx r t (fun s => if s.lineDirty tg.pa then s.stay r else s.proceed r)))

end Sys2Proof.Machine
end

