-- ==== Sys2Proof/Machine/Fibre.lean ====
section
/-!
DEFINITION. Fibres and streams (R214 to R218).
-/
namespace Sys2Proof.Machine
open Sys2Proof

/-- The fibre or stream register that C names (R216). -/
def cursorOf (f : Fields) : Nat := (f.c.extractLsb' 0 2).toNat

/-- A fibre register. -/
def Thread.fibre (t : Thread) (f : Fields) : Fibre := t.fibres.get (cursorOf f)
/-- Writes a fibre register. -/
def Thread.putFibre (t : Thread) (f : Fields) (x : Fibre) : Thread := { t with fibres := t.fibres.set (cursorOf f) x }
/-- A stream register. -/
def Thread.stream (t : Thread) (f : Fields) : Stream := t.streams.get (cursorOf f)
/-- Writes a stream register. -/
def Thread.putStream (t : Thread) (f : Fields) (x : Stream) : Thread :=
  { t with streams := t.streams.set (cursorOf f) x }

/-- A little-endian field of a descriptor. -/
def fieldAt (bs : List Byte) (off n : Nat) : Nat := leValue ((bs.drop off).take n)

/-- A fibre from its descriptor, unless it breaks a rule of Table 12-6. -/
def fibreOf (bs : List Byte) : Option Fibre :=
  let idx := fieldAt bs 0 8
  let len := fieldAt bs 0x10 4
  let start := fieldAt bs 0x14 4
  if idx % 4 ≠ 0 ∨ 2 ^ 31 < len ∨ len < start ∨ fieldAt bs 0x18 8 ≠ 0 then none
  else some {
    idx := BitVec.ofNat 64 idx, val := BitVec.ofNat 64 (fieldAt bs 8 8), len := BitVec.ofNat 32 len
    pos := BitVec.ofNat 32 start, isOpen := true }

/-- A stream from its descriptor, unless it breaks a rule of Table 12-7. -/
def streamOf (bs : List Byte) : Option Stream :=
  let c0 := fieldAt bs 0x0C 4
  let c1 := fieldAt bs 0x14 4
  if 2 ^ 31 < c0 ∨ 2 ^ 31 < c1 ∨ fieldAt bs 0x18 8 ≠ 0 then none
  else some {
    base := BitVec.ofNat 64 (fieldAt bs 0 8), stride0 := BitVec.ofNat 32 (fieldAt bs 8 4)
    count0 := BitVec.ofNat 32 c0, stride1 := BitVec.ofNat 32 (fieldAt bs 0x10 4), count1 := BitVec.ofNat 32 c1
    n := 0, isOpen := true }

/-- The instruction goes on: its reads are dropped and the thread changes (R217). -/
def State.finishSync (s : State) (r : ThreadRef) (upd : Thread → Thread) : State :=
  (s.endSync r).onThread r (fun t => (upd t).advance s.cur.next)

/-- Fibre and stream reads inside a transaction are immediate, or abort with SCOPE by their page (Table 17-4). -/
def State.immediate (s : State) (r : ThreadRef) (t : Thread) (tg : Target) (k : State) : State :=
  if t.tx.state = .transactional ∧ !tg.txOk then s.abortTx r 9 0 0 else k

/-- Reads a 32-byte descriptor and opens a register with it (R215, R217, R218). -/
def State.openWith {α : Type} (s : State) (r : ThreadRef) (t : Thread) (f : Fields) (parse : List Byte → Option α)
    (put : Thread → α → Thread) : State :=
  let va := t.globalAddr f
  s.withBytes r t va 32 (fun s tg k => s.immediate r t tg k) (fun s bs =>
    match parse bs with
    | some x => s.finishSync r (fun t => put t x)
    | none => (s.endSync r).raise r .layoutBad va)

/-- FOPEN (R217). -/
def execFopen (f : Fields) (s : State) : Result :=
  .next (s.issue (.fopen f) f.g (fun s r t => s.openWith r t f fibreOf (fun t x => t.putFibre f x)))

/-- FADV (R217). -/
def execFadv (f : Fields) (s : State) : Result :=
  .next (s.regOp (.fadv f) f.g (fun t =>
    let x := t.fibre f
    t.putFibre f { x with pos := BitVec.ofNat 32 (min (x.pos.toNat + (t.srcBi f .z32).toNat) x.len.toNat) }))

/-- Address of index `p` of a fibre. -/
def Fibre.idxAddr (x : Fibre) (p : Nat) : Addr := x.idx + BitVec.ofNat 64 (4 * p)

/-- An index as it stands, where it can be read. -/
def State.peekIdx (s : State) (c : Crew) (va : Addr) : Option Nat :=
  match (s.translate c.cluster c.fn va.toNat .read false).1 with
  | .ok tg => if tg.peer then none else some (s.valueAt tg.pa 4)
  | .error _ => none

/-- Indices that are not in ascending order somewhere (R217). -/
def disordered : List (Option Nat) → Bool
  | some a :: some b :: t => decide (b < a) || disordered (some b :: t)
  | _ :: t => disordered t
  | [] => false

/-- FSEEK stops at `p`, the first index not below the key, POS itself among them; where the indices from POS are not in order, at
a free one of the places that R217 allows. -/
def State.seekStop (s : State) (c : Crew) (x : Fibre) (key p : Nat) : Nat × State :=
  let ps := (List.range (x.len.toNat - x.pos.toNat)).map (x.pos.toNat + ·)
  let vs := ps.map (fun q => (q, s.peekIdx c (x.idxAddr q)))
  if p ≠ x.pos.toNat ∧ disordered (vs.map (·.2)) = true then
    let ok := (vs.filter (fun e => match e.2 with | some v => decide (key ≤ v) | none => false)).map (·.1) ++ [x.len.toNat]
    let (k, s1) := s.choose ok.length
    (ok.getD k p, s1)
  else (p, s)

/-- FSEEK from position `p` with `n` entries left (R217). -/
def State.seek (s : State) (r : ThreadRef) (t : Thread) (f : Fields) (x : Fibre) (key : Nat) : Nat → Nat → State
  | 0, p => s.finishSync r (fun t => t.putFibre f { x with pos := BitVec.ofNat 32 p })
  | n + 1, p =>
    s.withBytes r t (x.idxAddr p) 4 (fun s tg k => s.immediate r t tg k) (fun s bs =>
      if leValue bs < key then s.seek r t f x key n (p + 1)
      else match s.crew r.crew with
        | none => s
        | some c =>
          let (q, s1) := s.seekStop c x key p
          s1.finishSync r (fun t => t.putFibre f { x with pos := BitVec.ofNat 32 q }))

/-- FSEEK (R217). -/
def execFseek (f : Fields) (s : State) : Result :=
  .next (s.issue (.fseek f) f.g (fun s r t =>
    let x := t.fibre f
    s.seek r t f x (t.srcBi f .z32).toNat (x.len.toNat - x.pos.toNat) x.pos.toNat))

/-- A fibre at its end. -/
def Fibre.atEnd (x : Fibre) : Bool := decide (x.len.toNat ≤ x.pos.toNat)

/-- FTEST (R217). -/
def execFtest (f : Fields) (s : State) : Result :=
  .next (s.regOp (.ftest f) f.g (fun t => t.setPred (f.d.extractLsb' 0 3) (t.fibre f).atEnd))

/-- A load of a fibre or stream, immediate inside a transaction; `upd` follows where it is issued (R204, R217). -/
def State.cursorLoad (s : State) (r : ThreadRef) (t : Thread) (f : Fields) (va : Addr) (upd : Thread → Thread) : State :=
  s.withLoad r t va (tyBytes f.ty) false (fun s _ tg hit =>
    s.immediate r t tg (
      if s.acqPending r then s.stay r
      else
        let (id, s0) := s.newId
        (s0.onThread r upd).pushLoad r { mkLoad id r t f (if tg.peer then .peer else .global) va.toNat tg.pa with
          form := if t.tx.state = .irrevocable then 2 else 0, kind := tg.kind, grp := s.cur.grp, data := hit
          tag := s.tagFor tg.peer, sent := s.fab }))

/-- FGET (R217): `.idx` 0, `.val` 1, `.pos` 2. -/
def execFget (f : Fields) (s : State) : Result :=
  .next (s.issue (.fget f) f.g (fun s r t =>
    let x := t.fibre f
    if f.fn = 2 then s.putThread r ((t.setReg f.d x.pos).advance s.cur.next)
    else if x.atEnd then
      s.putThread r ((t.putRaw f.d f.ty.is64 (if f.fn = 0 then 0xFFFFFFFF else 0)).advance s.cur.next)
    else if f.fn = 0 then s.cursorLoad r t f (x.idxAddr x.pos.toNat) id
    else s.cursorLoad r t f (x.val + BitVec.ofNat 64 (x.pos.toNat * tyBytes f.ty)) id))

/-- FCLOSE (R217). -/
def execFclose (f : Fields) (s : State) : Result := .next (s.regOp (.fclose f) f.g (fun t => t.putFibre f default))

/-- SOPEN (R218). -/
def execSopen (f : Fields) (s : State) : Result :=
  .next (s.issue (.sopen f) f.g (fun s r t => s.openWith r t f streamOf (fun t x => t.putStream f x)))

/-- Elements of a stream. -/
def Stream.size (x : Stream) : Nat := x.count0.toNat * x.count1.toNat
/-- A stream at its end. -/
def Stream.atEnd (x : Stream) : Bool := decide (x.size ≤ x.n)
/-- The address of the stream's next element (R218). -/
def Stream.addr (x : Stream) : Addr :=
  x.base + BitVec.ofInt 64 ((x.n % x.count0.toNat : Nat) * x.stride0.toInt + (x.n / x.count0.toNat : Nat) * x.stride1.toInt)

/-- SNEXT (R218): `.ld` 0, `.addr` 1. -/
def execSnext (f : Fields) (s : State) : Result :=
  .next (s.issue (.snext f) f.g (fun s r t =>
    let x := t.stream f
    let step (t : Thread) : Thread := t.putStream f { x with n := x.n + 1 }
    if x.atEnd then s.putThread r ((t.putRaw f.d f.ty.is64 0).advance s.cur.next)
    else if f.fn = 0 then s.cursorLoad r t f x.addr step
    else s.putThread r (((step t).setPair f.d x.addr).advance s.cur.next)))

/-- STEST (R218). -/
def execStest (f : Fields) (s : State) : Result :=
  .next (s.regOp (.stest f) f.g (fun t => t.setPred (f.d.extractLsb' 0 3) (t.stream f).atEnd))

/-- SCLOSE (R218). -/
def execSclose (f : Fields) (s : State) : Result := .next (s.regOp (.sclose f) f.g (fun t => t.putStream f default))

end Sys2Proof.Machine
end

