-- ==== Sys2Proof/Machine/Link.lean ====
section
/-!
DEFINITION. The link layer of Waldin (R328 to R331): packets and their flits, credits, sequence numbers and replay,
flits as they arrive, packets for other devices, and the packets of this device's own requests and answers.
-/
namespace Sys2Proof.Machine
open Sys2Proof

/-! ## Flits (Table 18-1) -/

/-- The low half of a flit's header. -/
def flitHeader (f : Flit) : Word :=
  f.seq ++ f.ack ++ f.cls ++ BitVec.ofBool f.poison ++ BitVec.ofBool f.nak ++ f.kind

/-- CRC-32C over a flit's 64 bytes with the CRC field zero (R329). -/
def flitCrc (f : Flit) : Word := crc32c (leBytes 4 (flitHeader f).toNat ++ [0, 0, 0, 0] ++ f.body)

/-- A flit's check holds (R329), and its class is 0 to 2. -/
def flitSound (f : Flit) : Bool := f.cls != 3 && f.body.length == 56 && flitCrc f == f.crc

/-- Distance from one SEQ to another. -/
def seqAfter (a b : BitVec 12) : Nat := (b - a).toNat

/-! ## Packets (R330, Table 18-2) -/

/-- The class of an operation (Table 18-3). -/
def opClass (op : Byte) : Nat := if ([0x08, 0x09, 0x0A, 0x0F] : List Byte).contains op then 1 else if op = 0x10 then 2 else 0

/-- The bytes that a packet carries after its header: none, or SIZE + 1 with the mask of a masked WRITE (R330; of an
operation that Table 18-3 does not list as well, log 108). -/
def carried (op size : Byte) (aux : Word) : Nat :=
  if ([0x01, 0x09, 0x0F] : List Byte).contains op then 0
  else size.toNat + 1 + (if op = 2 ∧ aux.getLsbD 0 then 16 else 0)

/-- The 32 bytes of a transaction header. -/
def headerBytes (p : PeerPacket) : List Byte :=
  leBytes 8 p.addr.toNat ++ leBytes 2 p.src.toNat ++ leBytes 2 p.dst.toNat ++ leBytes 2 p.tag.toNat ++
    [p.op, p.size, p.func, p.sc ++ p.cls ++ p.hops] ++ leBytes 2 p.deadline.toNat ++ leBytes 4 p.aux.toNat ++
    leBytes 4 p.chk0.toNat ++ leBytes 4 p.chk1.toNat

/-- A packet from the bytes of its flits. -/
def parsePacket (b : List Byte) : PeerPacket :=
  let op := b.getD 0x0E 0
  let size := b.getD 0x0F 0
  let x := b.getD 0x11 0
  let aux := BitVec.ofNat 32 (fld b 0x14 4)
  { addr := BitVec.ofNat 64 (fld b 0 8), src := BitVec.ofNat 16 (fld b 8 2), dst := BitVec.ofNat 16 (fld b 0x0A 2)
    tag := BitVec.ofNat 16 (fld b 0x0C 2), op := op, size := size, func := b.getD 0x10 0
    sc := x.extractLsb' 5 3, cls := x.extractLsb' 3 2, hops := x.extractLsb' 0 3
    deadline := BitVec.ofNat 16 (fld b 0x12 2), aux := aux
    chk0 := BitVec.ofNat 32 (fld b 0x18 4), chk1 := BitVec.ofNat 32 (fld b 0x1C 4)
    data := (b.drop 32).take (carried op size aux) }

/-- DATA flits of a packet that carries `b` bytes after its header (R330). -/
def dataFlits (b : Nat) : Nat := (b - 24 + 55) / 56

/-- The flits of a packet: HEAD, then DATA, zero after the last byte carried (R330). SEQ, ACK, NAK and CRC come as they
leave. -/
def flitsOf (p : PeerPacket) (poison : Bool) : List Flit :=
  let b := headerBytes p ++ p.data
  (List.range (1 + dataFlits p.data.length)).map (fun i =>
    let run := (b.drop (56 * i)).take 56
    { crc := 0, seq := 0, ack := 0, cls := BitVec.ofNat 2 (opClass p.op), poison := poison, nak := false
      kind := if i = 0 then 1 else 2, body := run ++ List.replicate (56 - run.length) 0 })

/-- The check value that a packet carries for sector `j` of its block, zero where it does not carry the sector whole
(R272, Table 18-2). -/
def chkOf (addr : Nat) (data : List Byte) (j : Nat) : Word :=
  let a := addr / 128 * 128 + 64 * j
  if addr ≤ a ∧ a + 64 ≤ addr + data.length then crc32c ((data.drop (a - addr)).take 64 ++ leBytes 8 (a / 64 % 2 ^ 46)) else 0

/-- A packet from this device; HOPS is 0 as it starts (R328). -/
def packet (src dst tag addr : Nat) (op : Byte) (size func sc cls : Nat) (deadline : BitVec 16) (aux : Nat)
    (data : List Byte) : PeerPacket :=
  { addr := BitVec.ofNat 64 addr, src := BitVec.ofNat 16 src, dst := BitVec.ofNat 16 dst, tag := BitVec.ofNat 16 tag
    op := op, size := BitVec.ofNat 8 (size - 1), func := BitVec.ofNat 8 func, sc := BitVec.ofNat 3 sc
    cls := BitVec.ofNat 2 cls, hops := 0, deadline := deadline, aux := BitVec.ofNat 32 aux
    chk0 := if op = 3 ∨ aux ≠ 0 then 0 else chkOf addr data 0, chk1 := if op = 3 ∨ aux ≠ 0 then 0 else chkOf addr data 1
    data := data }

/-! ## A port sends (R329) -/

/-- A flit leaves a port: its header takes ACK, NAK and CRC. -/
def Port.leave (p : Port) (f : Flit) : Port :=
  let g : Flit := { f with ack := p.rxLast, nak := p.nak }
  { p with wire := p.wire ++ [{ g with crc := flitCrc g }], nak := false }

/-- A flit of a packet leaves for the first time, against a credit: it takes the next SEQ and stands in the replay
buffer. -/
def Port.send (p : Port) (set : Nat) (f : Flit) : Port :=
  let g : Flit := { f with seq := p.txNext }
  { p.leave g with txNext := p.txNext + 1, replay := p.replay ++ [g], credits := p.credits.upd set (· - 1) }

/-- Packets of a class and buffer set leave whole, first to last, while credits and the replay buffer allow it. -/
def Port.drain (p : Port) (set : Nat) : List (List Flit) → Port
  | [] => { p with queue := p.queue.set set [] }
  | fs :: rest =>
    if fs.length ≤ p.credits.get set ∧ p.replay.length + fs.length ≤ 1024 then
      (fs.foldl (fun p f => p.send set f) p).drain set rest
    else { p with queue := p.queue.set set (fs :: rest) }

/-- The last header sent does not tell of every flit received. -/
def Port.ackDue (p : Port) : Bool := ((p.wire.getLast?.map (·.ack)).getD 0xFFF) != p.rxLast

/-- An IDLE flit, with the credits of the buffers that have become free. -/
def Port.idle (p : Port) : Port :=
  let counts := (List.range 15).flatMap (fun i => leBytes 2 (min 65535 (p.owed.get i)))
  { p.leave { crc := 0, seq := 0, ack := 0, cls := 0, poison := false, nak := false, kind := 0
              body := counts ++ List.replicate 26 0 } with
    owed := (List.range 15).foldl (fun m i => m.upd i (· - 65535)) p.owed }

/-- A port sends what it can; an IDLE flit goes where there is something to tell (log 108). -/
def Port.flush (p : Port) : Port :=
  let q := (List.range 15).foldl (fun (p : Port) i => p.drain i (p.queue.get i)) p
  if q.nak || !q.owed.isEmpty || q.ackDue then q.idle else q

/-- A port in service sends; while it retrains its flits wait (R325). -/
def State.flushPort (s : State) (n : Nat) : State :=
  if s.portUp n && !(s.port n).retraining then s.onPort n Port.flush else s

/-- A packet joins those that wait at a port. -/
def State.sendOut (s : State) (port set : Nat) (fs : List Flit) : State :=
  s.onPort port (fun p => { p with queue := p.queue.upd set (· ++ [fs]) })

/-! ## A port receives (R328, R329) -/

/-- What a sound flit tells of our own flits: those acknowledged leave the replay buffer; under NAK the others are sent
again (R329). -/
def Port.acknowledge (p : Port) (f : Flit) : Port :=
  let n := seqAfter p.peerAck f.ack
  let q := if n ≤ p.replay.length then { p with peerAck := f.ack, replay := p.replay.drop n } else p
  if f.nak then q.replay.foldl Port.leave q else q

/-- Credits that come back in an IDLE flit: 15 counts of two bytes (R329). -/
def Port.credit (p : Port) (f : Flit) : Port :=
  { p with credits := (List.range 15).foldl (fun m i => m.upd i (· + fld f.body (2 * i) 2)) p.credits }

/-- The number of a class's buffer set (R328); there is none above 4 (log 108). -/
def setOf (cls : BitVec 2) (hops : Nat) : Nat := 5 * cls.toNat + min 4 hops

/-- A flit in sequence is placed in the buffer set of its packet; a packet that is now whole leaves it. A flit that
belongs to no open packet is given up (log 108). -/
def Port.place (p : Port) (f : Flit) : Port × List Flit :=
  if f.kind = 1 then
    let h := parsePacket f.body
    let set := setOf f.cls h.hops.toNat
    let cut := p.rx.get p.rxSet
    let q := { p with rx := p.rx.set p.rxSet [], owed := p.owed.upd p.rxSet (· + cut.length), rxSet := set, rxLeft := 0 }
    match dataFlits (carried h.op h.size h.aux) with
    | 0 => ({ q with owed := q.owed.upd set (· + 1) }, [f])
    | n + 1 => ({ q with rx := q.rx.set set [f], rxLeft := n + 1 }, [])
  else match p.rxLeft with
    | 0 => ({ p with owed := p.owed.upd p.rxSet (· + 1) }, [])
    | 1 =>
      let fs := p.rx.get p.rxSet ++ [f]
      ({ p with rx := p.rx.set p.rxSet [], rxLeft := 0, owed := p.owed.upd p.rxSet (· + fs.length) }, fs)
    | n + 2 => ({ p with rx := p.rx.upd p.rxSet (· ++ [f]), rxLeft := n + 1 }, [])

/-! ## A whole packet (R326, R328, R331) -/

/-- A cause by its code (Table 19-1). -/
def causeOf (c : Nat) : Cause :=
  (([.illegal, .fetchAlign, .align, .page, .perm, .owner, .privLimit, .emptyReg, .poison, .peerFault, .peerTimeout, .bandWait,
     .engReset, .cardBad, .layoutBad, .nestBad, .queueBad, .trap, .brk] : List Cause).find? (fun x => causeCode x == c)).getD .none

/-- Some check value of an answer fails (R272). -/
def chkFails (p : PeerPacket) : Bool := (List.range 2).any (fun j => pktChk p j != 0 && pktChk p j != chkOf p.addr.toNat p.data j)

/-- The event that a packet for this device brings. The format of a collective stream is not given: its event stands for
it (log 108). -/
def arrival (p : PeerPacket) (poison : Bool) : List Instr :=
  if p.op = 0x08 then [.peerReadrsp p.tag.toNat p.data (poison || chkFails p)]
  else if p.op = 0x09 then [.peerWriteack p.tag.toNat]
  else if p.op = 0x0A then [.peerAtomrsp p.tag.toNat (BitVec.ofNat 64 (leValue p.data))]
  else if p.op = 0x0F then [.peerFault p.tag.toNat (causeOf (p.aux.toNat % 256))]
  else if p.op = 0x10 then []
  else [.peerRequest { p with poison := poison }]

/-- The port by which this device passes a packet on: that of the packet's route as it stands, else the first one of a
route from here (R326, R327, log 108). -/
def State.passPort (s : State) (own src dst : Nat) : Nat :=
  match ((s.routeFrom own src dst).getD []).find? (fun h => h.1 == own) with
  | some h => h.2
  | none => s.portFor own dst

/-- A HEAD as it passes a device: HOPS rises by 1 (R328). -/
def hopped (f : Flit) : Flit := if f.kind = 1 then { f with body := f.body.set 0x11 (f.body.getD 0x11 0 + 1) } else f

/-- A whole packet has arrived: it is for this device, or goes on. One that no buffer set or no port can take is gone
(log 108). -/
def State.deliver (s : State) (own : Nat) (fs : List Flit) : State :=
  match fs with
  | [] => s
  | f :: _ =>
    let p := parsePacket (fs.flatMap (·.body))
    let dst := p.dst.toNat % 512
    if dst = own then { s with agenda := s.agenda ++ arrival p (fs.any (·.poison)) }
    else
      let out := s.passPort own (p.src.toNat % 512) dst
      if 4 ≤ p.hops.toNat ∨ Sys2Proof.Machine.ports ≤ out then s
      else s.sendOut out (setOf f.cls (p.hops.toNat + 1)) (fs.map hopped)

/-- FLIT_RECEIVE (R328, R329). -/
def execFlitReceive (port : Nat) (flit : Flit) (s : State) : Result :=
  .next (
    if ports ≤ port || !s.portUp port || (s.port port).retraining then s
    else if !flitSound flit then
      (s.setField (.wport port) 32 32 (min (2 ^ 32 - 1) (s.field (.wport port) 32 32 + 1))).onPort port (fun p => { p with nak := true })
    else if flit.kind = 0 then s.onPort port (fun p => (p.acknowledge flit).credit flit)
    else if 3 ≤ flit.kind.toNat ∨ flit.seq ≠ (s.port port).rxLast + 1 then s.onPort port (fun p => { p with nak := true })
    else
      let (p, fs) := ({ (s.port port).acknowledge flit with rxLast := flit.seq, nak := false } : Port).place flit
      (s.onPort port (fun _ => p)).deliver ((s.rank).getD 0) fs)

/-! ## This device's requests and answers (R327, R328, R331, R335) -/

/-- A READ of bytes that another device holds. -/
def State.readPacket (s : State) (own pa n func sc fn cls tag : Nat) : PeerPacket :=
  packet own (rankOfPa pa) tag (pa % 2 ^ 42) 1 n func sc cls (s.stampOf fn cls) 0 []

/-- The bytes that some writes leave, the later one prevailing, in ascending order of their addresses. -/
def bytesOf (ws : List Write) : FMap (Option Byte) :=
  ws.foldl (fun m w => m.setList w.pa (w.bytes.map some)) []

/-- The packet of the writes that one request carries (R207, R331): an ATOMIC, or a WRITE, masked where its bytes are no aligned
run of a power of two. -/
def writePacket (own : Nat) (ws : List Write) (w : Write) (tag : Nat) : PeerPacket :=
  let a := w.pa % 2 ^ 42
  match w.atom with
  | some x =>
    let n := w.bytes.length
    let data := leBytes n x.b.toNat ++ (if x.op = 7 then leBytes n x.c.toNat else [])
    packet own (rankOfPa w.pa) tag a 3 data.length w.owner w.sc w.cls w.stamp
      ((if x.op = 7 then 0 else x.op) + 256 * x.ty.code) data
  | none =>
    let m := bytesOf ws
    let lo := ((m.head?.map (·.1)).getD w.pa) % 2 ^ 42
    if runOk lo m.length ∧ m.zipIdx.all (fun e => e.1.1 % 2 ^ 42 == lo + e.2) then
      packet own (rankOfPa w.pa) tag lo 2 m.length w.owner 0 w.cls w.stamp 0 (m.map (fun e => e.2.getD 0))
    else
      let base := a / 128 * 128
      let at_ (j : Nat) : Option Byte := m.get (w.pa / 128 * 128 + j)
      let mask := leBytes 16 ((List.range 128).foldl (fun n j => if (at_ j).isSome then n + 2 ^ j else n) 0)
      packet own (rankOfPa w.pa) tag base 2 128 w.owner 0 w.cls w.stamp 1 (mask ++ (List.range 128).map (fun j => (at_ j).getD 0))

/-- Two stores of one issue that the coalescer merges: of threads, to one sector of 32 bytes of one kind of page, not IO, whose
lanes keep their order (R206, R207). -/
def merges (a b : Write) : Bool :=
  a.grp != 0 && a.grp == b.grp && a.pa / 32 == b.pa / 32 && a.kind == b.kind && a.kind != .io && a.atom.isNone && b.atom.isNone &&
    a.thread?.isSome && b.thread?.isSome

/-- A request of this device that has not been sent: its tag, place and packet, and the writes that it carries. -/
structure Unsent where
  tag : Nat
  pa : Nat
  packet : PeerPacket
  writes : List Nat
  deriving DecidableEq, Repr

/-- A request of a write to another device has not been sent. -/
def State.toSend (s : State) (w : Write) : Bool := w.space == .peer && (match w.tag with | some t => !s.posted.contains t | none => false)

/-- An earlier store or atomic of the thread or of the instruction to one of the bytes has not been sent: what follows it goes
after it, whatever the kinds of their pages (R285). -/
def State.sendsFirst (s : State) (id : Nat) (by_ : Writer) (grp pa n : Nat) (o : Write) : Bool :=
  decide (o.id < id) && s.toSend o && overlaps o.pa o.bytes.length pa n && (o.by_ == by_ || (o.grp == grp && o.grp != 0))

/-- The writes to other devices that may be sent; those that one request carries go together. -/
def State.readyWrites (s : State) : List Write :=
  s.writes.filter (fun (w : Write) => s.toSend w && !s.ioBehind w &&
    !s.writes.any (fun (o : Write) => s.sendsFirst w.id w.by_ w.grp w.pa w.bytes.length o && !merges o w))

/-- The requests of writes that may be sent, each with those that it carries. -/
def State.unsentWrites (s : State) (own : Nat) : List (Nat × Unsent) :=
  let ws := s.readyWrites
  ws.filterMap (fun w =>
    let ms := ws.filter (merges w)
    if ms.any (fun o => decide (o.id < w.id)) then none
    else w.tag.map (fun t => (w.id, ⟨t, w.pa, writePacket own (if ms.isEmpty then [w] else ms) w t, ms.map (·.id)⟩)))

/-- The requests of threads, cards, packets and units that have not been sent, in the order of their issue; then the reads
of cards and packets (R331). -/
def State.unsent (s : State) (own : Nat) : List Unsent :=
  let fresh (tag : Nat) : Bool := !s.posted.contains tag
  let ls := s.loads.filterMap (fun (l : Load) =>
    if l.space = .peer ∧ !l.atomic ∧ l.data.isNone ∧ !s.loadHeld l ∧
        !s.writes.any (s.sendsFirst l.id (.thread l.who) l.grp l.pa (l.width * l.count)) then
      l.tag.bind (fun t => if fresh t then some (l.id, (⟨t, l.pa,
        s.readPacket own l.pa (l.width * l.count) (ownerCode (s.fnOf l.who.crew)) l.acq.code (s.fnOf l.who.crew) 0 t, []⟩ : Unsent)) else none)
    else none)
  let cs := s.allCards.flatMap (fun k => (k.asks.filter (fun a => a.data.isNone && fresh a.tag)).map (fun a =>
    (⟨a.tag, a.pa, s.readPacket own a.pa a.width (ownerCode k.fn) 0 k.fn k.cls a.tag, []⟩ : Unsent)))
  let ps := s.funcs.flatMap (fun f => f.2.allPackets.flatMap (fun p =>
    ((p.ask.toList).filter (fun a => a.data.isNone && fresh a.tag)).map (fun a =>
      (⟨a.tag, a.pa, s.readPacket own a.pa a.width (ownerCode f.1) 0 f.1 p.cls a.tag, []⟩ : Unsent))))
  ((ls ++ s.unsentWrites own).insertionSort (fun a b => a.1 ≤ b.1)).map (·.2) ++ cs ++ ps

/-- The writes that one request carries share its tag. -/
def State.shareTag (s : State) (x : Unsent) : State :=
  if x.writes.isEmpty then s
  else { s with writes := s.writes.map (fun (w : Write) => if x.writes.contains w.id then { w with tag := some x.tag } else w) }

/-- The time at which the request of a tag was sent (R335). -/
def State.stampSent (s : State) (tag : Nat) : State :=
  let ask (a : Ask) : Ask := if a.tag = tag ∧ a.data.isNone then { a with sent := s.fab } else a
  let card (k : Card) : Card := if k.asks.isEmpty then k else { k with asks := k.asks.map ask }
  let pkt (p : Packet) : Packet := { p with ask := p.ask.map ask }
  { s with
    loads := s.loads.map (fun (l : Load) => if l.tag = some tag then { l with sent := s.fab } else l)
    writes := s.writes.map (fun (w : Write) => if w.tag = some tag then { w with sent := s.fab } else w)
    cards := s.cards.map card
    crews := s.crews.map (fun e => (e.1, e.2.map (fun c => { c with
      cards := c.cards.map card, lineReplay := c.lineReplay.map (fun x => { x with card := card x.card }) })))
    funcs := s.funcs.map (fun f => (f.1, { f.2 with
      leftovers := f.2.leftovers.map pkt
      queues := f.2.queues.map (fun e => (e.1, e.2.map (fun x => { x with packets := x.packets.map pkt }))) }))
    posted := s.posted ++ [tag] }

/-- A request is sent, unless its target's route is to change; to a target that cannot be reached it is sent in vain
(R327). -/
def State.postOne (s : State) (own : Nat) (x : Unsent) : State :=
  let t := rankOfPa x.pa
  if s.rerouted own t then s
  else
    let s1 := (s.shareTag x).stampSent x.tag
    if Sys2Proof.Machine.ports ≤ s.routeTo own t then s1 else s1.sendOut (s.routeTo own t) 0 (flitsOf x.packet x.packet.poison)

/-- The packet of an answer (Table 18-3); FUNC, SC, CLASS and DEADLINE of a response are zero, ADDR too but in READRSP (log
108). -/
def answerPacket (own : Nat) (a : PeerAnswer) : Nat × PeerPacket × Bool :=
  match a with
  | .readRsp dst tag addr data poison => (dst, packet own dst tag addr 0x08 data.length 0 0 0 0 0 data, poison)
  | .writeAck dst tag => (dst, packet own dst tag 0 0x09 1 0 0 0 0 0 [], false)
  | .atomRsp dst tag n old => (dst, { packet own dst tag 0 0x0A n 0 0 0 0 0 (leBytes n old.toNat) with chk0 := 0, chk1 := 0 }, false)
  | .fault dst tag c => (dst, packet own dst tag 0 0x0F 1 0 0 0 0 (causeCode c) [], false)

/-- An answer is sent (R332). -/
def State.answerOne (s : State) (own : Nat) (a : PeerAnswer) : State :=
  let (dst, p, poison) := answerPacket own a
  if Sys2Proof.Machine.ports ≤ s.routeTo own dst then s else s.sendOut (s.routeTo own dst) 5 (flitsOf p poison)

/-- Requests and answers of this device become packets, and its ports send. A device without a rank has no peers (R324). -/
def State.post (s : State) : State :=
  match s.rank with
  | none => s
  | some own =>
    let s1 := { s with posted := s.posted.filter s.liveTags.contains }
    let s2 := (s1.unsent own).foldl (fun s x => s.postOne own x) s1
    let s3 := { (s2.answers.drop s2.answered).foldl (fun s a => s.answerOne own a) s2 with answered := s2.answers.length }
    s3.ports.foldl (fun s e => s.flushPort e.1) s3

end Sys2Proof.Machine
end

