-- ==== Sys2Proof/Machine/Work.lean ====
section
/-!
DEFINITION. Special registers and work instructions (R143 to R150).
-/
namespace Sys2Proof.Machine
open Sys2Proof

/-! ## Special registers (Table 8-7) -/

/-- The nest whose bounds a crew's point has; none once the nest's identifier is free or stands for another. -/
def State.nestOf (s : State) (c : Crew) : Option Nest :=
  ((s.walker c.part).nest c.nest).filter (fun n => n.fn == c.fn && n.rcd == c.rcd)

/-- %pt, zero beyond WALK. -/
def Crew.pt (c : Crew) (k : Nat) : Word := if k < c.rcd.walk then c.point.coords.getD k 0 else 0

/-- %lo and %hi at the point's outer coordinates, zero beyond WALK; the upper bound as raised (log 18). -/
def State.crewBounds (s : State) (c : Crew) (k : Nat) : Int × Int :=
  if c.rcd.walk ≤ k then (0, 0)
  else
    let his := ((s.nestOf c).map (·.hi)).getD (c.rcd.levels.map (·.hi))
    (c.rcd.lo k c.coords, c.rcd.hi his k c.coords)

/-- %gen: the generation tag of a context (R346). -/
def State.genTag (s : State) (core ctx : Nat) : BitVec 4 := s.gens.get (core * Config.contexts + ctx)

/-- The value of a special register (Table 8-7). -/
def State.special (s : State) (c : Crew) (tid : Nat) (t : Thread) (n : Nat) : DWord :=
  if n = 0 then BitVec.ofNat 64 tid
  else if n = 1 then BitVec.ofNat 64 (laneOf t.pos + 32 * bandOf t.pos)
  else if n = 2 then BitVec.ofNat 64 c.context
  else if n = 3 then BitVec.ofNat 64 c.core
  else if n = 4 then BitVec.ofNat 64 c.cluster
  else if n = 5 then BitVec.ofNat 64 c.part
  else if n = 6 then BitVec.ofNat 64 c.nest
  else if n < 0x0C then (c.pt (n - 8)).setWidth 64
  else if n < 0x10 then BitVec.ofInt 64 (s.crewBounds c (n - 0x0C)).1
  else if n < 0x14 then BitVec.ofInt 64 (s.crewBounds c (n - 0x10)).2
  else if n = 0x18 then BitVec.ofNat 64 s.clock
  else if n = 0x19 then BitVec.ofNat 64 s.time
  else if n = 0x1A then (s.genTag c.core c.context).setWidth 64
  else if n = 0x1B then t.txcause.setWidth 64
  else if n = 0x1C then t.txthr.setWidth 64
  else t.dqsel.setWidth 64

/-- GETS (R143). -/
def execGets (f : Fields) (s : State) : Result :=
  .next (s.issue (.gets f) f.g (fun s r t =>
    match s.crew r.crew with
    | none => s
    | some c => s.putThread r ((t.putRaw f.d f.ty.is64 (s.special c r.tid t f.fn.toNat)).advance s.cur.next)))

/-- %txthr after a write: 4 to 64 (R144). -/
def clampThr (v : Word) : Word := if v.toNat < 4 then 4 else if 64 < v.toNat then 64 else v

/-- SETS (R144). -/
def execSets (f : Fields) (s : State) : Result :=
  .next (s.regOp (.sets f) f.g (fun t =>
    let v := (t.srcAi f .b32).setWidth 32
    if f.fn = 0x1C then { t with txthr := clampThr v } else { t with dqsel := v.extractLsb' 0 2 }))

/-! ## DRAW and APPEND (R145 to R148) -/

/-- The deal queue that DRAW or APPEND names (Table 8-8); FN[1:0] is ignored where FN[2] is 0 (log 120). -/
def Thread.dealQueue (t : Thread) (f : Fields) : Nat :=
  if f.fn.getLsbD 2 then (f.fn.extractLsb' 0 2).toNat else t.dqsel.toNat

/-- The eight registers of a work entry, low halves first (R147). -/
def Entry.words (e : Entry) : List Word :=
  (e.key :: e.payload).flatMap (fun v => [v.extractLsb' 0 32, v.extractLsb' 32 32])

/-- DRAW (R147). The draw takes effect whole; a thread that finds nothing sleeps with its block empty. -/
def execDraw (f : Fields) (s : State) : Result :=
  .next (s.issueOrdered (.draw f) f.g (fun s r t =>
    s.outsideTx r t (fun s =>
      if s.acqPending r then s.stay r
      else match s.crew r.crew with
        | none => s
        | some c =>
          let k := t.dealQueue f
          let w := s.walker c.part
          let q := w.queue k
          let p := f.fn.extractLsb' 3 3
          match drawn q Entry.isWork (Config.freeChoice s.fresh) with
          | some (i, e) =>
            let s1 := { s with fresh := s.fresh + 1 }
            let s2 := s1.onWalker c.part (fun w => { w with queues := w.queues.set k (afterDraw q Entry.isWork i) })
            let t1 := t.setRegs f.d.toNat e.words
            let t2 := if f.x = 1 then t1.setPred p true else t1
            (s2.putThread r (t2.advance s.cur.next)).acquire r .device
          | none =>
            if f.x = 1 then s.putThread r ((t.setPred p false).advance s.cur.next)
            else s.putThread r { t.mark ((List.range 8).map (f.d.toNat + ·)) true with
              age := 0, status := .drawing k f.d.toNat })))

/-- The work entry that APPEND inserts: key and payload from eight registers (R148). -/
def Thread.entryAt (t : Thread) (a : BitVec 7) : Entry :=
  workEntry (t.pair a) ((List.range 3).map (fun i => t.pair (a + BitVec.ofNat 7 (2 * i + 2))))

/-- APPEND (R148): held while the queue has no room or a packet waits on it (R67). -/
def execAppend (f : Fields) (s : State) : Result :=
  .next (s.issueOrdered (.append f) f.g (fun s r t =>
    s.outsideTx r t (fun s =>
      match s.crew r.crew with
      | none => s
      | some c =>
        let k := t.dealQueue f
        let w := s.walker c.part
        if w.room k == 0 || w.packetWaits k then s.heldAt r
        else s.release r (fun s =>
          ((s.onWalker c.part (fun w => w.insert k [t.entryAt f.a])).proceed r).wakeDrawers c.part k))))

/-- BNDSET (R149): a release at the nest scope, then the thread waits for the walker. -/
def execBndset (f : Fields) (s : State) : Result :=
  .next (s.issue (.bndset f) f.g (fun s r t =>
    s.outsideTx r t (fun s =>
      match s.crew r.crew with
      | none => s
      | some c =>
        let level := (f.fn.extractLsb' 0 2).toNat
        if c.rcd.walk ≤ level ∨ t.retired then s.raise r .nestBad
        else s.release r (fun s =>
          s.onThread r (fun t => { t with
            age := 0, status := .bndset level ((t.srcAi f .s32).setWidth 32) s.cur.next })))))

/-- A counter of a nest as NESTQ reads it (R150). -/
def Walker.counter (w : Walker) (id which : Nat) : Nat :=
  match w.nest id with
  | none => 0
  | some n =>
    if which = 0 then n.released
    else if which = 1 then n.retired
    else if which = 2 then n.forgone
    else if which = 3 then n.held % 2 ^ 16
    else 1

/-- NESTQ (R150). -/
def execNestq (f : Fields) (s : State) : Result :=
  .next (s.issue (.nestq f) f.g (fun s r t =>
    match s.crew r.crew with
    | none => s
    | some c =>
      let id := (t.srcAi f .z32).toNat
      if 31 < id then s.raise r .nestBad
      else s.putThread r ((t.setPair f.d (BitVec.ofNat 64 ((s.walker c.part).counter id f.fn.toNat))).advance s.cur.next)))

end Sys2Proof.Machine
end

