-- ==== Sys2Proof/Machine/Dispatch.lean ====
section
/-!
DEFINITION. The meaning of every instruction and event: one arm for each, one call of its meaning.
-/
namespace Sys2Proof.Machine
open Sys2Proof

def exec (i : Instr) (s : State) : Host.Outcome State Fault Refusal :=
  match i with
  | .iadd f => Sys2Proof.Machine.execIadd f s
  | .isub f => Sys2Proof.Machine.execIsub f s
  | .imul f => Sys2Proof.Machine.execImul f s
  | .imad f => Sys2Proof.Machine.execImad f s
  | .idiv f => Sys2Proof.Machine.execIdiv f s
  | .irem f => Sys2Proof.Machine.execIrem f s
  | .imin f => Sys2Proof.Machine.execImin f s
  | .imax f => Sys2Proof.Machine.execImax f s
  | .iabs f => Sys2Proof.Machine.execIabs f s
  | .lea f => Sys2Proof.Machine.execLea f s
  | .shl f => Sys2Proof.Machine.execShl f s
  | .shr f => Sys2Proof.Machine.execShr f s
  | .rot f => Sys2Proof.Machine.execRot f s
  | .lop3 f => Sys2Proof.Machine.execLop3 f s
  | .bfx f => Sys2Proof.Machine.execBfx f s
  | .bfi f => Sys2Proof.Machine.execBfi f s
  | .popc f => Sys2Proof.Machine.execPopc f s
  | .clz f => Sys2Proof.Machine.execClz f s
  | .brev f => Sys2Proof.Machine.execBrev f s
  | .bytep f => Sys2Proof.Machine.execBytep f s
  | .sel f => Sys2Proof.Machine.execSel f s
  | .mov f => Sys2Proof.Machine.execMov f s
  | .movi f => Sys2Proof.Machine.execMovi f s
  | .iaddc f => Sys2Proof.Machine.execIaddc f s
  | .idp4 f => Sys2Proof.Machine.execIdp4 f s
  | .icmp f => Sys2Proof.Machine.execIcmp f s
  | .fcmp f => Sys2Proof.Machine.execFcmp f s
  | .plop f => Sys2Proof.Machine.execPlop f s
  | .p2g f => Sys2Proof.Machine.execP2g f s
  | .g2p f => Sys2Proof.Machine.execG2p f s
  | .vote f => Sys2Proof.Machine.execVote f s
  | .shfl f => Sys2Proof.Machine.execShfl f s
  | .matchLanes f => Sys2Proof.Machine.execMatchLanes f s
  | .elect f => Sys2Proof.Machine.execElect f s
  | .bred f => Sys2Proof.Machine.execBred f s
  | .bscan f => Sys2Proof.Machine.execBscan f s
  | .fbred f => Sys2Proof.Machine.execFbred f s
  | .meld f => Sys2Proof.Machine.execMeld f s
  | .barc f => Sys2Proof.Machine.execBarc f s
  | .bandwaitTimeout crew => Sys2Proof.Machine.execBandwaitTimeout crew s
  | .nop f => Sys2Proof.Machine.execNop f s
  | .bra f => Sys2Proof.Machine.execBra f s
  | .brx f => Sys2Proof.Machine.execBrx f s
  | .call f => Sys2Proof.Machine.execCall f s
  | .ret f => Sys2Proof.Machine.execRet f s
  | .exit f => Sys2Proof.Machine.execExit f s
  | .yield f => Sys2Proof.Machine.execYield f s
  | .waita f => Sys2Proof.Machine.execWaita f s
  | .waitaReread crew tid => Sys2Proof.Machine.execWaitaReread crew tid s
  | .sleep f => Sys2Proof.Machine.execSleep f s
  | .sleepExpire crew tid => Sys2Proof.Machine.execSleepExpire crew tid s
  | .trap f => Sys2Proof.Machine.execTrap f s
  | .brk f => Sys2Proof.Machine.execBrk f s
  | .gets f => Sys2Proof.Machine.execGets f s
  | .sets f => Sys2Proof.Machine.execSets f s
  | .draw f => Sys2Proof.Machine.execDraw f s
  | .append f => Sys2Proof.Machine.execAppend f s
  | .retire f => Sys2Proof.Machine.execRetire f s
  | .bndset f => Sys2Proof.Machine.execBndset f s
  | .nestq f => Sys2Proof.Machine.execNestq f s
  | .fadd f => Sys2Proof.Machine.execFadd f s
  | .fmul f => Sys2Proof.Machine.execFmul f s
  | .ffma f => Sys2Proof.Machine.execFfma f s
  | .fmin f => Sys2Proof.Machine.execFmin f s
  | .fmax f => Sys2Proof.Machine.execFmax f s
  | .frcp f => Sys2Proof.Machine.execFrcp f s
  | .frsq f => Sys2Proof.Machine.execFrsq f s
  | .fsqrt f => Sys2Proof.Machine.execFsqrt f s
  | .fexp2 f => Sys2Proof.Machine.execFexp2 f s
  | .flog2 f => Sys2Proof.Machine.execFlog2 f s
  | .fsin f => Sys2Proof.Machine.execFsin f s
  | .fcos f => Sys2Proof.Machine.execFcos f s
  | .ftanh f => Sys2Proof.Machine.execFtanh f s
  | .fdiv f => Sys2Proof.Machine.execFdiv f s
  | .hadd2 f => Sys2Proof.Machine.execHadd2 f s
  | .hmul2 f => Sys2Proof.Machine.execHmul2 f s
  | .hfma2 f => Sys2Proof.Machine.execHfma2 f s
  | .hdot2 f => Sys2Proof.Machine.execHdot2 f s
  | .fclass f => Sys2Proof.Machine.execFclass f s
  | .frnd f => Sys2Proof.Machine.execFrnd f s
  | .cvti f => Sys2Proof.Machine.execCvti f s
  | .cvtf f => Sys2Proof.Machine.execCvtf f s
  | .qt8 f => Sys2Proof.Machine.execQt8 f s
  | .qt6 f => Sys2Proof.Machine.execQt6 f s
  | .dqt8 f => Sys2Proof.Machine.execDqt8 f s
  | .dqt6 f => Sys2Proof.Machine.execDqt6 f s
  | .amax f => Sys2Proof.Machine.execAmax f s
  | .fgete f => Sys2Proof.Machine.execFgete f s
  | .pack f => Sys2Proof.Machine.execPack f s
  | .unpk f => Sys2Proof.Machine.execUnpk f s
  | .ld f => Sys2Proof.Machine.execLd f s
  | .st f => Sys2Proof.Machine.execSt f s
  | .lds f => Sys2Proof.Machine.execLds f s
  | .sts f => Sys2Proof.Machine.execSts f s
  | .ldp f => Sys2Proof.Machine.execLdp f s
  | .stp f => Sys2Proof.Machine.execStp f s
  | .loadDataLands id => Sys2Proof.Machine.execLoadDataLands id s
  | .storeAcknowledged id => Sys2Proof.Machine.execStoreAcknowledged id s
  | .atom f => Sys2Proof.Machine.execAtom f s
  | .acas f => Sys2Proof.Machine.execAcas f s
  | .red f => Sys2Proof.Machine.execRed f s
  | .fence f => Sys2Proof.Machine.execFence f s
  | .cinv f => Sys2Proof.Machine.execCinv f s
  | .cwb f => Sys2Proof.Machine.execCwb f s
  | .txb f => Sys2Proof.Machine.execTxb f s
  | .txc f => Sys2Proof.Machine.execTxc f s
  | .txa f => Sys2Proof.Machine.execTxa f s
  | .txs f => Sys2Proof.Machine.execTxs f s
  | .prefm f => Sys2Proof.Machine.execPrefm f s
  | .spmk f => Sys2Proof.Machine.execSpmk f s
  | .spwt f => Sys2Proof.Machine.execSpwt f s
  | .mma f => Sys2Proof.Machine.execMma f s
  | .mmas f => Sys2Proof.Machine.execMmas f s
  | .mrsc f => Sys2Proof.Machine.execMrsc f s
  | .accrd f => Sys2Proof.Machine.execAccrd f s
  | .accwr f => Sys2Proof.Machine.execAccwr f s
  | .accz f => Sys2Proof.Machine.execAccz f s
  | .wmark f => Sys2Proof.Machine.execWmark f s
  | .mwait f => Sys2Proof.Machine.execMwait f s
  | .cpyt f => Sys2Proof.Machine.execCpyt f s
  | .cpyl f => Sys2Proof.Machine.execCpyl f s
  | .cpym f => Sys2Proof.Machine.execCpym f s
  | .kick f => Sys2Proof.Machine.execKick f s
  | .cwait f => Sys2Proof.Machine.execCwait f s
  | .binit f => Sys2Proof.Machine.execBinit f s
  | .barr f => Sys2Proof.Machine.execBarr f s
  | .bwait f => Sys2Proof.Machine.execBwait f s
  | .coll f => Sys2Proof.Machine.execColl f s
  | .fopen f => Sys2Proof.Machine.execFopen f s
  | .fadv f => Sys2Proof.Machine.execFadv f s
  | .fseek f => Sys2Proof.Machine.execFseek f s
  | .ftest f => Sys2Proof.Machine.execFtest f s
  | .fget f => Sys2Proof.Machine.execFget f s
  | .fclose f => Sys2Proof.Machine.execFclose f s
  | .sopen f => Sys2Proof.Machine.execSopen f s
  | .snext f => Sys2Proof.Machine.execSnext f s
  | .stest f => Sys2Proof.Machine.execStest f s
  | .sclose f => Sys2Proof.Machine.execSclose f s
  | .illegalFetch cause => Sys2Proof.Machine.execIllegalFetch cause s
  | .notifyWrite fn off size value => Sys2Proof.Machine.execNotifyWrite fn off size value s
  | .qcmdEnable fn queue => Sys2Proof.Machine.execQcmdEnable fn queue s
  | .qcmdDisable fn queue => Sys2Proof.Machine.execQcmdDisable fn queue s
  | .qcmdReservedOp fn queue => Sys2Proof.Machine.execQcmdReservedOp fn queue s
  | .slotRead fn queue => Sys2Proof.Machine.execSlotRead fn queue s
  | .pktNop fn queue => Sys2Proof.Machine.execPktNop fn queue s
  | .pktInstall fn queue => Sys2Proof.Machine.execPktInstall fn queue s
  | .installStallEnd fn queue => Sys2Proof.Machine.execInstallStallEnd fn queue s
  | .pktAppend fn queue => Sys2Proof.Machine.execPktAppend fn queue s
  | .appendStallEnd fn queue => Sys2Proof.Machine.execAppendStallEnd fn queue s
  | .pktCopy fn queue => Sys2Proof.Machine.execPktCopy fn queue s
  | .pktSignal fn queue => Sys2Proof.Machine.execPktSignal fn queue s
  | .pktWait fn queue => Sys2Proof.Machine.execPktWait fn queue s
  | .waitReread fn queue => Sys2Proof.Machine.execWaitReread fn queue s
  | .pktFence fn queue => Sys2Proof.Machine.execPktFence fn queue s
  | .pktLink fn queue => Sys2Proof.Machine.execPktLink fn queue s
  | .segmentStallEnd fn queue => Sys2Proof.Machine.execSegmentStallEnd fn queue s
  | .pktTimestamp fn queue => Sys2Proof.Machine.execPktTimestamp fn queue s
  | .packetComplete fn queue idx => Sys2Proof.Machine.execPacketComplete fn queue idx s
  | .retireEvent crew => Sys2Proof.Machine.execRetireEvent crew s
  | .bndsetEvent crew tid => Sys2Proof.Machine.execBndsetEvent crew tid s
  | .rowOpen part => Sys2Proof.Machine.execRowOpen part s
  | .pointRelease part => Sys2Proof.Machine.execPointRelease part s
  | .nestCompletion part nest => Sys2Proof.Machine.execNestCompletion part nest s
  | .completionWriteAck part nest => Sys2Proof.Machine.execCompletionWriteAck part nest s
  | .crewStart core pick => Sys2Proof.Machine.execCrewStart core pick s
  | .residentCrewStart core pick => Sys2Proof.Machine.execResidentCrewStart core pick s
  | .crewResourcesFreed crew => Sys2Proof.Machine.execCrewResourcesFreed crew s
  | .worldSwitch part => Sys2Proof.Machine.execWorldSwitch part s
  | .worldSwitchDone part => Sys2Proof.Machine.execWorldSwitchDone part s
  | .vacancyExit part => Sys2Proof.Machine.execVacancyExit part s
  | .kittyIdle cluster => Sys2Proof.Machine.execKittyIdle cluster s
  | .kittyLend part => Sys2Proof.Machine.execKittyLend part s
  | .revocationDone cluster => Sys2Proof.Machine.execRevocationDone cluster s
  | .prevokeWrite part value => Sys2Proof.Machine.execPrevokeWrite part value s
  | .clusterFail cluster => Sys2Proof.Machine.execClusterFail cluster s
  | .pcfgWrite value => Sys2Proof.Machine.execPcfgWrite value s
  | .partsApplyDone => Sys2Proof.Machine.execPartsApplyDone s
  | .vfpartWrite fn value => Sys2Proof.Machine.execVfpartWrite fn value s
  | .calWrite slot value => Sys2Proof.Machine.execCalWrite slot value s
  | .psliceWrite part entry value => Sys2Proof.Machine.execPsliceWrite part entry value s
  | .pkittyWrite part value => Sys2Proof.Machine.execPkittyWrite part value s
  | .tlbiWrite value => Sys2Proof.Machine.execTlbiWrite value s
  | .tlbiDone => Sys2Proof.Machine.execTlbiDone s
  | .hostTlbFence sel => Sys2Proof.Machine.execHostTlbFence sel s
  | .focmdSet value => Sys2Proof.Machine.execFocmdSet value s
  | .focmdSetDone => Sys2Proof.Machine.execFocmdSetDone s
  | .focmdRead value => Sys2Proof.Machine.execFocmdRead value s
  | .focmdRefused value => Sys2Proof.Machine.execFocmdRefused value s
  | .fwinEnable win value => Sys2Proof.Machine.execFwinEnable win value s
  | .fwinEnableDone win => Sys2Proof.Machine.execFwinEnableDone win s
  | .fwinDisable win value => Sys2Proof.Machine.execFwinDisable win value s
  | .fwinDisableDone win => Sys2Proof.Machine.execFwinDisableDone win s
  | .homeWritePerform w => Sys2Proof.Machine.execHomeWritePerform w s
  | .sharedCacheFill fn pa => Sys2Proof.Machine.execSharedCacheFill fn pa s
  | .mscWriteApply id => Sys2Proof.Machine.execMscWriteApply id s
  | .parityDeltaApply id => Sys2Proof.Machine.execParityDeltaApply id s
  | .stackLost stack => Sys2Proof.Machine.execStackLost stack s
  | .memctlDeclare value => Sys2Proof.Machine.execMemctlDeclare value s
  | .scrubSector stack off found => Sys2Proof.Machine.execScrubSector stack off found s
  | .channelGrant stack => Sys2Proof.Machine.execChannelGrant stack s
  | .hotctlEnable fn value => Sys2Proof.Machine.execHotctlEnable fn value s
  | .accctlWrite value => Sys2Proof.Machine.execAccctlWrite value s
  | .lzctlWrite value => Sys2Proof.Machine.execLzctlWrite value s
  | .lzctlDrainDone => Sys2Proof.Machine.execLzctlDrainDone s
  | .cardStart id => Sys2Proof.Machine.execCardStart id s
  | .cardLineLands id line => Sys2Proof.Machine.execCardLineLands id line s
  | .matrixBlockFinal id => Sys2Proof.Machine.execMatrixBlockFinal id s
  | .cardComplete id => Sys2Proof.Machine.execCardComplete id s
  | .cardPagePause id => Sys2Proof.Machine.execCardPagePause id s
  | .cardAbandon id cause => Sys2Proof.Machine.execCardAbandon id cause s
  | .engineHang core => Sys2Proof.Machine.execEngineHang core s
  | .tokenTick cluster => Sys2Proof.Machine.execTokenTick cluster s
  | .crewSaveEnd crew => Sys2Proof.Machine.execCrewSaveEnd crew s
  | .faultRecordDrain fn => Sys2Proof.Machine.execFaultRecordDrain fn s
  | .faultMsi fn => Sys2Proof.Machine.execFaultMsi fn s
  | .crewRestore crew core => Sys2Proof.Machine.execCrewRestore crew core s
  | .crewcmdResume fn value => Sys2Proof.Machine.execCrewcmdResume fn value s
  | .crewcmdSkip fn value => Sys2Proof.Machine.execCrewcmdSkip fn value s
  | .crewcmdAbort fn value => Sys2Proof.Machine.execCrewcmdAbort fn value s
  | .crewcmdPageok fn value => Sys2Proof.Machine.execCrewcmdPageok fn value s
  | .crewcmdPagefail fn value => Sys2Proof.Machine.execCrewcmdPagefail fn value s
  | .crewcmdDrop fn value => Sys2Proof.Machine.execCrewcmdDrop fn value s
  | .flrRequest fn => Sys2Proof.Machine.execFlrRequest fn s
  | .flrTeardownDone fn => Sys2Proof.Machine.execFlrTeardownDone fn s
  | .portTrain port peerRank peerPort lanes => Sys2Proof.Machine.execPortTrain port peerRank peerPort lanes s
  | .laneRetire port lane => Sys2Proof.Machine.execLaneRetire port lane s
  | .portRetrainDone port => Sys2Proof.Machine.execPortRetrainDone port s
  | .routeRewrite port => Sys2Proof.Machine.execRouteRewrite port s
  | .flitReceive port flit => Sys2Proof.Machine.execFlitReceive port flit s
  | .peerRequest pkt => Sys2Proof.Machine.execPeerRequest pkt s
  | .peerReadrsp tag data poison => Sys2Proof.Machine.execPeerReadrsp tag data poison s
  | .peerWriteack tag => Sys2Proof.Machine.execPeerWriteack tag s
  | .peerAtomrsp tag old => Sys2Proof.Machine.execPeerAtomrsp tag old s
  | .peerFault tag cause => Sys2Proof.Machine.execPeerFault tag cause s
  | .peerTimeout tag => Sys2Proof.Machine.execPeerTimeout tag s
  | .cdata fn group inst member share => Sys2Proof.Machine.execCdata fn group inst member share s
  | .collTimeout fn group inst => Sys2Proof.Machine.execCollTimeout fn group inst s
  | .wportCrcerrClear port value => Sys2Proof.Machine.execWportCrcerrClear port value s
  | .thermalWarn die => Sys2Proof.Machine.execThermalWarn die s
  | .thermalHalt => Sys2Proof.Machine.execThermalHalt s
  | .thermalResume => Sys2Proof.Machine.execThermalResume s
  | .thermalPowerOff => Sys2Proof.Machine.execThermalPowerOff s
  | .stateTableCommit => Sys2Proof.Machine.execStateTableCommit s
  | .ccFailover => Sys2Proof.Machine.execCcFailover s
  | .fwctlStage value image => Sys2Proof.Machine.execFwctlStage value image s
  | .fwctlTakeover => Sys2Proof.Machine.execFwctlTakeover s
  | .fwctlCommit => Sys2Proof.Machine.execFwctlCommit s
  | .fwctlDiscard => Sys2Proof.Machine.execFwctlDiscard s
  | .fwctlInvalid value => Sys2Proof.Machine.execFwctlInvalid value s
  | .fwCommandDone => Sys2Proof.Machine.execFwCommandDone s
  | .getVersion req => Sys2Proof.Machine.execGetVersion req s
  | .getCapabilities req => Sys2Proof.Machine.execGetCapabilities req s
  | .negotiateAlgorithms req => Sys2Proof.Machine.execNegotiateAlgorithms req s
  | .getDigests req => Sys2Proof.Machine.execGetDigests req s
  | .getCertificate req => Sys2Proof.Machine.execGetCertificate req s
  | .challenge req => Sys2Proof.Machine.execChallenge req s
  | .getMeasurements req => Sys2Proof.Machine.execGetMeasurements req s
  | .unsupportedRequest req => Sys2Proof.Machine.execUnsupportedRequest req s
  | .powerOnReset => Sys2Proof.Machine.execPowerOnReset s
  | .calibrationDone res => Sys2Proof.Machine.execCalibrationDone res s
  | .memoryInitDone failed count => Sys2Proof.Machine.execMemoryInitDone failed count s
  | .jtagInstruction code => Sys2Proof.Machine.execJtagInstruction code s
  | .registerWrite bar fn off size value => Sys2Proof.Machine.execRegisterWrite bar fn off size value s
  | .powerLoss => Sys2Proof.Machine.execPowerLoss s
  | .frctlEnable fn value => Sys2Proof.Machine.execFrctlEnable fn value s
  | .cxlBackInvalidate pa => Sys2Proof.Machine.execCxlBackInvalidate pa s

end Sys2Proof.Machine
end

