-- ==== Sys2Proof/Machine/Moves.lean ====
section
/-!
DEFINITION. The events of the device's own units that may move next, and the choice among them (log 1). What comes
from outside (hosts, peers, links, sensors, failures) stands on the agenda alone.
-/
namespace Sys2Proof.Machine
open Sys2Proof

/-- An event, where a condition holds. -/
def when_ (b : Bool) (i : Instr) : List Instr := if b then [i] else []

/-- Writes on their way, and their parity deltas (R263, R264, R282). -/
def State.writeMoves (s : State) : List Instr :=
  s.writes.flatMap (fun (w : Write) =>
    when_ (w.stage == .issued && w.space != .peer) (.homeWritePerform (.inflight w.id)) ++
    when_ (w.stage == .home) (.mscWriteApply w.id) ++
    when_ (w.settled && w.space != .peer) (match w.by_ with
      | .completion fn nest _ => .completionWriteAck (s.partOf fn) nest
      | _ => .storeAcknowledged w.id) ++
    (match w.tag with | some t => when_ (s.peerOverdue t) (.peerTimeout t) | none => [])) ++
  s.deltas.map (fun (d : Delta) => .parityDeltaApply d.write)

/-- Reads on their way (R204, R335). -/
def State.loadMoves (s : State) : List Instr :=
  s.loads.flatMap (fun (l : Load) =>
    .loadDataLands l.id :: when_ (l.space == .global) (.sharedCacheFill (s.fnOf l.who.crew) l.pa) ++
    (match l.tag with | some t => when_ (s.peerOverdue t) (.peerTimeout t) | none => [])) ++
  s.strays.flatMap (fun x => match x.tag with | some t => when_ (s.peerOverdue t) (.peerTimeout t) | none => [.loadDataLands x.id])

/-- What threads wait for (R140, R141, R149). -/
def threadMoves (crew tid : Nat) (t : Thread) : List Instr :=
  match t.status with
  | .sleeping _ => [.sleepExpire crew tid]
  | .waita _ _ _ _ _ _ _ => [.waitaReread crew tid]
  | .bndset _ _ _ => [.bndsetEvent crew tid]
  | _ => []

/-- The cores to which a saved crew may be restored. -/
def State.restoreMoves (s : State) (crew : Nat) (c : Crew) : List Instr :=
  if c.loc.isNone && c.fst.state == 2 then
    ((List.range Config.cores).filter (fun k => s.restorable k c)).map (fun k => .crewRestore crew k)
  else []

/-- Crews (R54, R113, R139, R344, R349). -/
def State.crewMoves (s : State) : List Instr :=
  s.crewList.flatMap (fun e =>
    (if e.2.loc.isSome then e.2.threadList.flatMap (fun t => threadMoves e.1 t.1 t.2) else []) ++
    when_ (s.rendezvousLate e.2) (.bandwaitTimeout e.1) ++ when_ e.2.retireDue (.retireEvent e.1) ++
    when_ (e.2.save.isSome && s.saveReady e.1) (.crewSaveEnd e.1) ++
    when_ (s.crewFree e.1 e.2) (.crewResourcesFreed e.1) ++ s.restoreMoves e.1 e.2)

/-- The faults that the lines of a card find (R246). -/
def State.cardFaults (s : State) (k : Card) : List Cause :=
  (s.cardOuts k).filterMap (fun o => match o.1 with | .fault c _ => some c | _ => none)

/-- A card in its ring or in replay packets (R231, R243, R246). -/
def State.cardMove (s : State) (k : Card) : List Instr :=
  if k.kind.isMatrix then
    when_ (!k.started) (.cardStart k.id) ++ when_ k.started (.matrixBlockFinal k.id) ++ when_ k.started (.cardComplete k.id)
  else
    when_ (!k.started) (.cardStart k.id) ++ when_ k.started (.cardComplete k.id) ++ [.cardPagePause k.id] ++
    when_ (k.started && k.kind == .collective) (.cardLineLands k.id 0) ++
    ((k.asks.filter (fun a => s.peerOverdue a.tag)).map (fun a => .peerTimeout a.tag)) ++
    (List.range ((s.unlanded k).length + (s.replays k.id).length)).map (fun i => .cardLineLands k.id i) ++
    (s.cardFaults k).map (fun c => .cardAbandon k.id c)

/-- The clusters whose transfer units serve replay packets (R258). -/
def State.replayClusters (s : State) : List Nat :=
  (s.crewList.filter (fun e => e.2.loc.isSome && !e.2.lineReplay.isEmpty)).map (·.2.cluster)

/-- Cards, tokens, hung engines and collectives that wait (R240, R260, R337). -/
def State.cardMoves (s : State) : List Instr :=
  (s.cards ++ s.crewList.flatMap (fun e => e.2.lineReplay.map (·.card))).flatMap s.cardMove ++
  ((s.cards.map (fun (k : Card) => k.core / 4) ++ s.replayClusters).dedup).map .tokenTick ++
  (((s.cards.map (·.core)).dedup).filter (fun c => (s.hungCard c).isSome)).map .engineHang ++
  s.insts.map (fun i => .collTimeout i.fn i.group i.inst)

/-- The event that begins a packet (Table 3-8). -/
def beginOf (fn q : Nat) (p : Packet) : List Instr :=
  match p.type with
  | 0 => [.pktNop fn q] | 1 => [.pktInstall fn q] | 2 => [.pktAppend fn q] | 3 => [.pktCopy fn q]
  | 4 => [.pktSignal fn q] | 5 => [.pktWait fn q] | 6 => [.pktFence fn q] | 7 => [.pktLink fn q]
  | 8 => [.pktTimestamp fn q] | _ => []

/-- How a packet that has begun goes on (R46 to R49). -/
def State.goesOn (s : State) (fn q : Nat) (p : Packet) : List Instr :=
  if !p.begun then []
  else if p.stalled then when_ (p.type == 1) (.installStallEnd fn q) ++ when_ (p.type == 2) (.appendStallEnd fn q)
  else
    .packetComplete fn q p.id :: when_ (p.type == 3 && decide (p.copied < p.size)) (.pktCopy fn q) ++
      when_ (p.type == 5 && p.copied == 0) (.waitReread fn q) ++
      (((p.ask.toList).filter (fun a => s.peerOverdue a.tag)).map (fun a => .peerTimeout a.tag))

/-- What a queue of a running function begins (R40, R44, R46). -/
def queueMoves (fn q : Nat) (x : Queue) : List Instr :=
  when_ x.reads (.slotRead fn q) ++ (match x.next with | some p => beginOf fn q p | none => []) ++ when_ x.drained.isSome (.segmentStallEnd fn q)

/-- What the front ends and the fault rings do for functions (R40 to R51, R350, R352). -/
def State.funcMoves (s : State) : List Instr :=
  s.funcs.flatMap (fun f =>
    (if s.fnRuns f.1 then f.2.queues.flatMap (fun e => (e.2.map (queueMoves f.1 e.1)).getD []) else []) ++
    f.2.queues.flatMap (fun e => (e.2.map (fun x => x.packets.flatMap (s.goesOn f.1 e.1))).getD []) ++
    f.2.leftovers.flatMap (fun p => s.goesOn f.1 p.queue p) ++
    when_ (!f.2.records.isEmpty && s.field (.frctl f.1) 31 1 == 1) (.faultRecordDrain f.1) ++
    when_ (f.2.written != 0) (.faultMsi f.1)) ++
  ((List.range 65).filter (fun f => s.field (.fstat f) 0 1 == 1)).map .flrTeardownDone

/-- Starts of crews on a core, for each of the 32 draws (R29, R64, R66). -/
def State.startMoves (s : State) (part fn core : Nat) : List Instr :=
  if s.startsFor core = some fn ∧ s.serves core = part then
    (if (s.startQueue core part fn).isSome then (List.range 32).map (.crewStart core) else []) ++
      (List.range (s.residentPoints core part fn).length).map (.residentCrewStart core)
  else []

/-- Walkers with a nest or a point entry (R53, R57, R61, R64). -/
def State.walkerMoves (s : State) : List Instr :=
  s.walkers.flatMap (fun e =>
    match s.walks e.1 with
    | none => []
    | some fn =>
      if e.2.nests.isEmpty && e.2.queues.isEmpty then []
      else
        when_ (firstOf e.2.opens (roundRobin e.2.rrOpen)).isSome (.rowOpen e.1) ++
        when_ (firstOf e.2.releasable (roundRobin e.2.rrRel)).isSome (.pointRelease e.1) ++
        ((List.range Config.nests).filter (fun i => (e.2.nest i).isSome && e.2.complete i)).map (.nestCompletion e.1) ++
        (List.range Config.cores).flatMap (s.startMoves e.1 fn))

/-- World switches, vacancy and lending (R72, R77, R78). -/
def State.partMoves (s : State) : List Instr :=
  (List.range s.parts').flatMap (fun p =>
    (match (s.part p).running with
    | none => when_ (s.anySlice p).isSome (.vacancyExit p)
    | some _ => if (s.part p).switching then [.worldSwitchDone p] else when_ (s.sliceOver p) (.worldSwitch p)) ++
    (if s.field (.pkitty p) 32 16 = 0 then []
    else
      ((s.kitty p).filter (fun k => s.kittyEmpty k && !(s.cluster k).idle)).map .kittyIdle ++
        when_ (s.borrower p).isSome (.kittyLend p))) ++
  (s.clusters.filter (fun k => k.2.revoking)).map (fun k => .revocationDone k.1)

/-- Commands of the hypervisor's registers that run (R80, R162, R192, R196, R301, R364), and channels. -/
def State.deviceMoves (s : State) : List Instr :=
  when_ (s.field .pcfg 31 1 == 1) .partsApplyDone ++ when_ (s.field .tlbi 63 1 == 1) .tlbiDone ++
  when_ (s.field .focmd 63 1 == 1) .focmdSetDone ++ when_ (s.field .lzctl 31 1 == 1) .lzctlDrainDone ++
  when_ s.fwBusy .fwCommandDone ++
  (List.range 16).flatMap (fun n =>
    if s.fwinBusy n then [if s.fwinOn n then Instr.fwinEnableDone n else .fwinDisableDone n] else []) ++
  s.wants.map (fun w => .sharedCacheFill w.fn w.pa) ++ ((s.hbmq.map (·.stack)).dedup).map .channelGrant ++
  (s.ports.filter (fun p => p.2.retraining)).map (fun p => .portRetrainDone p.1) ++
  (match s.rank with
  | none => []
  | some r => when_ ((s.reroutes r).any (fun _ => true) && !(s.reroutes r).any s.asks) (.routeRewrite 0)) ++
  (s.parked.filter (fun p => !s.peerWaits p)).map .peerRequest ++
  (List.range Config.hbmStacks).flatMap (fun k =>
    when_ (s.stackFails k) (.stackLost k) ++ when_ (s.scrubDue k) (.scrubSector k (s.scrubs.get k % 2 ^ 30 * 64) .good)) ++
  when_ (s.ready && s.packetBoundary) .stateTableCommit

/-- Events that units of the device may perform next. One whose condition does not hold changes nothing. -/
def State.moves (s : State) : List Instr :=
  s.writeMoves ++ s.loadMoves ++ s.crewMoves ++ s.cardMoves ++ s.funcMoves ++ s.walkerMoves ++ s.partMoves ++ s.deviceMoves

/-- The active complex commits the state table at each instant that is a packet boundary (R362). -/
def State.atBoundary (s : State) : State := if s.ready && s.packetBoundary then s.commitTable else s

/-- An error of the hardware may damage a sector, so that its check value fails (R272, log 78). -/
def damaged (m : FMap Word) (d : Nat × Word) : FMap Word := m.upd d.1 (fun c => if c = 0 then d.2 else c)

/-- The first read on its way finds its sector in the shared cache, by free choice: it asks no channel (R276). -/
def State.cacheHit (s : State) : State :=
  match s.wants with
  | [] => s
  | _ :: rest =>
    let (k, s1) := s.choose 2
    { s1 with wants := if k = 0 then rest else s1.wants }

/-- Time goes on by a free amount, at least one fabric cycle (R9, log 3); a packet boundary commits the state table, the ports send what waits for them, a rendezvous past its time faults (R114), and commits that are due are applied
(R310). -/
def State.tick (s : State) : State :=
  let s1 := s.atBoundary.post
  ({ s1 with
    fab := s.fab + 1 + Config.elapsed s.fresh, fresh := s.fresh + 1
    checks := damaged s1.checks (Config.damage s.fresh)
    parityChecks := damaged s1.parityChecks (Config.damageParity s.fresh) } : State).cacheHit.lateBands.applyDue

/-- A unit's event or an issue, by free choice; an issue where no unit has anything to do, or where units have gone
before runnable threads for long enough (R110). -/
def State.pickMove (s : State) : Option Instr × State :=
  match s.moves with
  | [] => (none, s)
  | ms =>
    if s.candidates.isEmpty then
      let (k, s1) := s.choose ms.length
      (ms[k]?, s1)
    else if Config.issueWithin ≤ s.lag then (none, s)
    else
      let (k, s1) := s.choose (ms.length + 1)
      (ms[k]?, { s1 with lag := s1.lag + 1 })

end Sys2Proof.Machine
end

