-- ==== Sys2Proof/Machine/Wake.lean ====
section
/-!
DEFINITION. When a waiting or held thread becomes runnable (Table 7-1): once its instruction, executed by it alone, would
neither wait nor be held. Table 7-1 gives the conditions; each is that of the instruction's own meaning.
-/
namespace Sys2Proof.Machine
open Sys2Proof

/-- A thread's instruction, executed by it alone, leaves it waiting or held. A commit that becomes prepared is progress, though
the thread waits until it is applied (R310). -/
def State.blocked (s : State) (r : ThreadRef) (t : Thread) : Bool :=
  match ({ s with cur := ⟨r.crew, [r.tid], t.pc, t.pc, s.nextId⟩ } : State).fetch with
  | (.fault _ _, _) => false
  | (.wait, _) => true
  | (.instr i, s1) =>
    match exec i s1 with
    | .next s2 => ((s2.thread r).map (fun u => stuck u.status && u.tx.prepared.isNone)).getD false
    | _ => false

/-- The status of a thread whose condition has cleared. -/
def Status.woken : Status → Status
  | .waitingSince n => .runnableSince n
  | _ => .runnable

/-- The status of a thread behind which no member of its issue stands any more. -/
def Status.alone : Status → Status
  | .behind isHeld _ => if isHeld then .held else .waiting
  | x => x

/-- A thread has an IO access or an atomic of the instruction at `pc` on its way, which accesses of later members of the issue
follow (R206, R212). -/
def State.orderedAt (s : State) (r : ThreadRef) (pc : Addr) : Bool :=
  s.loads.any (fun (l : Load) => l.who == r && l.pc == pc && (l.kind == .io || l.atomic)) ||
  s.writes.any (fun (w : Write) => w.by_ == .thread r && w.pc == pc && w.stage == .issued && (w.kind == .io || w.atom.isSome))

/-- No member of lower position of the thread's issue stands at the instruction any more, or has an access on its way that
goes first (R146, R205, R206, R212). -/
def State.inTurn (s : State) (crew : Nat) (t : Thread) : Bool :=
  match t.status with
  | .behind _ tids => !tids.any (fun k =>
      ((s.thread ⟨crew, k⟩).map (fun u => u.live && u.pc == t.pc)).getD false || s.orderedAt ⟨crew, k⟩ t.pc)
  | _ => true

/-- A thread that waits or is held becomes runnable once its turn has come and its condition has cleared; a held one keeps
its age (R105, R109). -/
def State.wakeThread (s : State) (crew tid : Nat) (t : Thread) : Thread :=
  if !stuck t.status || !s.inTurn crew t then t
  else if s.blocked ⟨crew, tid⟩ t then { t with status := t.status.alone }
  else { t with status := t.status.woken }

/-- Every thread of the running crews whose condition has cleared becomes runnable (R105). -/
def State.roused (s : State) : State :=
  { s with crews := s.crews.map (fun e => (e.1, e.2.map (fun c =>
      if c.issues then c.mapThreads (fun tid t => s.wakeThread e.1 tid t) else c))) }

end Sys2Proof.Machine
end

