-- ==== Sys2Proof/Machine/Step.lean ====
section
/-!
DEFINITION. One step of the machine: the first event of the agenda, or an event of a unit, or the issue of one
group; then time goes on.
-/
namespace Sys2Proof.Machine
open Sys2Proof

/-- Time goes on after a next state. -/
def ticked : Host.Outcome State Fault Refusal → Host.Outcome State Fault Refusal
  | .next s => .next s.tick
  | .fault r => .fault r
  | .refused r => .refused r

/-- Fetches and executes the instruction of the current group. -/
def issueGroup (s : State) : Host.Outcome State Fault Refusal :=
  match s.fetch with
  | (.instr i, s1) => exec i s1
  | (.wait, s1) => .next s1.groupWaits
  | (.fault c code, s1) => .next (s1.groupFault c code s1.cur.pc)

/-- The event that stands first on the agenda; without power only a power-on reset acts (R13, R366). -/
def runEvent (i : Instr) (s : State) : Host.Outcome State Fault Refusal :=
  if s.powered || i == .powerOnReset then exec i s else .next s

/-- One step. -/
def step (s : State) : Host.Outcome State Fault Refusal :=
  match s.agenda with
  | i :: rest => ticked (runEvent i { s with agenda := rest })
  | [] =>
    if !s.powered then .fault .noPower
    else
      match s.roused.pickMove with
      | (some i, s1) => ticked (exec i s1)
      | (none, s1) =>
        match s1.select with
        | none => ticked (.next s1)
        | some s2 => ticked (issueGroup s2)

/-- Address at which `withFetchWord` places an instruction: the start of the capacity tier, which has no frame
owner (R195), reached untranslated. -/
def codeBase : Nat := 0x100000000000

/-- A thread at its start (R30, R103). -/
def plainThread (pc : Addr) : Thread :=
  { pc := pc, pos := 0, regs := [], empty := [], preds := [], fibres := [], streams := [], status := .runnable
    age := 0, retired := false, unack := 0, unackNc := 0, errs := [], txthr := 8, dqsel := 0, txcause := 0
    tx := default }

/-- A resident crew of function 0 with one thread at `codeBase` and a whole core reserved. -/
def plainCrew : Crew :=
  { loc := some (0, 0), ran := 0, fn := 0, part := 0, nest := 0, point := default
    rcd := { (default : NestRec) with
      threads := 1, regs := 128, priv := 16, localBytes := Config.localBytes, accRows := Config.accRows
      copies := Config.copyEntries }
    threads := [(0, some (plainThread (BitVec.ofNat 64 codeBase)))]
    lmem := [], lzero := [], lclean := false, marks := [], acc := [], rowZero := [], rowReset := [], tiles := [], slots := [0], own := [], ownPa := [], backed := [], privSlot := some 0
    lbase := 0, frame := 0, save := none, fst := { (default : FrameInfo) with state := 1 }
    replay := [], lineReplay := [], cards := [], rend := [], holdsPoint := true, ended := false }

/-- The state with an instruction where the next step fetches: one resident crew whose one thread stands at
`codeBase`, nothing in flight (log 5). -/
def State.withFetchWord (s : State) (nbits w : Nat) : State :=
  { s with
    agenda := [], powered := true, loads := [], writes := [], deltas := [], cards := [], icache := [], tlb := [], veil := [], awake := [], taken := []
    pipes := [], yielded := [], rests := [], wants := []
    crews := [(1, some plainCrew)]
    home := s.home.setList codeBase (leBytes 16 (w % 2 ^ nbits)) }

end Sys2Proof.Machine
end

