-- ==== Sys2Proof/Safety.lean ====
section
/-!
DEFINITION. What a claim about every run may rest on, and the words that claims are made of: the invariant of the
memories, an issue group of one thread, and how much of the state a step may change.
-/
namespace Sys2Proof.Machine
open Sys2Proof

/-- The canonical form of the three memories: keys rise, and no entry holds what an unlisted byte reads as. -/
def State.memWf (s : State) : Bool := s.home.wf && s.msc.wf && s.parity.wf

/-- The invariant of the memories. -/
abbrev MemInv (s : State) : Prop := s.memWf = true

/-- A crew changes in its threads alone. -/
def Crew.SameBut (c c' : Crew) : Prop := c' = { c with threads := c'.threads }

/-- A state changes in the threads of its crews alone: no memory, no special register, no unit, no other part of a crew. -/
def State.SameBut (s t : State) : Prop :=
  t = { s with crews := t.crews } ∧
    ∀ c, match s.crew c, t.crew c with
      | some x, some y => x.SameBut y
      | none, none => True
      | _, _ => False

/-- A state changes in the one thread `r` alone. -/
def State.OnlyThread (s t : State) (r : ThreadRef) : Prop :=
  s.SameBut t ∧ ∀ q, q ≠ r → t.thread q = s.thread q

/-- The issue group is the one thread `r`, in state `th`, and stands ready to execute `i` (R84, R89): its guard is true
and every register that `i` names is full. -/
def State.Single (s : State) (r : ThreadRef) (th : Thread) (i : Instr) (g : Guard) : Prop :=
  s.cur.crew = r.crew ∧ s.cur.members = [r.tid] ∧ s.thread r = some th ∧ th.ready g (usesOf i) = .go

/-- What a member of a group becomes under an instruction that changes its own thread by `upd` (R84, R89, R107). -/
def memberUpd (i : Instr) (g : Guard) (upd : Thread → Thread) (next : Addr) (t : Thread) : Thread :=
  match t.ready g (usesOf i) with
  | .off => { t with pc := next, age := 0, status := .runnable }
  | .wait => { t with age := 0, status := .waiting }
  | .trap => t
  | .go => { upd t with pc := next, age := 0, status := .runnable }

end Sys2Proof.Machine
end

