-- ==== Sys2Proof/Certificates/Slice0/Obligations.lean ====
section
/-!
DEFINITION. The statements about the machine, for the provers.

Words used throughout: `State.Single s r th i g` (the issue group is the one thread `r` in state `th`, ready to execute
`i`), `State.OnlyThread s t r` (everything but the thread `r` is as before), `State.SameBut` (everything but threads is as
before). A statement that gives the next state as an explicit change of `s` thereby says that the rest is unchanged.
-/
namespace Sys2Proof.Machine
open Sys2Proof

/-! ## Results in a thread -/

/-- `exec i` answers a next state in which `r` alone has changed: it stands at the successor, its age restarts, register
`d` holds `v` (`gz` discards), and every other register is as before. -/
def WordResult (i : Instr) (s : State) (r : ThreadRef) (th : Thread) (d : BitVec 7) (v : Word) : Prop :=
  ∃ t u, exec i s = .next t ∧ s.OnlyThread t r ∧ t.thread r = some u ∧
    u = { th with regs := u.regs, pc := s.cur.next, age := 0, status := .runnable } ∧
    ∀ k, u.regs.get k = if d ≠ 127 ∧ k = d.toNat then v else th.regs.get k

/-- The same with a pair, its low half in register `d`. -/
def PairResult (i : Instr) (s : State) (r : ThreadRef) (th : Thread) (d : BitVec 7) (v : DWord) : Prop :=
  ∃ t u, exec i s = .next t ∧ s.OnlyThread t r ∧ t.thread r = some u ∧
    u = { th with regs := u.regs, pc := s.cur.next, age := 0, status := .runnable } ∧
    ∀ k, u.regs.get k =
      if d ≠ 127 ∧ k = d.toNat then v.extractLsb' 0 32
      else if d ≠ 127 ∧ k = d.toNat + 1 then v.extractLsb' 32 32
      else th.regs.get k

/-- A result of 32 or of 64 bits. -/
def BitsResult (i : Instr) (s : State) (r : ThreadRef) (th : Thread) (f : Fields) (v : DWord) : Prop :=
  if f.ty.is64 then PairResult i s r th f.d v else WordResult i s r th f.d (v.setWidth 32)

/-- An integer result modulo 2^w, for a type of 32 or 64 bits. -/
def IntResult (i : Instr) (s : State) (r : ThreadRef) (th : Thread) (f : Fields) (x : Int) : Prop :=
  BitsResult i s r th f (BitVec.ofInt 64 x)

/-- The same with predicate `d` (`pt` discards). -/
def PredResult (i : Instr) (s : State) (r : ThreadRef) (th : Thread) (d : BitVec 3) (v : Bool) : Prop :=
  ∃ t u, exec i s = .next t ∧ s.OnlyThread t r ∧ t.thread r = some u ∧
    u = { th with preds := u.preds, pc := s.cur.next, age := 0, status := .runnable } ∧
    ∀ k, u.preds.get k = if d ≠ 7 ∧ k = d.toNat then v else th.preds.get k

/-- The registers and predicates of a thread that goes on are as given; everything else of it is as before. -/
def ThreadResult (i : Instr) (s : State) (r : ThreadRef) (upd : Thread) : Prop :=
  exec i s = .next (s.putThread r { upd with pc := s.cur.next, age := 0, status := .runnable })

/-- What an integer instruction does to a thread that executes it. -/
def intEffect : Instr → Option (Fields × (Thread → Thread))
  | .iadd f => some (f, fun t => t.putInt f.d f.ty (valIadd t f))
  | .isub f => some (f, fun t => t.putInt f.d f.ty (valIsub t f))
  | .imul f => some (f, fun t =>
      if f.fn = 2 then t.setPair f.d (BitVec.ofInt 64 (valImul t f)) else t.putInt f.d f.ty (valImul t f))
  | .imad f => some (f, fun t =>
      if f.fn = 2 then t.setPair f.d (BitVec.ofInt 64 (valImad t f)) else t.putInt f.d f.ty (valImad t f))
  | .idiv f => some (f, fun t => t.putInt f.d f.ty (valIdiv t f))
  | .irem f => some (f, fun t => t.putInt f.d f.ty (valIrem t f))
  | .imin f => some (f, fun t => t.putInt f.d f.ty (valImin t f))
  | .imax f => some (f, fun t => t.putInt f.d f.ty (valImax t f))
  | .iabs f => some (f, fun t => t.putInt f.d f.ty (valIabs t f))
  | .lea f => some (f, fun t => t.setPair f.d (valLea t f))
  | .shl f => some (f, fun t => t.putInt f.d f.ty (valShl t f))
  | .shr f => some (f, fun t => t.putInt f.d f.ty (valShr t f))
  | .rot f => some (f, fun t => t.putRaw f.d f.ty.is64 (valRot t f))
  | .lop3 f => some (f, fun t => t.putRaw f.d f.ty.is64 (valLop3 t f))
  | .bfx f => some (f, fun t => t.putInt f.d f.ty (valBfx t f))
  | .bfi f => some (f, fun t => t.putRaw f.d f.ty.is64 (valBfi t f))
  | .popc f => some (f, fun t => t.setReg f.d (BitVec.ofNat 32 (valPopc t f)))
  | .clz f => some (f, fun t => t.setReg f.d (BitVec.ofNat 32 (valClz t f)))
  | .brev f => some (f, fun t => t.putRaw f.d f.ty.is64 (valBrev t f))
  | .bytep f => some (f, fun t => t.setReg f.d (valBytep t f))
  | .sel f => some (f, fun t => t.putRaw f.d f.ty.is64 (valSel t f))
  | .mov f => some (f, fun t => t.putRaw f.d f.ty.is64 (t.srcA f))
  | .movi f => some (f, fun t => t.putRaw f.d f.ty.is64 (immRaw f.ty f.ext))
  | .iaddc f => some (f, fun t =>
      (t.putInt f.d f.ty (sumIaddc t f)).setPred (f.fn.extractLsb' 3 3) (decide (2 ^ tyWidth f.ty ≤ sumIaddc t f)))
  | .idp4 f => some (f, fun t => t.putInt f.d f.ty (valIdp4 t f))
  | _ => none

/-- What a compare or predicate instruction, or one on a thread's own cursors, codes and states, does to a thread. -/
def threadEffect : Instr → Option (Fields × (Thread → Thread))
  | .icmp f => some (f, fun t => t.setPred (f.d.extractLsb' 0 3)
      (combine f.x (intCond (f.fn.toNat % 16) (t.intA f) (t.intB f)) (t.pred (f.fn.extractLsb' 4 3) != f.fn.getLsbD 7)))
  | .fcmp f => some (f, fun t => t.setPred (f.d.extractLsb' 0 3)
      (combine f.x (floatCond (f.fn.toNat % 16) (t.numA f) (t.numBi f)) (t.pred (f.fn.extractLsb' 4 3) != f.fn.getLsbD 7)))
  | .plop f => some (f, fun t => t.setPred (f.d.extractLsb' 0 3)
      (tableBit f.fn (t.pred (f.a.extractLsb' 0 3)) (t.pred (f.b.extractLsb' 0 3)) (t.pred (f.c.extractLsb' 0 3))))
  | .p2g f => some (f, fun t => t.setReg f.d (BitVec.ofNat 32 t.predBits))
  | .g2p f => some (f, fun t => (List.range 7).foldl (fun (u : Thread) i =>
      if (t.srcBi f .b32).getLsbD i then u.setPred (BitVec.ofNat 3 i) ((t.reg f.a).getLsbD i) else u) t)
  | .nop f => some (f, id)
  | .yield f => some (f, id)
  | .sets f => some (f, fun t =>
      if f.fn = 0x1C then { t with txthr := clampThr ((t.srcAi f .b32).setWidth 32) }
      else { t with dqsel := ((t.srcAi f .b32).setWidth 32).extractLsb' 0 2 })
  | .fadv f => some (f, fun t => t.putFibre f { t.fibre f with
      pos := BitVec.ofNat 32 (min ((t.fibre f).pos.toNat + (t.srcBi f .z32).toNat) (t.fibre f).len.toNat) })
  | .ftest f => some (f, fun t => t.setPred (f.d.extractLsb' 0 3) (t.fibre f).atEnd)
  | .fclose f => some (f, fun t => t.putFibre f default)
  | .stest f => some (f, fun t => t.setPred (f.d.extractLsb' 0 3) (t.stream f).atEnd)
  | .sclose f => some (f, fun t => t.putStream f default)
  | .txs f => some (f, fun t => t.setReg f.d t.txStatus)
  | _ => none

/-- What a floating-point instruction or a conversion does to a thread. -/
def numEffect : Instr → Option (Fields × (Thread → Thread))
  | .fadd f => some (f, fun t => t.putNum f (valFadd t f))
  | .fmul f => some (f, fun t => t.putNum f (valFmul t f))
  | .ffma f => some (f, fun t => t.putNum f (valFfma t f))
  | .fmin f => some (f, fun t => t.putNum f (valFmin t f))
  | .fmax f => some (f, fun t => t.putNum f (valFmax t f))
  | .frcp f => some (f, fun t => t.putNum f (approxOp frcpBits t f))
  | .frsq f => some (f, fun t => t.putNum f (approxOp frsqBits t f))
  | .fsqrt f => some (f, fun t => t.putNum f (valFsqrt t f))
  | .fexp2 f => some (f, fun t => t.putNum f (approxOp fexp2Bits t f))
  | .flog2 f => some (f, fun t => t.putNum f (approxOp flog2Bits t f))
  | .fsin f => some (f, fun t => t.putNum f (approxOp fsinBits t f))
  | .fcos f => some (f, fun t => t.putNum f (approxOp fcosBits t f))
  | .ftanh f => some (f, fun t => t.putNum f (approxOp ftanhBits t f))
  | .fdiv f => some (f, fun t => t.putNum f (valFdiv t f))
  | .hadd2 f => some (f, fun t => t.setReg f.d (valHadd2 t f))
  | .hmul2 f => some (f, fun t => t.setReg f.d (valHmul2 t f))
  | .hfma2 f => some (f, fun t => t.setReg f.d (valHfma2 t f))
  | .hdot2 f => some (f, fun t => t.setReg f.d (valHdot2 t f))
  | .fclass f => some (f, fun t => t.setReg f.d (BitVec.ofNat 32 (2 ^ valFclass t f)))
  | .frnd f => some (f, fun t => t.putNum f (valFrnd t f))
  | .cvti f => some (f, fun t => t.putInt f.d f.ty (valCvti t f))
  | .cvtf f => some (f, fun t => t.putNum f (valCvtf t f))
  | .qt8 f => some (f, fun t => t.setReg f.d (BitVec.ofNat 32 (valQt false t f)))
  | .qt6 f => some (f, fun t => t.setReg f.d (BitVec.ofNat 32 (valQt true t f)))
  | .dqt8 f => some (f, fun t => t.putNum f (valDqt false t f))
  | .dqt6 f => some (f, fun t => t.putNum f (valDqt true t f))
  | .amax f => some (f, fun t => t.setReg f.d (BitVec.ofNat 32 (valAmax t f)))
  | .fgete f => some (f, fun t => t.setReg f.d (valFgete t f))
  | .pack f => some (f, fun t => t.setReg f.d (valPack t f))
  | .unpk f => some (f, fun t => unpack t f)
  | _ => none

/-- Whether a register instruction names predicate `k` as a destination: the predicate in its field, or the ones that G2P
selects. -/
def predNamed (i : Instr) (f : Fields) (t : Thread) (k : Nat) : Bool :=
  match i with
  | .icmp _ | .fcmp _ | .plop _ | .ftest _ | .stest _ => k == (f.d.extractLsb' 0 3).toNat && k != 7
  | .iaddc _ => k == (f.fn.extractLsb' 3 3).toNat && k != 7
  | .g2p _ => decide (k < 7) && (t.srcBi f .b32).getLsbD k
  | _ => false

/-- A group of any size issues an instruction whose effect on each member is `upd`: the next state differs in the
members' threads alone, and each member is as `memberUpd` says. Members are distinct threads, and none of them meets
an empty source that traps. -/
def GroupChangesMembers (i : Instr) (g : Guard) (upd : Thread → Thread) : Prop :=
  ∀ s : State, s.cur.members.Nodup →
    (∀ tid ∈ s.cur.members, ∃ t, s.thread ⟨s.cur.crew, tid⟩ = some t ∧ t.ready g (usesOf i) ≠ .trap) →
    ∃ t, exec i s = .next t ∧ s.SameBut t ∧
      ∀ q, t.thread q =
        if q.crew = s.cur.crew ∧ q.tid ∈ s.cur.members then (s.thread q).map (memberUpd i g upd s.cur.next)
        else s.thread q


/-! ## Register instructions -/

/-- Integer instructions over groups of any size (R107, R121 to R128): each of the 25 completes, and changes only its
members' threads, each as its own effect says. -/
def IntegerGroupsChangeMembersOnly : Prop :=
  ∀ i f upd, intEffect i = some (f, upd) → GroupChangesMembers i f.g upd

/-- Compares, predicates, cursors and a thread's own registers over groups of any size (R107, R130, R131, R144, R217,
R218, R317). -/
def PredicateAndCursorGroupsChangeMembersOnly : Prop :=
  ∀ i f upd, threadEffect i = some (f, upd) → GroupChangesMembers i f.g upd

/-- Floating-point instructions and conversions over groups of any size (R107, R166 to R184). -/
def NumberGroupsChangeMembersOnly : Prop :=
  ∀ i f upd, numEffect i = some (f, upd) → GroupChangesMembers i f.g upd

/-- The frame of the 69 register instructions: a well-formed one leaves every register but its destinations, every
predicate but the one it names, and all else of the thread but what its own entry of the table is about. -/
def RegisterInstructionFrame : Prop :=
  ∀ i f upd, intEffect i = some (f, upd) ∨ threadEffect i = some (f, upd) ∨ numEffect i = some (f, upd) →
    i.wellFormed = true → ∀ t : Thread,
    upd t = { t with
      regs := (upd t).regs, preds := (upd t).preds
      fibres := if i = .fadv f ∨ i = .fclose f then (upd t).fibres else t.fibres
      streams := if i = .sclose f then (upd t).streams else t.streams
      txthr := if i = .sets f then (upd t).txthr else t.txthr
      dqsel := if i = .sets f then (upd t).dqsel else t.dqsel } ∧
    (∀ k, k ∉ (usesOf i).dst → (upd t).regs.get k = t.regs.get k) ∧
    (∀ k, predNamed i f t k = false → (upd t).preds.get k = t.preds.get k) ∧
    (∀ k, k ≠ cursorOf f → (upd t).fibres.get k = t.fibres.get k ∧ (upd t).streams.get k = t.streams.get k)

/-- R121: sums, differences, products, minimum, maximum and absolute value, for every type and form of each. -/
def IntegerResultsOfTable82 : Prop :=
  ∀ (f : Fields) (s : State) (r : ThreadRef) (th : Thread),
    let a := tyInt f.ty (th.srcA f)
    let b := tyInt f.ty (th.srcBi f f.ty)
    let sat (x : Int) : Int := if f.fn = 1 then max (tyMin f.ty) (min x (tyMax f.ty)) else x
    (s.Single r th (.iadd f) f.g → (Instr.iadd f).wellFormed = true → IntResult (.iadd f) s r th f (sat (a + b))) ∧
    (s.Single r th (.isub f) f.g → (Instr.isub f).wellFormed = true → IntResult (.isub f) s r th f (sat (a - b))) ∧
    (s.Single r th (.imul f) f.g → (Instr.imul f).wellFormed = true →
      if f.fn = 2 then PairResult (.imul f) s r th f.d (BitVec.ofInt 64 (a * b))
      else IntResult (.imul f) s r th f (if f.fn = 1 then a * b / 2 ^ tyWidth f.ty else a * b)) ∧
    (s.Single r th (.imad f) f.g → (Instr.imad f).wellFormed = true →
      let b' := tyInt f.ty (th.srcB f f.ty)
      let c := tyInt f.ty (th.srcCi f f.ty)
      let wide := if f.ext = .none then th.pair f.c
        else if f.ty = .s32 then f.ext.imm.signExtend 64 else f.ext.imm.setWidth 64
      if f.fn = 2 then PairResult (.imad f) s r th f.d (BitVec.ofInt 64 (a * b') + wide)
      else IntResult (.imad f) s r th f (sat (a * b' + c))) ∧
    (s.Single r th (.imin f) f.g → (Instr.imin f).wellFormed = true → IntResult (.imin f) s r th f (min a b)) ∧
    (s.Single r th (.imax f) f.g → (Instr.imax f).wellFormed = true → IntResult (.imax f) s r th f (max a b)) ∧
    (s.Single r th (.iabs f) f.g → (Instr.iabs f).wellFormed = true →
      IntResult (.iabs f) s r th f (sat (if a < 0 then -a else a))) ∧
    (s.Single r th (.lea f) f.g → (Instr.lea f).wellFormed = true →
      PairResult (.lea f) s r th f.d (th.pair f.a + BitVec.ofInt 64 (b * 2 ^ f.fn.toNat))) ∧
    (s.Single r th (.mov f) f.g → (Instr.mov f).wellFormed = true → BitsResult (.mov f) s r th f (th.srcA f)) ∧
    (s.Single r th (.movi f) f.g → (Instr.movi f).wellFormed = true → BitsResult (.movi f) s r th f (immRaw f.ty f.ext)) ∧
    (s.Single r th (.popc f) f.g → (Instr.popc f).wellFormed = true →
      WordResult (.popc f) s r th f.d
        (BitVec.ofNat 32 ((List.range (tyWidth f.ty)).filter (fun i => (th.srcA f).getLsbD i)).length)) ∧
    (s.Single r th (.clz f) f.g → (Instr.clz f).wellFormed = true → ∀ n ≤ tyWidth f.ty,
      (∀ i, tyWidth f.ty - n ≤ i → i < tyWidth f.ty → (th.srcA f).getLsbD i = false) →
      (n = tyWidth f.ty ∨ (th.srcA f).getLsbD (tyWidth f.ty - 1 - n) = true) →
      WordResult (.clz f) s r th f.d (BitVec.ofNat 32 n)) ∧
    (s.Single r th (.brev f) f.g → (Instr.brev f).wellFormed = true → ∀ x : DWord,
      (∀ i < tyWidth f.ty, x.getLsbD (tyWidth f.ty - 1 - i) = (th.srcA f).getLsbD i) →
      (∀ i, tyWidth f.ty ≤ i → x.getLsbD i = false) → BitsResult (.brev f) s r th f x) ∧
    (s.Single r th (.sel f) f.g → (Instr.sel f).wellFormed = true →
      BitsResult (.sel f) s r th f
        (if th.pred (f.fn.extractLsb' 0 3) != f.fn.getLsbD 3 then th.srcA f else th.srcBi f f.ty))

/-- R122: division truncates toward zero; by zero the quotient is all ones and the remainder a; min_TY / −1 gives min_TY
and 0. -/
def DivisionIsDefinedOnEveryOperand : Prop :=
  ∀ (f : Fields) (s : State) (r : ThreadRef) (th : Thread),
    let a := tyInt f.ty (th.srcA f)
    let b := tyInt f.ty (th.srcBi f f.ty)
    let q := if b = 0 then (if tySigned f.ty then -1 else tyMax f.ty)
      else if tySigned f.ty ∧ a = tyMin f.ty ∧ b = -1 then tyMin f.ty else a.tdiv b
    let m := if b = 0 then a else if tySigned f.ty ∧ a = tyMin f.ty ∧ b = -1 then 0 else a - a.tdiv b * b
    (s.Single r th (.idiv f) f.g → (Instr.idiv f).wellFormed = true → IntResult (.idiv f) s r th f q) ∧
    (s.Single r th (.irem f) f.g → (Instr.irem f).wellFormed = true → IntResult (.irem f) s r th f m)

/-- R123: shifts and rotations by a 32-bit unsigned count, bit by bit. -/
def ShiftsByAnyCount : Prop :=
  ∀ (f : Fields) (s : State) (r : ThreadRef) (th : Thread) (x : DWord),
    let w := tyWidth f.ty
    let n := (th.srcBi f .z32).toNat
    let a (i : Nat) : Bool := (th.srcA f).getLsbD i
    (s.Single r th (.shl f) f.g → (Instr.shl f).wellFormed = true →
      (∀ i < 64, x.getLsbD i = (decide (i < w) && decide (n ≤ i) && a (i - n))) → BitsResult (.shl f) s r th f x) ∧
    (s.Single r th (.shr f) f.g → (Instr.shr f).wellFormed = true →
      (∀ i < 64, x.getLsbD i =
        (decide (i < w) && if i + n < w then a (i + n) else tySigned f.ty && a (w - 1))) →
      BitsResult (.shr f) s r th f x) ∧
    (s.Single r th (.rot f) f.g → (Instr.rot f).wellFormed = true →
      (∀ i < 64, x.getLsbD i =
        (decide (i < w) && a ((if f.fn = 1 then i + n % w else i + (w - n % w)) % w))) →
      BitsResult (.rot f) s r th f x)

/-- R124: LOP3 looks each bit up in its table; PLOP indexes its own in the same way. -/
def TablesOfThreeInputs : Prop :=
  ∀ (f : Fields) (s : State) (r : ThreadRef) (th : Thread),
    (s.Single r th (.lop3 f) f.g → (Instr.lop3 f).wellFormed = true → ∀ x : DWord,
      (∀ i < 64, x.getLsbD i = f.fn.getLsbD (((th.srcA f).getLsbD i).toNat + 2 * ((th.srcB f f.ty).getLsbD i).toNat +
        4 * ((th.srcCi f f.ty).getLsbD i).toNat)) → BitsResult (.lop3 f) s r th f x) ∧
    (s.Single r th (.plop f) f.g → (Instr.plop f).wellFormed = true →
      PredResult (.plop f) s r th (f.d.extractLsb' 0 3)
        (f.fn.getLsbD ((th.pred (f.a.extractLsb' 0 3)).toNat + 2 * (th.pred (f.b.extractLsb' 0 3)).toNat +
          4 * (th.pred (f.c.extractLsb' 0 3)).toNat)))

/-- R127: IADDC adds with a carry from a predicate, and returns the carry to one. -/
def CarryFromAndToPredicates : Prop :=
  ∀ (f : Fields) (s : State) (r : ThreadRef) (th : Thread),
    s.Single r th (.iaddc f) f.g → (Instr.iaddc f).wellFormed = true →
    let w := tyWidth f.ty
    let a := (th.srcA f).toNat
    let b := (th.srcBi f f.ty).toNat
    let cin := if f.fn.extractLsb' 0 3 = 7 then 0 else (th.preds.get (f.fn.extractLsb' 0 3).toNat).toNat
    let x := a + (if f.fn.getLsbD 6 then 2 ^ w - 1 - b else b) + cin
    ∃ t u, exec (.iaddc f) s = .next t ∧ s.OnlyThread t r ∧ t.thread r = some u ∧
      u = { th with regs := u.regs, preds := u.preds, pc := s.cur.next, age := 0, status := .runnable } ∧
      (∀ k, u.regs.get k =
        if f.d ≠ 127 ∧ k = f.d.toNat then BitVec.ofNat 32 x
        else if f.d ≠ 127 ∧ f.ty = .z64 ∧ k = f.d.toNat + 1 then BitVec.ofNat 32 (x / 2 ^ 32)
        else th.regs.get k) ∧
      (∀ k, u.preds.get k =
        if f.fn.extractLsb' 3 3 ≠ 7 ∧ k = (f.fn.extractLsb' 3 3).toNat then decide (2 ^ w ≤ x) else th.preds.get k)

/-- R130: ICMP and FCMP compare and combine. `a.cmp b` orders two numbers exactly. -/
def ComparesWriteOnePredicate : Prop :=
  ∀ (f : Fields) (s : State) (r : ThreadRef) (th : Thread),
    let q := th.pred (f.fn.extractLsb' 4 3) != f.fn.getLsbD 7
    let comb (c : Bool) : Bool := if f.x = 0 then c else if f.x = 1 then c && q else if f.x = 2 then c || q else c != q
    let rel (k : Nat) (lt eq : Bool) : Bool :=
      if k = 0 then eq else if k = 1 then !eq else if k = 2 then lt else if k = 3 then lt || eq
      else if k = 4 then !lt && !eq else !lt
    let k := (f.fn.extractLsb' 0 4).toNat
    (s.Single r th (.icmp f) f.g → (Instr.icmp f).wellFormed = true →
      let a := tyInt f.ty (th.srcA f)
      let b := tyInt f.ty (th.srcBi f f.ty)
      PredResult (.icmp f) s r th (f.d.extractLsb' 0 3) (comb (rel k (decide (a < b)) (decide (a = b))))) ∧
    (s.Single r th (.fcmp f) f.g → (Instr.fcmp f).wellFormed = true →
      let a := numOf f.ty (th.reg f.a)
      let b := numOf f.ty ((th.srcBi f f.ty).setWidth 32)
      let nan := decide (a = .nan) || decide (b = .nan)
      let ord (k : Nat) : Bool := rel k (decide (a.cmp b < 0)) (decide (a.cmp b = 0))
      PredResult (.fcmp f) s r th (f.d.extractLsb' 0 3)
        (comb (if k = 6 then !nan else if k = 7 then nan else if k < 6 then !nan && ord k else nan || ord (k - 8))))

/-- R131: P2G gathers the predicates, G2P scatters the selected ones. -/
def PredicatesToAndFromRegisters : Prop :=
  ∀ (f : Fields) (s : State) (r : ThreadRef) (th : Thread),
    (s.Single r th (.p2g f) f.g → (Instr.p2g f).wellFormed = true → ∀ x : Word,
      (∀ i, x.getLsbD i = (decide (i < 7) && th.preds.get i)) → WordResult (.p2g f) s r th f.d x) ∧
    (s.Single r th (.g2p f) f.g → (Instr.g2p f).wellFormed = true →
      ∃ t u, exec (.g2p f) s = .next t ∧ s.OnlyThread t r ∧ t.thread r = some u ∧
        u = { th with preds := u.preds, pc := s.cur.next, age := 0, status := .runnable } ∧
        ∀ k, u.preds.get k =
          if k < 7 ∧ (th.srcBi f .b32).getLsbD k = true then (th.reg f.a).getLsbD k else th.preds.get k)

/-- R177: FMIN and FMAX return an operand unchanged or the canonical NaN; −0 lies below +0. -/
def MinimumAndMaximumOfNumbers : Prop :=
  ∀ (f : Fields) (s : State) (r : ThreadRef) (th : Thread) (isMax : Bool),
    let i : Instr := if isMax then .fmax f else .fmin f
    s.Single r th i f.g → i.wellFormed = true →
    let m := fmtOf f.ty
    let a := th.bitsA f
    let b := th.bitsB f
    let num := f.fn.getLsbD 6
    (m.decode a = .nan → m.decode b = .nan → WordResult i s r th f.d (BitVec.ofNat 32 m.nan)) ∧
    (m.decode a = .nan → m.decode b ≠ .nan → WordResult i s r th f.d (BitVec.ofNat 32 (if num then b else m.nan))) ∧
    (m.decode a ≠ .nan → m.decode b = .nan → WordResult i s r th f.d (BitVec.ofNat 32 (if num then a else m.nan))) ∧
    (m.decode a ≠ .nan → m.decode b ≠ .nan →
      let less := decide ((m.decode a).cmp (m.decode b) < 0) ||
        (decide ((m.decode a).cmp (m.decode b) = 0) && decide (m.sign true ≤ a) && decide (b < m.sign true))
      WordResult i s r th f.d (BitVec.ofNat 32 (if less = isMax then b else a)))

/-- R179: the special cases of the approximate functions on binary32 hold exactly, whatever the bits within the bounds
are. Other results are free (log 6). -/
def SpecialCasesOfApproximateFunctions : Prop :=
  ∀ (f : Fields) (s : State) (r : ThreadRef) (th : Thread), f.ty = .f32 →
    let a := th.bitsA f
    let mag := a % 2 ^ 31
    let go (i : Instr) (v : Nat) : Prop := s.Single r th i f.g → WordResult i s r th f.d (BitVec.ofNat 32 v)
    (0x7F800000 < mag → go (.frcp f) 0x7FC00000 ∧ go (.frsq f) 0x7FC00000 ∧ go (.fexp2 f) 0x7FC00000 ∧
      go (.flog2 f) 0x7FC00000 ∧ go (.fsin f) 0x7FC00000 ∧ go (.fcos f) 0x7FC00000 ∧ go (.ftanh f) 0x7FC00000) ∧
    (mag < 0x00200000 → go (.frcp f) (a - mag + 0x7F800000)) ∧ (mag = 0x7F800000 → go (.frcp f) (a - mag)) ∧
    (mag = 0 → go (.frsq f) (a + 0x7F800000)) ∧ (a = 0x7F800000 → go (.frsq f) 0) ∧
    (0x80000000 < a → a ≤ 0xFF800000 → go (.frsq f) 0x7FC00000 ∧ go (.flog2 f) 0x7FC00000) ∧
    (0x43000000 ≤ a → a ≤ 0x7F800000 → go (.fexp2 f) 0x7F800000) ∧
    (0xC3160000 ≤ a → a ≤ 0xFF800000 → go (.fexp2 f) 0) ∧
    (mag = 0 → go (.flog2 f) 0xFF800000) ∧ (a = 0x7F800000 → go (.flog2 f) a) ∧ (a = 0x3F800000 → go (.flog2 f) 0) ∧
    (mag < 0x3A000000 → go (.fsin f) a ∧ go (.ftanh f) a) ∧ (mag = 0x7F800000 → go (.fsin f) 0x7FC00000) ∧
    (mag = 0 → go (.fcos f) 0x3F800000) ∧ (mag = 0x7F800000 → go (.fcos f) 0x7FC00000) ∧
    (mag = 0x7F800000 → go (.ftanh f) (a - mag + 0x3F800000))

/-- R167: CVTI from an integer and from a floating-point source. -/
def ConversionsToIntegers : Prop :=
  ∀ (f : Fields) (s : State) (r : ThreadRef) (th : Thread),
    s.Single r th (.cvti f) f.g → (Instr.cvti f).wellFormed = true →
    let src := cvtSrc f
    let clamp (x : Int) : Int := max (tyMin f.ty) (min x (tyMax f.ty))
    let put (x : Int) : Prop :=
      if f.ty.is64 then PairResult (.cvti f) s r th f.d (BitVec.ofInt 64 x)
      else WordResult (.cvti f) s r th f.d (BitVec.ofInt 32 (tyInt f.ty (BitVec.ofInt 64 x)))
    (src.isFloat = false →
      let a := tyInt src (th.raw src.is64 f.a)
      put (if f.x = 1 then clamp a else a)) ∧
    (src.isFloat = true → numOf src (th.reg f.a) = .nan → put 0) ∧
    (src.isFloat = true → ∀ n, numOf src (th.reg f.a) = .inf n → put (if n then tyMin f.ty else tyMax f.ty)) ∧
    (src.isFloat = true → ∀ n m e, numOf src (th.reg f.a) = .fin n m e → put (clamp (intOf f.rm n m e)))

/-! ## Issue and control -/

/-- The instructions that each member of a group executes for itself: all but the collectives (R111), EXIT and TXC, which
end with something that concerns the crew or the group. -/
def perMember (i : Instr) : Option Fields :=
  match i with
  | .vote _ | .shfl _ | .matchLanes _ | .elect _ | .bred _ | .bscan _ | .fbred _ | .meld _ | .barc _ | .exit _ | .txc _ => none
  | _ => i.fields

/-- The thread goes on at `pc`, with nothing else of it changed. -/
def Thread.goesTo (t : Thread) (pc : Addr) : Thread := { t with pc := pc, age := 0, status := .runnable }


/-- R84, R89: the guard is looked at first, then the registers; only then does the instruction act. -/
def GuardThenRegistersThenExecution : Prop :=
  ∀ (i : Instr) (f : Fields) (s : State) (r : ThreadRef) (th : Thread), perMember i = some f →
    s.cur.crew = r.crew → s.cur.members = [r.tid] → s.thread r = some th →
    let u := usesOf i
    let on := (if f.g.pred = 7 then true else th.preds.get f.g.pred.toNat) != f.g.neg
    let empty (rs : List Nat) : Prop := ∃ k ∈ rs, th.empty.get k = true
    (on = false → exec i s = .next (s.putThread r (th.goesTo s.cur.next))) ∧
    (on = true → (empty u.dst ∨ ∃ x ∈ u.srcs, x.2 = false ∧ empty x.1) →
      exec i s = .next (s.putThread r { th with age := 0, status := .waiting })) ∧
    (on = true → ¬ empty u.dst → (∀ x ∈ u.srcs, x.2 = false → ¬ empty x.1) → (∃ x ∈ u.srcs, x.2 = true ∧ empty x.1) →
      exec i s = .next (s.raise r .emptyReg))

/-- R87: a write to `gz` or `pt` changes nothing, and they read as zero and true. -/
def ConstantRegistersReadTheSame : Prop :=
  ∀ (t : Thread) (i : BitVec 7) (v : Word) (d : DWord) (p : BitVec 3) (b : Bool),
    (t.setReg 127 v = t ∧ t.setPair 127 d = t ∧ t.reg 127 = 0 ∧ t.pair 127 = 0 ∧ t.setPred 7 b = t ∧ t.pred 7 = true) ∧
    (i ≠ 127 → (t.setReg i v).reg i = v) ∧ (i ≠ 127 → (t.setPair i d).pair i = d) ∧
    (∀ j, j ≠ i → (t.setReg i v).reg j = t.reg j) ∧
    (p ≠ 7 → (t.setPred p b).pred p = b) ∧ (∀ q, q ≠ p → (t.setPred p b).pred q = t.pred q)

/-- R138: branches take their targets; CALL writes its successor's address to D, having read A first. -/
def BranchesJumpToTheirTargets : Prop :=
  ∀ (f : Fields) (s : State) (r : ThreadRef) (th : Thread),
    let rel : Addr := th.pc + f.ext.imm.signExtend 64
    (s.Single r th (.bra f) f.g → exec (.bra f) s = .next (s.putThread r (th.goesTo rel))) ∧
    (s.Single r th (.brx f) f.g → exec (.brx f) s = .next (s.putThread r (th.goesTo (th.pair f.a)))) ∧
    (s.Single r th (.ret f) f.g → exec (.ret f) s = .next (s.putThread r (th.goesTo (th.pair f.a)))) ∧
    (s.Single r th (.call f) f.g → (Instr.call f).wellFormed = true →
      ∃ u : Thread, exec (.call f) s = .next (s.putThread r u) ∧
        u = { th with regs := u.regs, pc := if f.fn = 0 then rel else th.pair f.a, age := 0, status := .runnable } ∧
        (f.d ≠ 127 → u.pair f.d = s.cur.next) ∧
        ∀ k, k ∉ (usesOf (.call f)).dst → u.regs.get k = th.regs.get k)

/-- R139: RETIRE performs its release and sets the flag, EXIT retires first and leaves the crew. A retired thread's RETIRE
has no effect. The crew has ended once no thread of it lives. -/
def RetireAndExitEndAThread : Prop :=
  ∀ (f : Fields) (s : State) (r : ThreadRef) (th : Thread) (c : Crew), s.crew r.crew = some c →
    th.tx.state = .outside → (th.retired = true ∨ s.released r = true ∧ th.errs = []) →
    (s.Single r th (.retire f) f.g →
      exec (.retire f) s = .next (s.putThread r { th.goesTo s.cur.next with retired := true })) ∧
    (s.Single r th (.exit f) f.g →
      ∃ t : State, exec (.exit f) s = .next (t.settle s.cur.crew) ∧
        t = { s with crews := t.crews, loads := s.loads.filter (fun (l : Load) => l.who != r) } ∧
        t.thread r = some { th with status := .exited, age := 0, retired := true } ∧
        (∀ q, q ≠ r → t.thread q = s.thread q) ∧
        ∀ d, t.crew r.crew = some d →
          d = { c with threads := d.threads, ended := d.liveThreads.isEmpty })

/-- R140: SLEEP of n sleeps for n cycles of the core, SLEEP 0 has no effect, and a sleeper whose time has passed runs. -/
def SleepLastsItsCycles : Prop :=
  (∀ (f : Fields) (s : State) (r : ThreadRef) (th : Thread), s.Single r th (.sleep f) f.g →
    let n := (th.srcAi f .z32).toNat
    exec (.sleep f) s = .next (s.putThread r (if n = 0 then th.goesTo s.cur.next
      else { th with pc := s.cur.next, age := 0, status := .sleeping (s.fab + n * Config.fabPerCycle) }))) ∧
  (∀ (s : State) (crew tid w : Nat) (th : Thread), s.thread ⟨crew, tid⟩ = some th → th.status = .sleeping w →
    exec (.sleepExpire crew tid) s =
      .next (if w ≤ s.fab then s.putThread ⟨crew, tid⟩ { th with status := .runnable, age := 0 } else s))

/-- R141, R276: WAITA on a local word asks for it and reads it at its home slice; a word that differs from b goes to D and, under `.acq`, an
acquire follows; a word that equals b leaves the thread asleep with D empty. Its re-reads do the same. -/
def WaitaWakesOnADifferentWord : Prop :=
  (∀ (f : Fields) (s s1 : State) (r : ThreadRef) (th : Thread) (c : Crew) (tg : Target),
    s.Single r th (.waita f) f.g → s.crew r.crew = some c → th.tx.state = .outside →
    (th.globalAddr f).toNat % tyBytes f.ty = 0 →
    s.translate c.cluster c.fn (th.globalAddr f).toNat .read false = (.ok tg, s1) →
    s1.viewBusy tg.pa = false → tg.peer = false → s1.acqPending r = false → (tg.kind = .io → s1.ioBusy r = false) →
    (s1.arenaOf c.fn (th.globalAddr f).toNat).isNone = true → s1.writePending r tg.pa (tyBytes f.ty) = false → s1.marked (tg.pa / 128) (some r) true = false →
    s1.homeBusy tg.pa = false → s1.ownedBy (ownerCode c.fn) tg.pa = true → s1.runBad tg.pa (tyBytes f.ty) = false →
    let v := s1.valueAt tg.pa (tyBytes f.ty)
    let b := th.srcB f f.ty
    let acq := if f.rm = 1 then f.sc else .none
    let d := waitaRegs (tyBytes f.ty) f.d.toNat
    let s2 := s1.want c.fn 0 tg.pa (tyBytes f.ty)
    exec (.waita f) s = .next (
      if BitVec.ofNat 64 v = b then
        s2.onThread r (fun t => { t.mark d true with
          age := 0, status := .waita (th.globalAddr f).toNat tg.pa (tyBytes f.ty) b f.d.toNat acq s.cur.next })
      else (s2.onThread r (fun t => ((t.setRegs f.d.toNat
        (if tyBytes f.ty = 8 then [BitVec.ofNat 32 v, BitVec.ofNat 32 (v / 2 ^ 32)] else [BitVec.ofNat 32 v])).mark d
          false).goesTo s.cur.next)).acquire r acq)) ∧
  (∀ (s : State) (r : ThreadRef) (th : Thread) (c : Crew) (va pa width d : Nat) (b : DWord) (acq : Scope) (next : Addr),
    s.thread r = some th → s.crew r.crew = some c → th.status = .waita va pa width b d acq next →
    c.loc.isSome = true → c.save = none → s.isPeer pa = false → s.homeBusy pa = false →
    (regionOf pa = .view → (s.viewOf pa).isSome = true) → s.marked (pa / 128) (some r) true = false →
    s.ownedBy (ownerCode c.fn) pa = true → s.runBad pa width = false → (s.arenaOf c.fn va).isNone = true →
    let v := s.valueAt pa width
    let s2 := s.want c.fn 0 pa width
    exec (.waitaReread r.crew r.tid) s = .next (
      if BitVec.ofNat 64 v = b then
        s2.onThread r (fun t => { t.mark (waitaRegs width d) true with age := 0, status := .waita va pa width b d acq next })
      else (s2.onThread r (fun t => ((t.setRegs d
        (if width = 8 then [BitVec.ofNat 32 v, BitVec.ofNat 32 (v / 2 ^ 32)] else [BitVec.ofNat 32 v])).mark
          (waitaRegs width d) false).goesTo next)).acquire r acq))

/-- R142, R107, R344: TRAP and BRK suspend the crew with their causes at their own address: the thread stands still, and
the crew's save keeps the cause, the code, the thread and its address, and where SKIP would go on. -/
def TrapAndBrkSuspendTheCrew : Prop :=
  ∀ (f : Fields) (s : State) (r : ThreadRef) (th : Thread) (c : Crew), s.crew r.crew = some c → c.save = none →
    th.tx.state ≠ .transactional →
    let saved (cause : Cause) (code : Nat) : State :=
      (s.putThread r { th with age := 0, status := .runnable }).onCrew r.crew (fun d => { d with save := some {
        kind := 2, cause := cause, code := code, tid := some r.tid, pc := th.pc, faddr := 0, faulters := [r.tid]
        next := s.cur.next, deferred := false, dest := [] } })
    (s.Single r th (.trap f) f.g → exec (.trap f) s = .next (saved .trap (f.ext.imm.toNat % 256))) ∧
    (s.Single r th (.brk f) f.g → exec (.brk f) s = .next (saved .brk 0))

/-- R143, R144: GETS reads what Table 8-7 gives for its number; SETS clamps %txthr and keeps two bits of %dqsel. -/
def SpecialRegistersReadAndWritten : Prop :=
  ∀ (f : Fields) (s : State) (r : ThreadRef) (th : Thread) (c : Crew), s.crew r.crew = some c →
    (s.Single r th (.gets f) f.g → (Instr.gets f).wellFormed = true →
      let n := f.fn.toNat
      let word (v : Nat) : Prop := WordResult (.gets f) s r th f.d (BitVec.ofNat 32 v)
      (n = 0 → word r.tid) ∧ (n = 1 → word th.pos) ∧ (n = 2 → word ((c.loc.map (·.2)).getD 0)) ∧
      (n = 3 → word ((c.loc.map (·.1)).getD 0)) ∧ (n = 4 → word ((c.loc.map (·.1)).getD 0 / 4)) ∧
      (n = 5 → word c.part) ∧ (n = 6 → word c.nest) ∧
      (8 ≤ n → n < 12 →
        WordResult (.gets f) s r th f.d (if n - 8 < c.rcd.walk then c.point.coords.getD (n - 8) 0 else 0)) ∧
      (12 ≤ n → n < 16 → WordResult (.gets f) s r th f.d (BitVec.ofInt 32 (s.crewBounds c (n - 12)).1)) ∧
      (16 ≤ n → n < 20 → WordResult (.gets f) s r th f.d (BitVec.ofInt 32 (s.crewBounds c (n - 16)).2)) ∧
      (n = 0x18 → PairResult (.gets f) s r th f.d (BitVec.ofNat 64 ((s.fab - s.coreReset) / Config.fabPerCycle))) ∧
      (n = 0x19 → PairResult (.gets f) s r th f.d (BitVec.ofNat 64 (s.fab / Config.fabPerTick))) ∧
      (n = 0x1A → WordResult (.gets f) s r th f.d ((s.genTag c.core c.context).setWidth 32)) ∧
      (n = 0x1B → WordResult (.gets f) s r th f.d th.txcause) ∧ (n = 0x1C → WordResult (.gets f) s r th f.d th.txthr) ∧
      (n = 0x1D → WordResult (.gets f) s r th f.d (th.dqsel.setWidth 32))) ∧
    (s.Single r th (.sets f) f.g → (Instr.sets f).wellFormed = true →
      let v : Word := if f.ext = .none then th.reg f.a else f.ext.imm
      exec (.sets f) s = .next (s.putThread r
        (if f.fn = 0x1C then { th.goesTo s.cur.next with txthr := BitVec.ofNat 32 (max 4 (min v.toNat 64)) }
        else { th.goesTo s.cur.next with dqsel := v.extractLsb' 0 2 })))

/-! ## Collectives -/

/-- The band collectives, and the crew collectives (R111). -/
def bandColl : Instr → Option Fields
  | .vote f => some f
  | .shfl f => some f
  | .matchLanes f => some f
  | .elect f => some f
  | .bred f => some f
  | .bscan f => some f
  | .fbred f => some f
  | _ => none

/-- A thread as it stands at the rendezvous of `i`. -/
def arrived (i : Instr) (active : Bool) (t : Thread) : Thread := { t with status := .rendezvous i active, age := 0 }

/-- The active participants among threads that arrive at `i`. -/
def partsOf (i : Instr) (g : Guard) (ts : List (Nat × Thread)) : List Part :=
  (ts.filter (fun t => t.2.ready g (usesOf i) == .go)).map (fun t => ⟨t.2.pos % 32, t.1, arrived i true t.2⟩)

/-- What a participant is after the collective took effect: its effect if it was active, and the successor in any case. -/
def afterColl (i : Instr) (g : Guard) (ps : List Part) (t : Thread) : Thread :=
  (if t.ready g (usesOf i) = .go then collEffect i ps (arrived i true t) else t).goesTo (successor t.pc i.bytes)

/-- A next state in which a group's crew changes in its threads and in the time of a rendezvous alone. -/
def State.CollectiveFrame (s t : State) (c : Crew) : Prop :=
  t = { s with crews := t.crews } ∧ (∀ d, d ≠ s.cur.crew → t.crew d = s.crew d) ∧
    ∃ d, t.crew s.cur.crew = some d ∧ d = { c with threads := d.threads, rend := d.rend }


/-- R111, R112: a group that is every live thread of its band completes a band collective: it takes effect for all
participants at once, a thread whose guard is false contributes nothing and writes nothing, and each goes on at its
successor. The other bands of the crew are not complete. (The thread table is in its canonical form: `CrewsWf`.) -/
def BandCollectiveCompletes : Prop :=
  ∀ (i : Instr) (f : Fields) (s : State) (c : Crew) (b : Nat) (pc : Addr), bandColl i = some f →
    s.crew s.cur.crew = some c → c.threads.wf = true → b < 32 →
    let band := c.liveThreads.filter (fun t => t.2.pos / 32 == b)
    band ≠ [] → s.cur.members.Nodup → (∀ tid, tid ∈ s.cur.members ↔ tid ∈ band.map (·.1)) →
    (∀ t ∈ band, t.2.pc = pc ∧ (t.2.ready f.g (usesOf i) = .go ∨ t.2.ready f.g (usesOf i) = .off)) →
    (∀ k, k ≠ b → (∀ t ∈ c.liveThreads, t.2.pos / 32 ≠ k) ∨
      ∃ t ∈ c.liveThreads, t.2.pos / 32 = k ∧ atRendezvous t.2 = none) →
    ∃ t, exec i s = .next t ∧ s.CollectiveFrame t c ∧
      ∀ q, t.thread q =
        if q.crew = s.cur.crew ∧ q.tid ∈ s.cur.members then (s.thread q).map (afterColl i f.g (partsOf i f.g band))
        else s.thread q

/-- R111, R114: a group that arrives while other live threads of its band have not come waits at rendezvous, and nothing
else happens. -/
def IncompleteCollectiveHasNoEffect : Prop :=
  ∀ (i : Instr) (f : Fields) (s : State) (r : ThreadRef) (th : Thread) (c : Crew), bandColl i = some f →
    s.Single r th i f.g → s.crew r.crew = some c → c.threads.wf = true →
    (∀ k, (∀ t ∈ c.liveThreads, t.2.pos / 32 ≠ k) ∨
      ∃ t ∈ c.liveThreads, t.1 ≠ r.tid ∧ t.2.pos / 32 = k ∧ atRendezvous t.2 = none) →
    ∃ t, exec i s = .next t ∧ s.CollectiveFrame t c ∧
      ∀ q, t.thread q = if q = r then some (arrived i true th) else s.thread q

/-- R133, R134: what a completed collective gives an active participant, lane by lane. -/
def CollectiveResultsByLane : Prop :=
  ∀ (f : Fields) (ps : List Part) (t : Thread) (k : Nat),
    let own (p : Part) : DWord := p.thread.srcA f
    let votes (p : Part) : Bool := p.thread.pred (f.a.extractLsb' 0 3) != f.a.getLsbD 3
    let d := (f.d.extractLsb' 0 3)
    (∀ p ∈ ps, p.lane < 32) → d ≠ 7 → f.d ≠ 127 →
    (f.fn = 0 → ((collEffect (.vote f) ps t).pred d = true ↔ ∀ p ∈ ps, votes p = true)) ∧
    (f.fn = 1 → ((collEffect (.vote f) ps t).pred d = true ↔ ∃ p ∈ ps, votes p = true)) ∧
    (f.fn = 2 → ((collEffect (.vote f) ps t).pred d = true ↔ (∀ p ∈ ps, ∀ q ∈ ps, votes p = votes q))) ∧
    (f.fn = 3 → k < 32 → (((collEffect (.vote f) ps t).reg f.d).getLsbD k = true ↔ ∃ p ∈ ps, p.lane = k ∧ votes p = true)) ∧
    ((collEffect (.elect f) ps t).pred d = true ↔ ∀ p ∈ ps, t.pos % 32 ≤ p.lane) ∧
    (f.fn = 0 → k < 32 → (((collEffect (.matchLanes f) ps t).reg f.d).getLsbD k = true ↔
      ∃ p ∈ ps, p.lane = k ∧ own p = t.srcA f)) ∧
    (f.fn.extractLsb' 0 2 = 0 → f.ty.is64 = false → ∀ p, ps.Pairwise (fun a b => a.lane ≠ b.lane) → p ∈ ps →
      (let seg := 32 / 2 ^ (f.fn.extractLsb' 2 3).toNat
       p.lane = t.pos % 32 / seg * seg + (t.srcBi f .b32).toNat % 2 ^ 32 % seg) →
      (collEffect (.shfl f) ps t).reg f.d = (own p).setWidth 32) ∧
    (f.fn = 0 → f.ty = .z32 → (collEffect (.bred f) ps t).reg f.d =
      ps.foldl (fun (acc : Word) p => acc + p.thread.reg f.a) 0)

/-- R111, R136: BARC by a group that is every live thread of its crew completes, its `.ar` form after each member's
release; `.count` gives every active participant the number of them whose predicate is true. -/
def CrewBarrierCompletes : Prop :=
  ∀ (f : Fields) (s : State) (c : Crew) (pc : Addr),
    s.crew s.cur.crew = some c → c.threads.wf = true → c.liveThreads ≠ [] →
    s.cur.members.Nodup → (∀ tid, tid ∈ s.cur.members ↔ tid ∈ c.liveThreads.map (·.1)) →
    (∀ t ∈ c.liveThreads, t.2.pc = pc ∧ t.2.pos / 32 < 32 ∧
      (t.2.ready f.g (usesOf (.barc f)) = .off ∨ t.2.ready f.g (usesOf (.barc f)) = .go ∧
        (f.sc = .none ∨ t.2.tx.state ≠ .transactional ∧ t.2.errs = [] ∧ s.released ⟨s.cur.crew, t.1⟩ = true))) →
    ∃ t, exec (.barc f) s = .next t ∧ s.CollectiveFrame t c ∧
      ∀ q, t.thread q =
        if q.crew = s.cur.crew ∧ q.tid ∈ s.cur.members then
          (s.thread q).map (afterColl (.barc f) f.g (partsOf (.barc f) f.g c.liveThreads))
        else s.thread q

/-- R116, R136: MELD by a group that is every live thread of its crew gives the threads the positions of a stable sort by
key, an inactive contributor's key being 0; an active participant's D takes its new position, and nothing else of a
thread changes but its address. (That this holds when every contributor is inactive is log 94.) -/
def MeldSortsTheCrew : Prop :=
  ∀ (f : Fields) (s : State) (c : Crew) (pc : Addr),
    s.crew s.cur.crew = some c → c.threads.wf = true → c.liveThreads ≠ [] →
    s.cur.members.Nodup → (∀ tid, tid ∈ s.cur.members ↔ tid ∈ c.liveThreads.map (·.1)) →
    c.liveThreads.Pairwise (fun t u => t.2.pos ≠ u.2.pos) →
    (∀ t ∈ c.liveThreads, t.2.pc = pc ∧ t.2.pos / 32 < 32 ∧
      (t.2.ready f.g (usesOf (.meld f)) = .go ∨ t.2.ready f.g (usesOf (.meld f)) = .off)) →
    let key (t : Thread) : Nat := if t.ready f.g (usesOf (.meld f)) = .go then (t.reg f.a).toNat else 0
    ∃ t, ∃ place : Nat → Nat, exec (.meld f) s = .next t ∧ s.CollectiveFrame t c ∧
      (∀ q, t.thread q =
        if q.crew = s.cur.crew ∧ q.tid ∈ s.cur.members then (s.thread q).map (fun th =>
          let u := if th.ready f.g (usesOf (.meld f)) = .go then th.setReg f.d (BitVec.ofNat 32 (place q.tid)) else th
          { u.goesTo (successor th.pc (Instr.meld f).bytes) with pos := place q.tid })
        else s.thread q) ∧
      (∀ x ∈ c.liveThreads, place x.1 < c.liveThreads.length) ∧
      ∀ x ∈ c.liveThreads, ∀ y ∈ c.liveThreads,
        (place x.1 < place y.1 ↔ key x.2 < key y.2 ∨ key x.2 = key y.2 ∧ x.2.pos < y.2.pos)

/-- R114: a crew whose rendezvous has stood for 2^20 of its cycles faults BANDWAIT at its lowest-positioned waiting
thread. -/
def LateRendezvousFaultsBandwait : Prop :=
  ∀ (s : State) (n k at_ : Nat) (c : Crew) (tid : Nat) (th : Thread), s.crew n = some c → c.loc.isSome = true →
    c.save = none → (k, some at_) ∈ c.rend → at_ + 2 ^ 20 * Config.fabPerCycle ≤ s.fab →
    lowestWaiting c = some (tid, th) →
    exec (.bandwaitTimeout n) s = .next (s.putCrew n { c with save := some {
      kind := 2, cause := .bandWait, code := 0, tid := some tid, pc := th.pc, faddr := 0, faulters := [], next := 0
      deferred := false, dest := [] } })

/-! ## Memory -/

/-- One ready thread's access of `n` bytes to global memory passes its checks (R185 to R197): the address is aligned, the
translation permits it and leaves state `s1` (its TLB entry, the A and D bits), and no format window is changing. -/
def State.Access (s s1 : State) (r : ThreadRef) (th : Thread) (i : Instr) (f : Fields) (n : Nat) (need : Need)
    (atomic : Bool) (c : Crew) (tg : Target) : Prop :=
  s.Single r th i f.g ∧ s.crew r.crew = some c ∧ (th.globalAddr f).toNat % n = 0 ∧
    s.translate c.cluster c.fn (th.globalAddr f).toNat need atomic = (.ok tg, s1) ∧ s1.viewBusy tg.pa = false

/-- The thread stands outside a transaction and does not hold the trump. -/
def Thread.Plain (t : Thread) : Prop := t.tx.state = .outside ∨ t.tx.state = .queued

/-- A run of bytes holds an address. -/
def inRun (a pa : Nat) (bytes : List Byte) : Bool := decide (pa ≤ a) && decide (a < pa + bytes.length)

/-- The byte of a stripe's parity that pending deltas will still change (R263). -/
def deltaByte (d : Delta) (stripe b : Nat) : Byte :=
  if d.stripe = stripe ∧ d.off ≤ b ∧ b < d.off + d.bytes.length then d.bytes.getD (b - d.off) 0 else 0

/-- Every parity byte, with the deltas still on their way, is the exclusive-or of the eleven data bytes of its stripe
(R263). -/
def ParityMatches (s : State) : Prop :=
  ∀ stripe b, b < 2048 →
    s.deltas.foldl (fun acc d => acc ^^^ deltaByte d stripe b) (s.parity.get (parityKey stripe b)) =
      (List.range 11).foldl (fun acc i => acc ^^^ s.msc.get (stripeAddr stripe i b)) 0


/-- The state after a load has issued from `s1`: the read in flight, with the bytes that the L1 has given it, if it has; its
destinations empty; its thread at the successor. -/
def State.loadIssued (s1 : State) (r : ThreadRef) (th : Thread) (f : Fields) (tg : Target) (hit : Option (List Byte)) : State :=
  let l : Load := { mkLoad s1.nextId r th f (if tg.peer then .peer else .global) (th.globalAddr f).toNat tg.pa with
    form := if th.tx.state = .irrevocable then 2 + f.fn.toNat % 2 else f.fn.toNat, kind := tg.kind
    acq := if f.rm = 1 then f.sc else .none, grp := s1.cur.grp, data := hit
    tag := s1.tagFor tg.peer, sent := s1.fab }
  ({ s1 with nextId := s1.nextId + 1, loads := s1.loads ++ [l] } : State).onThread r
    (fun t => (t.mark l.regs true).goesTo s1.cur.next)

/-- The line of its core's L1 that holds every byte of a load (R193). -/
def State.l1Holds (s : State) (c : Crew) (th : Thread) (f : Fields) : Option L1Line :=
  (s.l1Find c.core c.fn (th.globalAddr f).toNat).filter (fun (x : L1Line) =>
    x.holds ((th.globalAddr f).toNat % 128) (tyBytes f.ty * vecCount f.x))

/-- R193, R204, R206, R285, R319: a LD outside a transaction that misses the L1, that `.home`, its acquire or the trump sends to
the home slice, or that an earlier read of the same bytes precedes, and that passes its checks leaves a read in flight: the thread goes on with the destinations empty, and nothing else changes
beyond what the translation did. One whose bytes the L1 holds, at an address outside living crews' private slots, issues with those
bytes and no translation; the line may instead have been evicted before, and then it issues as a miss. -/
def GlobalLoadIssues : Prop :=
  ∀ (f : Fields) (s s1 : State) (r : ThreadRef) (th : Thread) (c : Crew) (tg : Target),
    th.tx.state ≠ .transactional →
    (f.fn = 2 ∨ wideScope (if f.rm = 1 then f.sc else .none) = true ∨ th.tx.state = .irrevocable ∨
      (∀ x, s.l1Holds c th f = some x → s.readPending r .global
        (x.pline * 128 + (th.globalAddr f).toNat % 128) (tyBytes f.ty * vecCount f.x) = true) →
      s.Access s1 r th (.ld f) f (tyBytes f.ty * vecCount f.x) .read false c tg → s1.acqPending r = false →
      exec (.ld f) s = .next (s1.loadIssued r th f tg none)) ∧
    (∀ x, s.Single r th (.ld f) f.g → s.crew r.crew = some c →
      (th.globalAddr f).toNat % (tyBytes f.ty * vecCount f.x) = 0 → s.l1Holds c th f = some x → f.fn ≠ 2 →
      (s.arenaOf c.fn (th.globalAddr f).toNat).isNone = true →
      wideScope (if f.rm = 1 then f.sc else .none) = false → th.tx.state ≠ .irrevocable → s.acqPending r = false →
      s.readPending r .global (x.pline * 128 + (th.globalAddr f).toNat % 128) (tyBytes f.ty * vecCount f.x) = false →
      let evicted : State := ({ s with fresh := s.fresh + 1 } : State).dropL1
        (fun (y : L1Line) => y.core == c.core && y.pline == x.pline)
      evicted.translate c.cluster c.fn (th.globalAddr f).toNat .read false = (.ok tg, s1) → s1.viewBusy tg.pa = false →
      exec (.ld f) s = .next (({ s with fresh := s.fresh + 1 } : State).loadIssued r th f
          ⟨x.pline * 128 + (th.globalAddr f).toNat % 128, x.kind, false⟩
          (some (x.data.getList ((th.globalAddr f).toNat % 128) (tyBytes f.ty * vecCount f.x)))) ∨
        exec (.ld f) s = .next (s1.loadIssued r th f tg none))

/-- R205, R283, R287: a ST outside a transaction that passes its checks, under `.rel` with its release done, leaves a write in
flight that counts against its thread and updates the core's L1 copy of its line, and the thread goes on. Memory is as
before: the write is performed later. (The store is not to the private slot of a living crew, R187.) -/
def GlobalStoreIssues : Prop :=
  ∀ (f : Fields) (s s1 : State) (r : ThreadRef) (th : Thread) (c : Crew) (tg : Target),
    let n := (th.storeBytes f).length
    s.Access s1 r th (.st f) f n .write false c tg →
    th.tx.state ≠ .transactional → s1.acqPending r = false → (s1.arenaOf c.fn (th.globalAddr f).toNat).isNone = true →
    s1.readPending r (if tg.peer then .peer else .global) tg.pa n = false →
    (f.rm = 2 → s1.released r = true ∧ th.errs = []) →
    let bytes := s1.viewDrop tg.pa (th.storeBytes f)
    let w : Write := {
      id := s1.nextId, by_ := .thread r, owner := ownerCode c.fn, space := if tg.peer then .peer else .global
      va := (th.globalAddr f).toNat, pa := tg.pa, bytes := bytes, kind := tg.kind, stage := .issued, atom := none
      lazy := s1.lazyFor c.fn, pc := th.pc, grp := s1.cur.grp, tag := s1.tagFor tg.peer, sent := s1.fab, old := none
      core := some c.core, lzbit := s1.lazyBit (ownerCode c.fn), stamp := s1.stampOf (ownerFn (ownerCode c.fn)) 0 }
    exec (.st f) s = .next
      (((({ s1 with nextId := s1.nextId + 1, writes := s1.writes ++ [w] } : State).onThread r
        (fun t => if tg.kind = .nc then { t with unackNc := t.unackNc + 1 } else { t with unack := t.unack + 1 })).l1Store
          c.core tg.pa bytes).onThread r (fun t => t.goesTo s1.cur.next))

/-- R198, R204, R205: an aligned local access inside the extent, at lines that are full or with `nowait`, completes: LDS reads
the crew's own bytes, and STS changes exactly the bytes that it names, where no barrier object with updates to come is met
(R256). That a load takes its bytes at issue is the model's reading (log 7). -/
def LocalAccessesReadAndWriteTheirCrew : Prop :=
  ∀ (f : Fields) (s : State) (r : ThreadRef) (th : Thread) (c : Crew), s.crew r.crew = some c →
    let a := th.localAddr f
    let n := tyBytes f.ty * vecCount f.x
    a % n = 0 → a + n ≤ c.rcd.localBytes → (f.fn.getLsbD 0 = true ∨ s.localEmpty r.crew a n = false) →
    s.acqPending r = false →
    (s.Single r th (.lds f) f.g →
      let l : Load := { mkLoad s.nextId r th f .localMem a a with data := some (c.localBytes r.crew a n) }
      exec (.lds f) s = .next (({ s with nextId := s.nextId + 1, loads := s.loads ++ [l] } : State).onThread r
        (fun t => (t.mark l.regs true).goesTo s.cur.next))) ∧
    (s.Single r th (.sts f) f.g → (th.storeBytes f).length = n → s.objectsMet r.crew a n = [] →
      ∃ t d, exec (.sts f) s = .next t ∧ t = { s with crews := t.crews } ∧ t.crew r.crew = some d ∧
        d = { c with threads := d.threads, lmem := d.lmem } ∧ t.thread r = some (th.goesTo s.cur.next) ∧
        (∀ q, q ≠ r → t.thread q = s.thread q) ∧ (∀ k, k ≠ r.crew → t.crew k = s.crew k) ∧
        ∀ k, d.localByte r.crew k =
          if inRun k a (th.storeBytes f) then (th.storeBytes f).getD (k - a) 0 else c.localByte r.crew k)

/-- One ready thread's access of `n` private bytes is aligned and lies inside the extent, outside a transaction (R186, R197). -/
def State.PrivAccess (s : State) (r : ThreadRef) (th : Thread) (i : Instr) (f : Fields) (n : Nat) (c : Crew) : Prop :=
  s.Single r th i f.g ∧ s.crew r.crew = some c ∧ th.localAddr f % n = 0 ∧ th.localAddr f + n ≤ c.rcd.priv * 4 ∧
  th.tx.state ≠ .transactional

/-- The shared lines that a private access leaves in the L1: not those of its own physical lines (R194). -/
def State.besides (s : State) (c : Crew) (tgs : List Target) : List L1Line :=
  s.l1.filter (fun (x : L1Line) => !(x.core == c.core && tgs.any (fun tg => tg.pa / 128 == x.pline)))

/-- A state in which an access of the words `tgs` goes on at once, and drops no more than the shared copies of its lines: no window
changes, no acquire is under way, the words are PMA or NC memory of this device, and no private line has to go first. -/
def State.PrivCalm (s : State) (r : ThreadRef) (c : Crew) (o n : Nat) (tgs : List Target) : Prop :=
  (∀ tg ∈ tgs, s.viewBusy tg.pa = false ∧ tg.direct = false) ∧ s.acqPending r = false ∧
    s.privEnter r.crew ((wordOffsets c.stride r.tid o n).zip tgs) = { s with l1 := s.besides c tgs }

/-- `go` holds of the state in which a private access goes on: past its translation where the L1 does not hold its line under the
present tag, and there or before it where the L1 does, which may have evicted the line (R193). -/
def State.PrivPast (s s1 : State) (r : ThreadRef) (c : Crew) (o n : Nat) (need : Need) (tgs : List Target) (go : State → Prop) : Prop :=
  let s0 := (s.choose 2).2
  let words := s.privWords c r.tid o n
  (s.privHeld c r.tid o n need = none → s.privTranslate c need words = (.ok tgs, s1) → s1.PrivCalm r c o n tgs → go s1) ∧
  (s.privHeld c r.tid o n need = some tgs → s0.privTranslate c need words = (.ok tgs, s1) → s0.PrivCalm r c o n tgs →
    s1.PrivCalm r c o n tgs → go s0 ∨ go s1)

/-- R186, R187, R193, R194: private words are interleaved by thread in the crew's slot. LDP reads the thread's own bytes: what the
L1 holds dirty, which it looks up before any translation, else what memory holds of bytes that the crew has written, with the
core's own unperformed stores over it, else a free value. STP puts its bytes into the L1, in a T6 view without bits [7:6] (R164),
and changes no other thread's; what memory holds of its own words is open from there on, and every other byte of memory outside
the views is as before. (A fill finds its home slice free and no fault there, and the L1 has room.) -/
def PrivateAccessesStayWithTheirThread : Prop :=
  ∀ (f : Fields) (s s1 : State) (r : ThreadRef) (th : Thread) (c : Crew) (tgs : List Target), r.tid < c.stride →
    let o := th.localAddr f
    let n := tyBytes f.ty
    let offs := privOffsets c.stride r.tid o n
    (s.PrivAccess r th (.ldp f) f n c → s.PrivPast s1 r c o n .read tgs (fun (u : State) =>
      let v : State := { u with l1 := u.besides c tgs }
      privFill c offs tgs v.homeBusy = false → v.privFault c offs tgs = none →
      let l : Load := { mkLoad u.nextId r th f .ownWords o o with
        data := some (offs.zipIdx.map (fun x => match c.own.get x.1 with
          | some b => b
          | none =>
            let pa := (tgs.map (·.pa)).getD (x.2 / 4) 0 + x.2 % 4
            if c.backed.get x.1 then (overlay (u.privPending c.core) pa [u.byteAt pa]).headD 0 else Config.freePriv r.crew x.1)) }
      exec (.ldp f) s = .next (({ v.privWant c offs tgs (min 4 n) with
        nextId := u.nextId + 1, loads := u.loads ++ [l] } : State).onThread r (fun t => (t.mark l.regs true).goesTo u.cur.next)))) ∧
    (s.PrivAccess r th (.stp f) f (th.storeBytes f).length c → (th.storeBytes f).length = n →
      s.PrivPast s1 r c o n .write tgs (fun (u : State) =>
        let v : State := { u with l1 := u.besides c tgs }
        let bytes := tgs.zipIdx.flatMap (fun x => u.viewDrop x.1.pa (((th.storeBytes f).drop (4 * x.2)).take 4))
        (let x := v.putCrew r.crew (c.putOwn (v.privTag c) offs tgs bytes)
         (x.l1.filter (fun (y : L1Line) => y.core == c.core)).length + (x.privLines c.core).length ≤ Config.l1Lines) →
        ∃ t d, exec (.stp f) s = .next t ∧
          t = { v with crews := t.crews, veil := t.veil, fresh := t.fresh, home := t.home, poison := t.poison, checks := t.checks } ∧
          t.crew r.crew = some d ∧ d = { c with threads := d.threads, own := d.own, ownPa := d.ownPa, tags := d.tags } ∧
          t.thread r = some (th.goesTo u.cur.next) ∧
          (∀ i, i < n → d.own.get (privOffset c.stride r.tid (o + i)) = bytes[i]?) ∧
          (∀ tid x, tid < c.stride → (tid ≠ r.tid ∨ x < o ∨ o + n ≤ x) →
            d.own.get (privOffset c.stride tid x) = c.own.get (privOffset c.stride tid x)) ∧
          ∀ a, regionOf a ≠ .view → (∀ tg ∈ tgs, a < tg.pa ∨ tg.pa + 4 ≤ a) → t.byteAt a = u.byteAt a))

/-- R158, R204: the register image of a loaded element of each type. -/
def LoadedElementsExtendToRegisters : Prop :=
  ∀ (b0 b1 b2 b3 b4 b5 b6 b7 : Byte),
    loadWords .b8 [b0] = [b0.setWidth 32] ∧ loadWords .z8 [b0] = [b0.setWidth 32] ∧
    loadWords .s8 [b0] = [b0.signExtend 32] ∧
    loadWords .b16 [b0, b1] = [(b1 ++ b0).setWidth 32] ∧ loadWords .z16 [b0, b1] = [(b1 ++ b0).setWidth 32] ∧
    loadWords .s16 [b0, b1] = [(b1 ++ b0).signExtend 32] ∧
    loadWords .b32 [b0, b1, b2, b3] = [b3 ++ b2 ++ b1 ++ b0] ∧
    loadWords .b64 [b0, b1, b2, b3, b4, b5, b6, b7] = [b3 ++ b2 ++ b1 ++ b0, b7 ++ b6 ++ b5 ++ b4]

/-- R89, R204, R283, R288: a read whose bytes are known, or one of the home slice (`.home`, IO, or with a cluster-scope or wider
acquire) that nothing stands before, completes: its registers hold the elements and are full, it leaves the flow, and its acquire
follows. (Not a `.last`, not of an Irrevocable thread, and not of a living crew's private slot.) -/
def LoadDataLandInRegisters : Prop :=
  ∀ (s : State) (l : Load) (c : Crew) (th : Thread), s.loads.find? (fun (o : Load) => o.id == l.id && !o.poison) = some l →
    s.crew l.who.crew = some c → s.thread l.who = some th → th.tx.state ≠ .irrevocable → c.loc.isSome = true →
    s.loadHeld l = false → l.form % 2 = 0 →
    let landed (bytes : List Byte) : State :=
      (({ s with loads := s.loads.filter (fun (o : Load) => o.id != l.id) } : State).onThread l.who
        (fun t => (t.setRegs l.d (loadRegs l.ty l.width l.count bytes)).mark l.regs false)).acquire l.who l.acq
    (∀ bytes, l.data = some bytes → l.blur ≠ some true → exec (.loadDataLands l.id) s = .next (landed bytes)) ∧
    (l.data = none → l.atomic = false → l.sync = false → l.space = .global → l.cmp = none →
      (l.form = 2 ∨ l.kind = .io ∨ wideScope l.acq = true) →
      s.writePending l.who l.pa (l.width * l.count) = false → s.marked (l.pa / 128) (some l.who) true = false →
      s.homeBusy l.pa = false → (regionOf l.pa = .view → (s.viewOf l.pa).isSome = true) →
      s.ownedBy (ownerCode c.fn) l.pa = true → s.runBad l.pa (l.width * l.count) = false →
      l.blur.getD (s.arenaOf c.fn l.va).isSome = false →
      exec (.loadDataLands l.id) s = .next (landed (s.bytesAt l.pa (l.width * l.count))))

/-- R283: a plain load of one line that finds no copy in its L1 takes the bytes of memory with the core's own unperformed stores
over them. (No sector of the line is bad, no dirty private line is that line, the address is not in a living crew's private slot,
and the L1 has room.) -/
def LoadMissSeesOwnStores : Prop :=
  ∀ (s : State) (l : Load) (c : Crew), l.form = 0 → l.kind ≠ .io → wideScope l.acq = false →
    l.blur.getD (s.arenaOf c.fn l.va).isSome = false → s.l1Find c.core c.fn l.va = none → 0 < l.width * l.count →
    l.pa % 128 + l.width * l.count ≤ 128 → l.va % 128 = l.pa % 128 →
    (∀ e ∈ s.crewList, e.2.loc.map (·.1) = some c.core → ∀ x ∈ e.2.own, e.2.ownPa.get x.1 / 128 ≠ l.pa / 128) →
    (∀ k, k < 4 → s.runBad (l.pa / 128 * 128 + 64 * (k / 2)) 64 = false) →
    (s.l1.filter (fun (x : L1Line) => x.core == c.core)).length + (s.privLines c.core).length < Config.l1Lines →
    (s.readFor c l).1 = overlay (s.coreWrites c.core) l.pa (s.bytesAt l.pa (l.width * l.count))

/-- R282, R273: a write in flight that nothing stands before, to a frame of its owner, is performed whole: each of its bytes reads
as written, every other byte of memory outside the views reads as before, a sector written whole is clean, another keeps its
poison, and the write goes on to its memory-side cache. A host agent's write of bytes of one sector does the same. (Outside
HBM no check value differs: there a partial write tests it, R272.) -/
def WritesArePerformedWhole : Prop :=
  ∀ (s : State), (∀ e ∈ s.checks, regionOf (64 * e.1) = .hbm) →
  (∀ (w : Write), s.writes.find? (fun (o : Write) => o.id == w.id) = some w → s.mayPerform w = true →
    s.ownedBy w.owner w.pa = true → w.atom = none → regionOf w.pa ≠ .view →
    (∀ r th, w.by_ = .thread r → s.thread r = some th → th.tx.state ≠ .irrevocable) →
    ∃ t, exec (.homeWritePerform (.inflight w.id)) s = .next t ∧
      t = { s with
        home := t.home, veil := t.veil, poison := t.poison, checks := t.checks
        writes := s.writes.filter (fun (o : Write) => o.id != w.id) ++ [{ w with stage := .home }] } ∧
      (∀ a, regionOf a ≠ .view →
        t.byteAt a = if inRun a w.pa w.bytes then w.bytes.getD (a - w.pa) 0 else s.byteAt a) ∧
      ∀ k, t.poison.get k =
        if w.pa ≤ 64 * k ∧ 64 * k + 64 ≤ w.pa + w.bytes.length then false else s.poison.get k) ∧
  (∀ (pa : Nat) (bytes : List Byte), (regionOf pa = .hbm ∨ regionOf pa = .capacity) → bytes ≠ [] →
    pa % 64 + bytes.length ≤ 64 → s.marked (pa / 128) none false = false →
    ∃ t, exec (.homeWritePerform (.agent pa bytes)) s = .next t ∧
      t = { s with
        home := t.home, veil := t.veil, poison := t.poison, checks := t.checks, nextId := s.nextId + 1, writes := t.writes } ∧
      (∃ w, t.writes = s.writes ++ [w] ∧ w.pa = pa ∧ w.bytes = bytes ∧ w.stage = .home ∧ w.owner = 0) ∧
      (∀ a, regionOf a ≠ .view → t.byteAt a = if inRun a pa bytes then bytes.getD (a - pa) 0 else s.byteAt a) ∧
      ∀ k, t.poison.get k = if pa ≤ 64 * k ∧ 64 * k + 64 ≤ pa + bytes.length then false else s.poison.get k)

/-- R164: a write through a T6 view changes the codes of the elements it writes and of no others. -/
def ViewWritesKeepOtherElements : Prop :=
  ∀ (s t : State) (w : Window) (i : Nat) (bytes : List Byte), w.t6 = true → bytes ≠ [] →
    let st := s.viewWrite w i bytes
    t = s.writeHome st.1 st.2 →
    ∀ k, t.viewByte w k = if i ≤ k ∧ k < i + bytes.length then bytes.getD (k - i) 0 &&& 0x3F else s.viewByte w k

/-- R212, R213: an atomic that nothing stands before is performed at its home slice: the old value becomes the datum of its read,
the new value stands in memory, and every other byte outside the views is as before. (Not in a living crew's private slot; no
bad sector; outside HBM no check value differs.) -/
def AtomicsPerformReadAndWriteAtOnce : Prop :=
  ∀ (s : State) (w : Write) (a : AtomOp), s.writes.find? (fun (o : Write) => o.id == w.id) = some w →
    s.mayPerform w = true → s.ownedBy w.owner w.pa = true → w.atom = some a → regionOf w.pa ≠ .view →
    (∀ e ∈ s.checks, regionOf (64 * e.1) = .hbm) → (s.arenaOf (ownerFn w.owner) w.va).isNone = true →
    s.runBad w.pa w.bytes.length = false →
    (∀ r th, w.by_ = .thread r → s.thread r = some th → th.tx.state ≠ .irrevocable) →
    let old := s.bytesAt w.pa w.bytes.length
    let new := leBytes w.bytes.length (atomNew a.op a.ty (BitVec.ofNat 64 (leValue old)) a.b a.c).toNat
    ∃ t, exec (.homeWritePerform (.inflight w.id)) s = .next t ∧
      t = { s with
        home := t.home, veil := t.veil, poison := t.poison, checks := t.checks
        loads := s.loads.map (fun (l : Load) => if l.id = w.id ∧ l.atomic then { l with data := some old } else l)
        writes := s.writes.filter (fun (o : Write) => o.id != w.id) ++ [{ w with stage := .home, bytes := new }] } ∧
      ∀ x, regionOf x ≠ .view → t.byteAt x = if inRun x w.pa new then new.getD (x - w.pa) 0 else s.byteAt x

/-- R210: what each operation of Table 12-4 makes of the old value. -/
def AtomicNewValues : Prop :=
  ∀ (ty : Ty) (old b c : DWord),
    (ty ≠ .f32 → atomNew 0 ty old b c = old + b) ∧
    (ty ≠ .f32 → tyInt ty (atomNew 1 ty old b c) = min (tyInt ty old) (tyInt ty b)) ∧
    (ty ≠ .f32 → tyInt ty (atomNew 2 ty old b c) = max (tyInt ty old) (tyInt ty b)) ∧
    atomNew 3 ty old b c = old &&& b ∧ atomNew 4 ty old b c = old ||| b ∧ atomNew 5 ty old b c = old ^^^ b ∧
    atomNew 6 ty old b c = b ∧ atomNew 7 ty old b c = (if old = b then c else old)

/-- R205, R264, R287, R300: a thread's write whose delta is applied, a lazy one whose data are, or one performed in the capacity
tier is acknowledged: it leaves the flow and counts no more against its thread. -/
def SettledWritesAreAcknowledged : Prop :=
  ∀ (s : State) (w : Write) (r : ThreadRef), s.writes.find? (fun (o : Write) => o.id == w.id) = some w →
    w.by_ = .thread r → w.space ≠ .peer →
    (w.stage = .applied ∨ w.stage = .delta ∧ w.lazy = true ∨ w.stage = .home ∧ regionOf w.pa = .capacity) →
    exec (.storeAcknowledged w.id) s = .next
      (({ s with writes := s.writes.filter (fun (o : Write) => o.id != w.id) } : State).onThread r (fun t =>
        if w.kind = .nc ∧ w.atom = none then { t with unackNc := t.unackNc - 1 } else { t with unack := t.unack - 1 }))

/-- R263, R276: with no stack lost and no old bytes uncorrectable, a performed write is applied at its memory-side cache, which
sends the delta of what changed and asks its channel; home memory does not change, and parity with the deltas on their way still
matches the data if it did. -/
def WritesReachTheMemorySideCache : Prop :=
  ∀ (s : State) (w : Write), s.writes.find? (fun (o : Write) => o.id == w.id) = some w → w.stage = .home →
    regionOf w.pa = .hbm → s.lost = [] → w.bytes ≠ [] → w.bytes.length ≤ 2048 → s.mscBehind w = false →
    (unitPieces w.pa w.bytes).all s.pieceMayGo = true → (∀ k ∈ sectorRun w.pa w.bytes.length, s.checks.get k = 0) →
    ∃ t, exec (.mscWriteApply w.id) s = .next t ∧
      t = { s with
        msc := t.msc, deltas := t.deltas, writes := t.writes, log := t.log, hbmq := t.hbmq, nextId := s.nextId + 1
        poison := t.poison } ∧
      (∀ a, t.msc.get a = if inRun a w.pa w.bytes then w.bytes.getD (a - w.pa) 0 else s.msc.get a) ∧
      (∀ u ∈ t.writes, u.id = w.id → u.stage = .delta) ∧
      (ParityMatches s → ParityMatches t)

/-- R263, R276: a delta that meets no failed check value is applied at the parity stack, which asks its channel: each parity byte under it changes by it, the parity
still matches if it did, and with its last delta the write is applied. -/
def DeltasReachTheParity : Prop :=
  ∀ (s : State) (d : Delta), s.deltas.find? (fun (x : Delta) => x.write == d.write) = some d →
    d.off + d.bytes.length ≤ 2048 → (∀ k ∈ d.sectors, s.parityChecks.get k = 0) →
    ∃ t, exec (.parityDeltaApply d.write) s = .next t ∧
      t = { s with
        deltas := s.deltas.erase d, parity := t.parity, writes := t.writes, hbmq := t.hbmq, nextId := s.nextId + 1 } ∧
      (∀ b, b < d.bytes.length → t.parity.get (parityKey d.stripe (d.off + b)) =
        s.parity.get (parityKey d.stripe (d.off + b)) ^^^ d.bytes.getD b 0) ∧
      ((s.deltas.erase d).all (fun x => x.write != d.write) = true →
        ∀ u ∈ t.writes, u.id = d.write → u.stage ≠ .delta) ∧
      (ParityMatches s → ParityMatches t)

/-- R266, R269, R281: with nothing on its way, the loss of a stack enters MEMSTAT and the log, and vector 2 of the physical
function is sent, or becomes pending where it is masked; a sector of that stack can be formed unless another stack is lost or
its parity sector is poisoned or fails its check value. DECLARE declares the stack that MEMCTL names. -/
def StackLossIsRecorded : Prop :=
  ∀ (s : State) (k : Nat), k < 12 → s.isLost k = false → s.deltas = [] → s.writes = [] →
    (∃ t, exec (.stackLost k) s = .next t ∧
      t = { s with lost := s.lost ++ [k], regs := t.regs, log := s.log ++ [.stackLost k], msix := t.msix } ∧
      t.reg .memstat = BitVec.ofNat 64 (memstatOf (s.lost ++ [k])) ∧
      (s.field (.msiCtl 64 2) 0 1 = 0 →
        t.msix = s.msix ++ [⟨64, 2, s.reg (.msiAddr 64 2), (s.reg (.msiData 64 2)).setWidth 32⟩]) ∧
      (s.field (.msiCtl 64 2) 0 1 = 1 → t.msix = s.msix ∧ t.field (.msiPba 64) 2 1 = 1) ∧
      (∀ pa, regionOf pa = .hbm → stackOf pa = k →
        t.unformable pa = (decide (s.lost ≠ []) || s.parityBad.get (paritySector pa) || s.parityChecks.get (paritySector pa) != 0))) ∧
    (∀ v : Word, s.ready = true → v.toNat % 16 = k → v.getLsbD 7 = true →
      exec (.memctlDeclare v) s = .next ((s.setReg .memctl (Reg.memctl.merge (s.reg .memctl) (v.setWidth 64))).loseStack k))

/-- R271, R276: scrubbing that reads a sound parity sector which differs from the data of its stripe, with no stack lost, no delta
on its way and no check value of the stripe failing, makes it right, logs the fix, counts the sector and asks its channel; no
other parity byte changes. -/
def ScrubbingRestoresParity : Prop :=
  ∀ (s : State) (stripe b : Nat), b < 2048 → b % 64 = 0 → stripe < 2 ^ 25 → s.field .memctl 31 1 = 1 → s.lost = [] →
    s.stripeDirty stripe = false → s.parityBad.get (stripe * 32 + b / 64) = false → s.parityChecks.get (stripe * 32 + b / 64) = 0 →
    (∀ i, i < 11 → s.checks.get (stripeAddr stripe i b / 64) = 0) →
    s.dataParity stripe b 64 ≠ s.parity.getList (parityKey stripe b) 64 →
    ∃ t, exec (.scrubSector (stripe % 12) (stripe * 2048 + b) .good) s = .next t ∧
      t = { s with
        parity := t.parity, parityBad := t.parityBad, parityChecks := t.parityChecks, log := s.log ++ [.parityFix stripe]
        scrubs := t.scrubs, hbmq := t.hbmq
        nextId := s.nextId + 1 } ∧
      t.parity.getList (parityKey stripe b) 64 = s.dataParity stripe b 64 ∧
      ∀ k, k < parityKey stripe b ∨ parityKey stripe b + 64 ≤ k → t.parity.get k = s.parity.get k

/-- R277, R278: a channel serves the highest class that waits, or the next one once its weight of grants has passed; within
a class the earliest deadline first; a request granted late is counted. -/
def ChannelsGrantByClassAndDeadline : Prop :=
  ∀ (s : State) (k top : Nat) (low : List Nat) (q : HbmReq), s.waitingClasses k = top :: low →
    let turn := low ≠ [] ∧ max 1 (s.field .memctl 16 8) ≤ s.grants.get k
    let cls := if turn then low.headD top else top
    earliest (s.hbmq.filter (fun x => x.stack == k && x.cls == cls)) = some q →
    exec (.channelGrant k) s = .next (({ s with
      hbmq := s.hbmq.erase q
      grants := s.grants.set k (if low = [] ∨ turn then 0 else s.grants.get k + 1) } : State).countMiss q)

/-- R279, R276, R195: a fill of an HBM sector for a function that owns its frame is counted and asks its channel once, in one of the
classes that the function's requesters give it: the latency class where a load of the function waits for the sector. Which of
several classes is free (log 109), and with it the stamp, its reader's, and which read it serves. (No commit mark stands where the
counter lies.) -/
def FillsAreRequestedAndCounted : Prop :=
  ∀ (s : State) (fn pa : Nat), fn ≤ 64 → regionOf pa = .hbm → s.ownedBy (ownerCode fn) pa = true → s.homeBusy pa = false →
    s.countHeld fn pa = false →
    (∃ cls ∈ s.fillClasses fn pa, ∃ s1 : State, (s1 = s ∨ s1 = { s with fresh := s.fresh + 1 }) ∧
      exec (.sharedCacheFill fn pa) s = .next
        ((({ s1 with wants := s.wantsLeft fn pa cls } : State).request pa fn cls (s.fillStamp fn pa cls)).countFill fn pa)) ∧
    (s.loads.any (fun (l : Load) => l.space == .global && l.pa / 64 == pa / 64 && s.fnOf l.who.crew == fn) = true →
      s.fillClasses fn pa = [0])

/-- R4, R280, R281, R301, R370: once start-up is complete, an enable of HOTCTL takes its RW fields and reads the ring's HEAD and
DROPS; a write of ACCCTL takes its RW fields, or sets PCFG.ERR where it would enable a table outside the hypervisor's frames; a
write of LZCTL takes its RW bits, and one that clears a set bit raises BUSY and marks the lazy stores of that bit that are on
their way; BUSY falls once none of these is left. A CXL back-invalidation leaves the state, which is the model's reading (log
47). -/
def MemoryRegistersTakeTheirFields : Prop :=
  ∀ (s : State), s.ready = true →
    let merged (r : Reg) (v : DWord) : State := s.setReg r (((s.reg r &&& ~~~r.rw) ||| (v &&& r.rw)) &&& ~~~(v &&& r.w1c))
    (∀ fn (v : Word), fn ≤ 64 → v.getLsbD 31 = true → s.field (.hotctl fn) 31 1 = 0 →
      exec (.hotctlEnable fn v) s = .next ((merged (.hotctl fn) (v.setWidth 64)).onFunc fn (fun q => { q with
        hotHead := BitVec.ofNat 32 (s.valueAt (s.hotBase fn) 4)
        hotDrops := BitVec.ofNat 32 (s.valueAt (s.hotBase fn + 8) 4) }))) ∧
    (∀ v : DWord, exec (.accctlWrite v) s = .next
      (if v.getLsbD 63 = true ∧ s.tableOwned (v.toNat % 2 ^ 32) = false then s.setField .pcfg 30 1 1 else merged .accctl v)) ∧
    (∀ v : Word, ((s.reg .lzctl) &&& ~~~(v.setWidth 64) &&& Reg.lzctl.rw) = 0 →
      exec (.lzctlWrite v) s = .next (merged .lzctl (v.setWidth 64))) ∧
    (∀ v : Word, ((s.reg .lzctl) &&& ~~~(v.setWidth 64) &&& Reg.lzctl.rw) ≠ 0 →
      let gone (b : Nat) : Bool := s.field .lzctl b 1 == 1 && !(v.setWidth 64).getLsbD b
      exec (.lzctlWrite v) s = .next { (merged .lzctl (v.setWidth 64)).setField .lzctl 31 1 1 with
        writes := s.writes.map (fun (w : Write) => if w.lazy && gone w.lzbit then { w with drain := true } else w)
        deltas := s.deltas.map (fun (d : Delta) => if d.lazy && gone d.lzbit then { d with drain := true } else d) }) ∧
    (s.field .lzctl 31 1 = 1 → s.lazyDraining = false → exec .lzctlDrainDone s = .next (s.setField .lzctl 31 1 0)) ∧
    ∀ pa, exec (.cxlBackInvalidate pa) s = .next s
/-! ## Order, marks, atomics, transactions, cursors -/

/-- R293, R287, R288: outside a transaction FENCE `.acq` goes on, with its acquire, once no read of the thread is in flight; `.rel`
and `.ar` once it has released and holds no error mark, `.ar` with its acquire; a `.rel` or `.ar` that has not released waits.
The acquire changes the L1 alone: at cluster scope or wider the shared lines of the thread's core go. -/
def FencesActOnceTheirAccessesAreDone : Prop :=
  ∀ (f : Fields) (s : State) (r : ThreadRef) (th : Thread) (c : Crew), s.crew r.crew = some c →
    s.Single r th (.fence f) f.g → th.tx.state ≠ .transactional →
    (f.rm = 1 → s.loadsOf r = [] → exec (.fence f) s = .next ((s.acquire r f.sc).onThread r (·.goesTo s.cur.next))) ∧
    (f.rm = 2 → s.released r = true → th.errs = [] → exec (.fence f) s = .next (s.putThread r (th.goesTo s.cur.next))) ∧
    (f.rm = 3 → s.released r = true → th.errs = [] →
      exec (.fence f) s = .next ((s.acquire r f.sc).onThread r (·.goesTo s.cur.next))) ∧
    (f.rm = 2 ∨ f.rm = 3 → s.released r = false → exec (.fence f) s = .next (s.putThread r { th with age := 0, status := .waiting })) ∧
    ∀ k, (s.acquire r f.sc) = { s with l1 := (s.acquire r f.sc).l1 } ∧
      (k ∈ (s.acquire r f.sc).l1 ↔ k ∈ s.l1 ∧ ¬ (wideScope f.sc = true ∧ ∃ p, c.loc = some p ∧ k.core = p.1))

/-- R294, R295: CINV drops every shared line of its core's L1, or those of the line that it names; CWB of the thread's stores goes
on once none is unacknowledged or has a delta on its way, and CWB of a line of this device once its data have been applied. -/
def CacheInstructionsComplete : Prop :=
  ∀ (f : Fields) (s : State) (r : ThreadRef) (th : Thread) (c : Crew), s.crew r.crew = some c →
    (s.Single r th (.cinv f) f.g → f.fn = 1 → exec (.cinv f) s = .next
      (({ s with l1 := s.l1.filter (fun l => !(l.core == c.core)) } : State).onThread r (·.goesTo s.cur.next))) ∧
    (s.Single r th (.cinv f) f.g → f.fn = 0 → canonical (th.globalAddr f).toNat = true → exec (.cinv f) s = .next
      (({ s with l1 := s.l1.filter (fun l => !(l.core == c.core && l.vline == (th.globalAddr f).toNat / 128 &&
        l.vmid == s.vmid c.fn && l.asid == s.asid c.fn)) } : State).onThread r (·.goesTo s.cur.next))) ∧
    (s.Single r th (.cwb f) f.g → f.fn = 0 → th.tx.state ≠ .transactional → th.unack = 0 → th.unackNc = 0 →
      s.deltaPending r = false → exec (.cwb f) s = .next (s.putThread r (th.goesTo s.cur.next))) ∧
    (∀ s1 tg, s.Single r th (.cwb f) f.g → f.fn ≠ 0 → th.tx.state ≠ .transactional →
      s.translate c.cluster c.fn (th.globalAddr f).toNat .read false = (.ok tg, s1) → tg.peer = false → tg.kind ≠ .io →
      s1.lineDirty tg.pa = false → exec (.cwb f) s = .next (s1.onThread r (·.goesTo s.cur.next)))

/-- R208, R209, R276: PREFM never faults: an address that does not translate is passed over; one of this device's memory that its
function owns asks the shared cache for its line in the bulk class, and `.l1` fills it, or waits for its home slice; the other forms,
and addresses of a peer, of an IO page or of the capacity tier, change neither the L1 nor a thread but their own. SPMK sets or clears the marks of its lines and of no others, `.rel` with its
release done; SPWT goes on, with its acquire, once no line of its run is empty, and at once with a count of 0. -/
def PrefetchAndLineMarks : Prop :=
  ∀ (f : Fields) (s : State) (r : ThreadRef) (th : Thread) (c : Crew), s.crew r.crew = some c →
    (∀ e s1, s.Single r th (.prefm f) f.g →
      s.translate c.cluster c.fn (th.globalAddr f).toNat .read false = (.error e, s1) →
      exec (.prefm f) s = .next (s.putThread r (th.goesTo s.cur.next))) ∧
    (∀ tg s1, s.Single r th (.prefm f) f.g →
      s.translate c.cluster c.fn (th.globalAddr f).toNat .read false = (.ok tg, s1) →
      if tg.peer = true ∨ tg.kind = .io ∨ regionOf tg.pa = .capacity then
        exec (.prefm f) s = .next (s.putThread r (th.goesTo s.cur.next))
      else
        let line := tg.pa / 128 * 128
        let s2 := s1.want c.fn 1 line 128
        if s1.ownedBy (ownerCode c.fn) tg.pa = false then exec (.prefm f) s = .next (s1.onThread r (·.goesTo s.cur.next))
        else if f.fn ≠ 0 then exec (.prefm f) s = .next (s2.onThread r (·.goesTo s.cur.next))
        else if s1.homeBusy tg.pa = true ∨ s1.homeBusy line = true ∨ s1.homeBusy (line + 64) = true then
          exec (.prefm f) s = .next (s1.onThread r (fun t => { t with age := 0, status := .waiting }))
        else exec (.prefm f) s = .next ((s2.l1Fill c.core c.fn ((th.globalAddr f).toNat / 128 * 128) (tg.pa / 128 * 128) 128).onThread
        r (·.goesTo s.cur.next))) ∧
    (let a := (th.reg f.a).toNat
     let k := (th.srcBi f .z32).toNat
     a % 128 = 0 → a + 128 * k ≤ c.rcd.localBytes →
     (s.Single r th (.spmk f) f.g → (f.rm = 2 → th.tx.state ≠ .transactional ∧ s.released r = true ∧ th.errs = []) →
       ∃ t d, exec (.spmk f) s = .next t ∧ t = { s with crews := t.crews } ∧ t.crew r.crew = some d ∧
         d = { c with threads := d.threads, marks := d.marks } ∧ t.thread r = some (th.goesTo s.cur.next) ∧
         ∀ line, d.marks.get line = if a / 128 ≤ line ∧ line < a / 128 + k then f.fn == 0 else c.marks.get line) ∧
     (s.Single r th (.spwt f) f.g → th.tx.state ≠ .transactional → 0 < k → s.localEmpty r.crew a (128 * k) = false →
       exec (.spwt f) s = .next ((s.acquire r f.sc).onThread r (·.goesTo s.cur.next))) ∧
     (s.Single r th (.spwt f) f.g → th.tx.state ≠ .transactional → k = 0 →
       exec (.spwt f) s = .next (s.putThread r (th.goesTo s.cur.next))))

/-- The instruction, its operation of Table 12-4 (7 for ACAS), and whether it returns the old value. -/
def atomCase : Instr → Option (Fields × Nat × Bool)
  | .atom f => some (f, f.fn.toNat, true)
  | .acas f => some (f, 7, true)
  | .red f => some (f, f.fn.toNat, false)
  | _ => none

/-- R211, R212, R298: outside a transaction ATOM, ACAS and RED that pass their checks complete, the `.rel` forms with their release
done: one that is not of core scope, or is of an IO page or a peer, leaves for its home slice as a write in flight with the
operation, and one that returns the old value as a read with the same number besides, whose destination is empty; another
takes the old value of its L1 view, and the new value goes out as a plain store. (The address is not in a living crew's private
slot.) -/
def AtomicsIssue : Prop :=
  ∀ (i : Instr) (f : Fields) (op : Nat) (returns : Bool) (s s1 : State) (r : ThreadRef) (th : Thread) (c : Crew) (tg : Target),
    atomCase i = some (f, op, returns) → s.Access s1 r th i f (tyBytes f.ty) .write true c tg →
    th.tx.state ≠ .transactional → (f.rm.getLsbD 1 = true → s1.released r = true ∧ th.errs = []) →
    s1.acqPending r = false → s1.readPending r (if tg.peer then .peer else .global) tg.pa (tyBytes f.ty) = false →
    (s1.arenaOf c.fn (th.globalAddr f).toNat).isNone = true →
    let wide := tyWidth f.ty = 64
    let a : AtomOp := {
      op := op, ty := f.ty, b := if wide then th.pair f.b else (th.reg f.b).setWidth 64
      c := if wide then th.pair f.c else (th.reg f.c).setWidth 64
      d := if returns then some f.d.toNat else none, acq := if f.rm.getLsbD 0 then f.sc else .none }
    let va := (th.globalAddr f).toNat
    let w (id : Nat) (bytes : List Byte) (kind : Pbmt) (o : Option AtomOp) : Write := {
      id := id, by_ := .thread r, owner := ownerCode c.fn, space := if tg.peer then .peer else .global
      va := va, pa := tg.pa, bytes := bytes, kind := kind, stage := .issued, atom := o
      lazy := s1.lazyFor c.fn, pc := th.pc, grp := s1.cur.grp, tag := s1.tagFor tg.peer, sent := s1.fab, old := none
      core := some c.core }
    let l (id : Nat) : Load := { mkLoad id r th f (if tg.peer then .peer else .global) va tg.pa with
      count := 1, kind := tg.kind, acq := a.acq, atomic := true }
    let sent (s : State) (w : Write) : State := ({ s with nextId := s.nextId + 1 } : State).threadWrite w r
    (¬ (f.sc = .core ∧ tg.kind ≠ .io ∧ tg.peer = false) →
      exec i s = .next (
        let t := sent s1 { w s1.nextId (List.replicate (tyBytes f.ty) 0) tg.kind (some a) with sc := f.sc.code }
        if returns then t.pushLoad r { l s1.nextId with tag := s1.tagFor tg.peer } else t.proceed r)) ∧
    (f.sc = .core → tg.kind ≠ .io → tg.peer = false → ∀ old s2,
      s1.readNow r c th va (tyBytes f.ty) tg false = (.ok old, s2) →
      exec i s = .next (
        let t := (sent s2 (w s2.nextId (a.newBytes old) .pma none)).l1Store c.core tg.pa (a.newBytes old)
        if returns then t.pushLoad r { l s2.nextId with data := some old } else t.proceed r))

/-- A transaction of thread `r` has been aborted (R310, R314, R317): its logs, marks and reads in flight are gone, its cause and code are in
%txcause, the cause's bit is set in MASK, COUNT has risen unless the cause is EXPLICIT, NESTED or SCOPE, and the thread, Outside,
stands at its abort target. Every register keeps its value but the destinations of the discarded reads. -/
def State.Aborted (s t : State) (r : ThreadRef) (th : Thread) (cause ucode fcode : Nat) : Prop :=
  ∃ u, t = ({ s with
      loads := s.loads.filter (fun l => !(l.who == r && l.tx)), marks := s.marks.filter (fun m => m.who != r) } : State).putThread r u ∧
    u = { th with
      regs := u.regs, empty := u.empty, pc := th.tx.target, age := 0, status := .runnable
      txcause := BitVec.ofNat 32 (cause + 2 ^ 8 * ucode + 2 ^ 16 * fcode), tx := u.tx } ∧
    u.tx.state = .outside ∧ u.tx.reads = [] ∧ u.tx.writes = [] ∧ u.tx.prepared = none ∧ u.tx.mask.getLsbD (cause - 1) = true ∧
    u.tx.count = (if cause = 4 ∨ cause = 8 ∨ cause = 9 then th.tx.count else min 255 (th.tx.count + 1)) ∧
    ∀ k, (∀ l ∈ s.loads, l.who = r → l.tx = true → k ∉ l.regs) →
      u.regs.get k = th.regs.get k ∧ u.empty.get k = th.empty.get k

/-- R302, R304, R318, R320: TXB outside a transaction makes its thread Transactional with empty logs and its abort target. Under
`.esc` a thread whose COUNT has reached %txthr asks for the trump instead: a free token with an empty FIFO makes it Irrevocable
at once; else it is queued at the end of the FIFO, or is held while that is full. TXB of a Transactional thread aborts with
NESTED, and of an Irrevocable one ends the trump and goes on at its abort target. -/
def TransactionsBegin : Prop :=
  ∀ (f : Fields) (s : State) (r : ThreadRef) (th : Thread) (c : Crew), s.crew r.crew = some c →
    s.Single r th (.txb f) f.g → th.rendKey = none →
    let target : Addr := th.pc + f.ext.imm.signExtend 64
    let esc := f.fn = 1 ∧ th.txthr.toNat ≤ th.tx.count
    let tr := (s.walker c.part).trump
    (th.tx.state = .outside → ¬ esc → exec (.txb f) s = .next (s.putThread r { th.goesTo s.cur.next with
      tx := { th.tx with state := .transactional, target := target, reads := [], writes := [] } })) ∧
    (th.tx.state = .outside → esc → tr.holder = none → tr.fifo = [] → exec (.txb f) s = .next
      ((s.onWalker c.part (fun w => { w with trump := { w.trump with holder := some r } })).putThread r
        { th.goesTo s.cur.next with tx := { th.tx with state := .irrevocable, target := target } })) ∧
    (th.tx.state = .outside → esc → (tr.holder ≠ none ∨ tr.fifo ≠ []) → tr.fifo.length < Config.trumpFifo →
      exec (.txb f) s = .next
        ((s.onWalker c.part (fun w => { w with trump := { w.trump with fifo := w.trump.fifo ++ [r] } })).putThread r
          { th with tx := { th.tx with state := .queued, target := target }, status := .queued, age := 0 })) ∧
    (th.tx.state = .outside → esc → (tr.holder ≠ none ∨ tr.fifo ≠ []) → Config.trumpFifo ≤ tr.fifo.length →
      exec (.txb f) s = .next (s.putThread r { th with status := .held })) ∧
    (th.tx.state = .transactional → ∃ t, exec (.txb f) s = .next t ∧ s.Aborted t r th 8 0 0) ∧
    (th.tx.state = .irrevocable → exec (.txb f) s = .next ((s.endTrump r).onThread r (fun u =>
      { u.goesTo th.tx.target with txcause := BitVec.ofNat 32 (8 + 2 ^ 24) })))

/-- R314, R317: every abort of a thread that stands at no collective leaves the state that `State.Aborted` describes. -/
def AbortsDiscardTheLogs : Prop :=
  ∀ (s : State) (r : ThreadRef) (th : Thread) (cause ucode fcode : Nat), s.thread r = some th → th.rendKey = none →
    0 < cause → cause ≤ 9 → s.Aborted (s.abortTx r cause ucode fcode) r th cause ucode fcode

/-- R315, R320: TXA of a Transactional thread aborts with EXPLICIT and its code; outside a transaction it has no effect; of an
Irrevocable thread it ends the trump, records the cause, the code and IRREV, and goes on at the abort target. -/
def ExplicitAborts : Prop :=
  ∀ (f : Fields) (s : State) (r : ThreadRef) (th : Thread), s.Single r th (.txa f) f.g → th.rendKey = none →
    (th.tx.state = .transactional →
      ∃ t, exec (.txa f) s = .next t ∧ s.Aborted t r th 4 (f.ext.imm.toNat % 256) 0) ∧
    (th.tx.state = .outside → exec (.txa f) s = .next (s.putThread r (th.goesTo s.cur.next))) ∧
    (th.tx.state = .irrevocable → exec (.txa f) s = .next ((s.endTrump r).onThread r (fun u =>
      { u.goesTo th.tx.target with
        txcause := BitVec.ofNat 32 (4 + 2 ^ 8 * (f.ext.imm.toNat % 256) + 2 ^ 24) })))

/-- R309 to R312, R320: TXC of one Transactional thread, alone in its issue group, whose release is done, which holds no error mark,
which no earlier store of its core precedes and no home slice holds up, prepares: a cause that prepare finds aborts it; else a write
mark stands on each line of its write set and a read mark on each of its read set, and it waits. Its next TXC applies: every byte
of its write log stands in memory, every other byte outside the views is as before, its marks are gone, the thread is Outside with
COUNT and MASK zero, and the shared lines of its core's L1 are gone. TXC outside a transaction has no effect, and of an Irrevocable
thread that has released it ends the trump and acquires. (Stores of the function's own frames outside the views; outside HBM no
check value differs.) -/
def CommitsApplyTheWriteLog : Prop :=
  ∀ (f : Fields) (s : State) (r : ThreadRef) (th : Thread) (c : Crew), s.Single r th (.txc f) f.g →
    s.crew r.crew = some c → c.loc.isSome = true → th.rendKey = none →
    let x := th.tx
    (x.state = .outside → x.prepared = none → exec (.txc f) s = .next (s.putThread r (th.goesTo s.cur.next))) ∧
    (x.state = .irrevocable → x.prepared = none → s.released r = true → th.errs = [] →
      exec (.txc f) s = .next (((s.endTrump r).acquire r .device).onThread r (·.goesTo s.cur.next))) ∧
    (x.state = .transactional → x.prepared = none → (x.pact = [] ∨ x.pact = [r.tid]) → s.released r = true → th.errs = [] →
      s.commitBehind c x = false → s.commitWaits x = false →
      (∀ cause, s.prepare r c.part x = some cause → ∃ t, exec (.txc f) s = .next t ∧ s.Aborted t r th cause 0 0) ∧
      (s.prepare r c.part x = none →
        exec (.txc f) s = .next (({ s with marks := s.marks ++ commitMarks r x } : State).putThread r { th with
          age := 0, status := .waiting, tx := { x with pact := [r.tid], prepared := some (s.fab, s.cur.next) } }) ∧
        (∀ l, ⟨l, r, true⟩ ∈ commitMarks r x ↔ ∃ g ∈ x.writes.keys, g / 16 = l) ∧
        ∀ l, ⟨l, r, false⟩ ∈ commitMarks r x ↔ ∃ g ∈ x.reads.keys, g / 16 = l)) ∧
    (∀ at_ next, x.prepared = some (at_, next) → x.writes.wf = true →
      (∀ st ∈ x.stores, regionOf st.1 ≠ .view ∧ s.ownedBy (ownerCode c.fn) st.1 = true) →
      (∀ e ∈ s.checks, regionOf (64 * e.1) = .hbm) →
      ∃ t, exec (.txc f) s = .next t ∧
        t = { s with
          home := t.home, veil := t.veil, poison := t.poison, checks := t.checks, writes := t.writes, nextId := t.nextId
          l1 := s.l1.filter (fun l => l.core != c.core), crews := t.crews, marks := s.marks.filter (fun m => m.who != r) } ∧
        (∀ a, regionOf a ≠ .view → t.byteAt a = if x.written a then x.byte a else s.byteAt a) ∧
        (∃ u, t.thread r = some u ∧ u = { th.goesTo next with unack := u.unack, tx := { x with
          state := .outside, reads := [], writes := [], count := 0, mask := 0, pact := [], prepared := none } }) ∧
        ∀ q, q ≠ r → t.thread q = s.thread q)

/-- R305, R306: inside a transaction a plain ST that the write log takes changes that log alone: each of its bytes is the store's,
every other byte is as before. A plain LD that the logs take leaves its bytes on the way to its registers: those that the write
log holds from there, and those of granules that no log holds from memory. (A PMA page of this device, outside the private slots
of living crews.) -/
def TransactionalAccessesUseTheLogs : Prop :=
  ∀ (f : Fields) (s s1 : State) (r : ThreadRef) (th : Thread) (c : Crew) (tg : Target) (x : Tx),
    th.tx.state = .transactional → tg.peer = false → tg.kind = .pma → f.rm = 0 →
    (s1.arenaOf c.fn (th.globalAddr f).toNat).isNone = true →
    (s.Access s1 r th (.st f) f (th.storeBytes f).length .write false c tg →
      let bytes := s1.viewDrop tg.pa (th.storeBytes f)
      s1.txStore r c.core th.tx tg.pa bytes = .ok x →
      exec (.st f) s = .next (s1.onThread r (fun t => { t.goesTo s.cur.next with tx := x })) ∧
      x = { th.tx with writes := x.writes } ∧
      ∀ a, x.byte a = if inRun a tg.pa bytes then bytes.getD (a - tg.pa) 0 else th.tx.byte a) ∧
    (∀ bs, s.Access s1 r th (.ld f) f (tyBytes f.ty * vecCount f.x) .read false c tg → s1.acqPending r = false →
      s1.txLoad r c th.tx tg.pa (tyBytes f.ty * vecCount f.x) = .ok (bs, x) →
      ∃ l : Load, l.data = some bs ∧ l.tx = true ∧ l.d = f.d.toNat ∧ l.who = r ∧
        exec (.ld f) s = .next (({ s1.txWant c.fn th.tx x with nextId := s1.nextId + 1, loads := s1.loads ++ [l] } : State).onThread r
          (fun t => { (t.mark l.regs true).goesTo s.cur.next with tx := x })) ∧
        x = { th.tx with reads := x.reads } ∧
        ∀ i, i < bs.length → (th.tx.written (tg.pa + i) = true → bs[i]? = some (th.tx.byte (tg.pa + i))) ∧
          (th.tx.reads.get ((tg.pa + i) / 8) = none → th.tx.writes.get ((tg.pa + i) / 8) = none →
            bs[i]? = some (s1.byteAt (tg.pa + i))))

/-- One thread outside a transaction can take `n` bytes at `va` at once (R193, R197, R204, R215): the address is aligned and
translates, leaving `s1`, to memory of this device that its function owns, not an IO page; no line of the L1 has that address, no
sector of the line is bad, its home slice is free and nothing stands before the read, the address is not in a living crew's private slot, no dirty private
line is that line, and the L1 has room. -/
def State.ReadsNow (s s1 : State) (r : ThreadRef) (th : Thread) (c : Crew) (va n : Nat) (tg : Target) : Prop :=
  s.crew r.crew = some c ∧ th.tx.state = .outside ∧ 0 < n ∧ n ≤ 32 ∧ va % n = 0 ∧ tg.pa % 128 = va % 128 ∧
  s.l1Find c.core c.fn va = none ∧ s1.l1Find c.core c.fn va = none ∧
  s.translate c.cluster c.fn va .read false = (.ok tg, s1) ∧ tg.peer = false ∧ tg.kind ≠ .io ∧ s1.viewBusy tg.pa = false ∧
  s1.acqPending r = false ∧ s1.marked (tg.pa / 128) (some r) true = false ∧ s1.homeBusy tg.pa = false ∧ s1.ownedBy (ownerCode c.fn) tg.pa = true ∧
  s1.runBad tg.pa n = false ∧ (∀ k, k < 4 → s1.runBad (tg.pa / 128 * 128 + 64 * (k / 2)) 64 = false) ∧
  (s1.arenaOf c.fn va).isNone = true ∧
  (∀ e ∈ s1.crewList, e.2.loc.map (·.1) = some c.core → ∀ x ∈ e.2.own, e.2.ownPa.get x.1 / 128 ≠ tg.pa / 128) ∧
  (s1.l1.filter (fun (x : L1Line) => x.core == c.core)).length + (s1.privLines c.core).length < Config.l1Lines

/-- The bytes that such a read takes: memory with the core's own unperformed stores over it (R283). -/
def State.bytesSeen (s1 : State) (c : Crew) (tg : Target) (n : Nat) : List Byte :=
  overlay (s1.coreWrites c.core) tg.pa (s1.bytesAt tg.pa n)

/-- After such a read an instruction ends by changing its own thread: of the rest only the L1 has changed, the read has been asked for
at the shared cache (R276), and the reads for which the thread waited are gone. -/
def State.ReadThen (s1 : State) (i : Instr) (s : State) (r : ThreadRef) (upd : Thread → Thread) : Prop :=
  ∃ t, exec i s = .next t ∧ t = ({ s1 with
    l1 := t.l1, wants := t.wants, loads := s1.loads.filter (fun (l : Load) => !(l.sync && l.who == r)) } : State).onThread r
      (fun th => (upd th).goesTo s.cur.next)

/-- R215, R217, R218: FOPEN and SOPEN, outside a transaction, that can read their descriptor at once fill the fibre or the stream
that C names from its fields; one that breaks a rule of its table faults LAYOUTBAD. -/
def CursorsOpen : Prop :=
  ∀ (f : Fields) (s s1 : State) (r : ThreadRef) (th : Thread) (c : Crew) (tg : Target),
    s.ReadsNow s1 r th c (th.globalAddr f).toNat 32 tg →
    let k := (f.c.extractLsb' 0 2).toNat
    let at_ (off n : Nat) : Nat := leValue (((s1.bytesSeen c tg 32).drop off).take n)
    let bad (i : Instr) : Prop := ∃ t : State, exec i s = .next (t.raise r .layoutBad (th.globalAddr f)) ∧ t = { s1 with
      l1 := t.l1, wants := t.wants, loads := s1.loads.filter (fun (l : Load) => !(l.sync && l.who == r)) }
    (s.Single r th (.fopen f) f.g →
      if at_ 0 8 % 4 = 0 ∧ at_ 0x10 4 ≤ 2 ^ 31 ∧ at_ 0x14 4 ≤ at_ 0x10 4 ∧ at_ 0x18 8 = 0 then
        s1.ReadThen (.fopen f) s r (fun t => { t with fibres := t.fibres.set k {
          idx := BitVec.ofNat 64 (at_ 0 8), val := BitVec.ofNat 64 (at_ 8 8), len := BitVec.ofNat 32 (at_ 0x10 4)
          pos := BitVec.ofNat 32 (at_ 0x14 4), isOpen := true } })
      else bad (.fopen f)) ∧
    (s.Single r th (.sopen f) f.g →
      if at_ 0x0C 4 ≤ 2 ^ 31 ∧ at_ 0x14 4 ≤ 2 ^ 31 ∧ at_ 0x18 8 = 0 then
        s1.ReadThen (.sopen f) s r (fun t => { t with streams := t.streams.set k {
          base := BitVec.ofNat 64 (at_ 0 8), stride0 := BitVec.ofNat 32 (at_ 8 4), count0 := BitVec.ofNat 32 (at_ 0x0C 4)
          stride1 := BitVec.ofNat 32 (at_ 0x10 4), count1 := BitVec.ofNat 32 (at_ 0x14 4), n := 0, isOpen := true } })
      else bad (.sopen f))

/-- The state after a cursor's load has issued from `s1` as a miss: a read in flight of `count` elements at `va`. -/
def State.cursorIssued (s1 : State) (r : ThreadRef) (th : Thread) (f : Fields) (va : Nat) (tg : Target)
    (upd : Thread → Thread) : State :=
  let l : Load := { mkLoad s1.nextId r th f (if tg.peer then .peer else .global) va tg.pa with
    form := if th.tx.state = .irrevocable then 2 else 0, kind := tg.kind, grp := s1.cur.grp
    tag := s1.tagFor tg.peer, sent := s1.fab }
  ({ s1 with nextId := s1.nextId + 1, loads := s1.loads ++ [l] } : State).onThread r
    (fun t => ((upd t).mark l.regs true).goesTo s1.cur.next)

/-- R217, R218: at the end of a fibre FGET `.idx` gives all ones and `.val` zero, and at the end of a stream SNEXT gives zero; FGET
`.pos` gives POS. Before the end, FGET `.idx` and `.val` leave a read in flight of the index at IDX + 4 · POS or of the value at
VAL + POS · size, SNEXT `.ld` one of the next element, and SNEXT `.addr` gives its address, both with N one higher. (A load that
misses the L1, outside a transaction.) -/
def CursorsReadAndAdvance : Prop :=
  ∀ (f : Fields) (s : State) (r : ThreadRef) (th : Thread) (c : Crew), s.crew r.crew = some c → th.tx.state ≠ .transactional →
    let x := th.fibres.get (f.c.extractLsb' 0 2).toNat
    let y := th.streams.get (f.c.extractLsb' 0 2).toNat
    let e := y.base + BitVec.ofInt 64 ((y.n % y.count0.toNat : Nat) * y.stride0.toInt) +
      BitVec.ofInt 64 ((y.n / y.count0.toNat : Nat) * y.stride1.toInt)
    let passes (va : Nat) (s1 : State) (tg : Target) : Prop := va % (tyBytes f.ty * vecCount f.x) = 0 ∧
      vecCount f.x = 1 ∧ s.l1Find c.core c.fn va = none ∧ s.translate c.cluster c.fn va .read false = (.ok tg, s1) ∧
      s1.viewBusy tg.pa = false ∧ s1.acqPending r = false
    let next (t : Thread) : Thread := { t with streams := t.streams.set (f.c.extractLsb' 0 2).toNat { y with n := y.n + 1 } }
    (s.Single r th (.fget f) f.g →
      (f.fn = 2 → WordResult (.fget f) s r th f.d x.pos) ∧
      (f.fn = 0 → x.len.toNat ≤ x.pos.toNat → BitsResult (.fget f) s r th f 0xFFFFFFFF) ∧
      (f.fn = 1 → x.len.toNat ≤ x.pos.toNat → BitsResult (.fget f) s r th f 0) ∧
      (f.fn = 0 → x.pos.toNat < x.len.toNat → ∀ s1 tg, passes (x.idx + BitVec.ofNat 64 (4 * x.pos.toNat)).toNat s1 tg →
        exec (.fget f) s = .next (s1.cursorIssued r th f (x.idx + BitVec.ofNat 64 (4 * x.pos.toNat)).toNat tg id)) ∧
      (f.fn = 1 → x.pos.toNat < x.len.toNat → ∀ s1 tg, passes (x.val + BitVec.ofNat 64 (x.pos.toNat * tyBytes f.ty)).toNat s1 tg →
        exec (.fget f) s = .next (s1.cursorIssued r th f (x.val + BitVec.ofNat 64 (x.pos.toNat * tyBytes f.ty)).toNat tg id))) ∧
    (s.Single r th (.snext f) f.g →
      (y.count0.toNat * y.count1.toNat ≤ y.n → BitsResult (.snext f) s r th f 0) ∧
      (f.fn = 1 → y.n < y.count0.toNat * y.count1.toNat →
        exec (.snext f) s = .next (s.putThread r (((next th).setPair f.d e).goesTo s.cur.next))) ∧
      (f.fn = 0 → y.n < y.count0.toNat * y.count1.toNat → ∀ s1 tg, passes e.toNat s1 tg →
        exec (.snext f) s = .next (s1.cursorIssued r th f e.toNat tg next)))

/-- R217: FSEEK of a fibre at its end leaves it there. Before the end a key at or below the index at POS, which it can read at once,
leaves POS unchanged, whatever indices follow. With one index left that is below the key, it goes to the end. -/
def FseekStopsAtTheKey : Prop :=
  ∀ (f : Fields) (s : State) (r : ThreadRef) (th : Thread), s.Single r th (.fseek f) f.g →
    let k := (f.c.extractLsb' 0 2).toNat
    let x := th.fibres.get k
    let key := (th.srcBi f .z32).toNat
    (x.len.toNat ≤ x.pos.toNat → exec (.fseek f) s = .next
      (({ s with loads := s.loads.filter (fun (l : Load) => !(l.sync && l.who == r)) } : State).onThread r (fun t =>
        { t with fibres := t.fibres.set k x, pc := s.cur.next, age := 0, status := .runnable }))) ∧
    (x.pos.toNat < x.len.toNat → ∀ s1 c tg,
      s.ReadsNow s1 r th c (x.idx + BitVec.ofNat 64 (4 * x.pos.toNat)).toNat 4 tg →
      (key ≤ leValue (s1.bytesSeen c tg 4) → s1.ReadThen (.fseek f) s r (fun t => { t with fibres := t.fibres.set k x })) ∧
      (leValue (s1.bytesSeen c tg 4) < key → x.len.toNat = x.pos.toNat + 1 →
        s1.ReadThen (.fseek f) s r (fun t => { t with fibres := t.fibres.set k { x with pos := x.len } })))

/-! ## Work instructions -/

/-- R66, R146, R147: DRAW on a queue that holds a work entry takes one: the entry leaves the queue and no other does, its key and
payload fill the block, low halves first, `.try` sets its predicate, and the thread acquires at device scope. With no work entry
there, `.try` clears its predicate, and without `.try` the thread sleeps with its block empty. -/
def DrawTakesOneEntry : Prop :=
  ∀ (f : Fields) (s : State) (r : ThreadRef) (th : Thread) (c : Crew), s.crew r.crew = some c →
    s.Single r th (.draw f) f.g → th.tx.state ≠ .transactional → s.acqPending r = false →
    let k := if f.fn.getLsbD 2 then (f.fn.extractLsb' 0 2).toNat else th.dqsel.toNat
    let q := (s.walker c.part).queue k
    let p := f.fn.extractLsb' 3 3
    let bare (x : Entry) : Entry := { x with passed := 0 }
    ((∃ e ∈ q, e.point = none) → ∃ e ∈ q, e.point = none ∧ ∃ q', ((q'.map bare).Perm ((q.erase e).map bare)) ∧
      let words := (e.key :: e.payload).flatMap (fun v => [v.extractLsb' 0 32, v.extractLsb' 32 32])
      let u := th.setRegs f.d.toNat words
      exec (.draw f) s = .next ((((({ s with fresh := s.fresh + 1 } : State).onWalker c.part (fun w =>
        { w with queues := w.queues.set k q' })).putThread r
          ((if f.x = 1 then u.setPred p true else u).goesTo s.cur.next))).acquire r .device)) ∧
    ((∀ e ∈ q, e.point ≠ none) → f.x = 1 →
      exec (.draw f) s = .next (s.putThread r ((th.setPred p false).goesTo s.cur.next))) ∧
    ((∀ e ∈ q, e.point ≠ none) → f.x ≠ 1 →
      exec (.draw f) s = .next (s.putThread r { th.mark ((List.range 8).map (f.d.toNat + ·)) true with
        age := 0, status := .drawing k f.d.toNat }))

/-- R148 to R150: outside a transaction APPEND of a thread that has released, on a queue with room on which no packet waits, inserts
its one entry at the end and wakes the threads that sleep in DRAW on that queue. BNDSET of a walked level by a thread that has
released and has not retired leaves it waiting for the walker with the level and the value. NESTQ gives the counter that it
names of the nest, zero for a free identifier; one above 31 faults NESTBAD. -/
def WorkInstructionsComplete : Prop :=
  ∀ (f : Fields) (s : State) (r : ThreadRef) (th : Thread) (c : Crew), s.crew r.crew = some c → th.tx.state ≠ .transactional →
    (s.Single r th (.append f) f.g → s.released r = true → th.errs = [] →
      let k := if f.fn.getLsbD 2 then (f.fn.extractLsb' 0 2).toNat else th.dqsel.toNat
      (s.walker c.part).room k ≠ 0 → (s.walker c.part).packetWaits k = false →
      exec (.append f) s = .next (((s.onWalker c.part (fun w => w.insert k [workEntry (th.pair f.a)
        [th.pair (f.a + 2), th.pair (f.a + 4), th.pair (f.a + 6)]])).putThread r (th.goesTo s.cur.next)).wakeDrawers c.part k)) ∧
    (s.Single r th (.bndset f) f.g → (Instr.bndset f).wellFormed = true → s.released r = true → th.errs = [] → th.retired = false →
      (f.fn.extractLsb' 0 2).toNat < c.rcd.walk →
      exec (.bndset f) s = .next (s.putThread r { th with age := 0, status :=
        (.bndset (f.fn.extractLsb' 0 2).toNat (if f.ext = .none then th.reg f.a else f.ext.imm) s.cur.next) })) ∧
    (s.Single r th (.nestq f) f.g → (Instr.nestq f).wellFormed = true →
      let id := (if f.ext = .none then th.reg f.a else f.ext.imm).toNat
      (31 < id → exec (.nestq f) s = .next (s.raise r .nestBad)) ∧
      (id ≤ 31 → PairResult (.nestq f) s r th f.d (BitVec.ofNat 64 (match (s.walker c.part).nest id with
        | none => 0
        | some n => if f.fn = 0 then n.released else if f.fn = 1 then n.retired else if f.fn = 2 then n.forgone
          else if f.fn = 3 then n.held % 2 ^ 16 else 1))))
/-! ## The matrix engine and the accumulators -/

/-- The three matrix operations and what each asks for. -/
def matrixCase : Instr → Option (Fields × MatOp)
  | .mma f => some (f, { kind := .mma, nz := 0, steps := 0 })
  | .mmas f => some (f, { kind := .mmas, nz := if f.fn = 1 then 32 else 64, steps := 0 })
  | .mrsc f => some (f, { kind := .mrsc, nz := 0, steps := 16 * 2 ^ f.fn.toNat })
  | _ => none

/-- One operand of a matrix operation: a band's captured registers, all full, or a scratchpad descriptor (R225, R226). -/
def matrixOperand (th : Thread) (c : Crew) (reg : BitVec 7) (band : Bool) (mn k etype : Nat) (src : MatSrc) : Prop :=
  if band then
    bandOk c reg.toNat mn k etype = true ∧ c.captureFull (th.pos / 32) reg.toNat (bandLength k etype) = true ∧
      src = .band (c.capture (th.pos / 32) reg.toNat (bandLength k etype))
  else scratchOf ((th.pair reg).extractLsb' 0 32) ((th.pair reg).extractLsb' 32 32) = some src

/-- R222, R228, R232, R241, R243: outside a transaction MMA, MMAS and MRSC, once their block is full and no acquire is under way,
whose block, operands and rows pass their checks, become a card of their core's ring, with the cards before it that its
footprint meets as predecessors; its slot's watermark restarts and the thread goes on. A full ring holds the thread. A
misaligned block faults ALIGN, one beyond LOCAL PERM, one that breaks a rule CARDBAD; what the check of rows, reach and tables
finds faults as it says. -/
def MatrixOperationsIssue : Prop :=
  ∀ (i : Instr) (f : Fields) (op : MatOp) (s : State) (r : ThreadRef) (th : Thread) (c : Crew),
    matrixCase i = some (f, op) → s.Single r th i f.g → s.crew r.crew = some c →
    let a := (th.reg f.a).toNat
    (a % 64 ≠ 0 → exec i s = .next (s.raise r .align)) ∧
    (a % 64 = 0 → c.rcd.localBytes < a + 64 → exec i s = .next (s.raise r .perm)) ∧
    (a % 64 = 0 → a + 64 ≤ c.rcd.localBytes → th.tx.state ≠ .transactional → s.localEmpty r.crew a 64 = false →
      s.acqPending r = false →
      (blockPar op (c.localBytes r.crew a 64) = none → exec i s = .next (s.raise r .cardBad)) ∧
      ∀ p0 sa sb, blockPar op (c.localBytes r.crew a 64) = some p0 →
        matrixOperand th c f.b (op.kind == .mma && f.x.getLsbD 0) p0.m p0.k p0.etype sa →
        matrixOperand th c f.c (op.kind != .mrsc && f.x.getLsbD 1) p0.n p0.k p0.etype sb →
        let p := { p0 with srcA := sa, srcB := sb }
        (∀ e, s.matrixCheck r.crew c op.kind p = some e → exec i s = .next (s.raise r e)) ∧
        (s.matrixCheck r.crew c op.kind p = none →
          let mine := s.cards.filter (·.core == c.core)
          let k0 := s.matrixCard r c op.kind p
          let k := { k0 with preds := (mine.filter (fun y => y.before k0)).map (·.id) }
          exec i s = .next (if mine.length < Config.ringSlots then
            (({ s with nextId := s.nextId + 1, cards := s.cards ++ [k] } : State).onCrew r.crew (fun c =>
              { c with tiles := c.tiles.set p.slot { card := some s.nextId, mark := 0 } })).onThread r (·.goesTo s.cur.next)
          else s.putThread r { th with status := .held })))

/-- R229 to R233: the next block of rows of a started matrix card becomes final: its cells hold what the block computes,
every other cell of the crew is as before, and the slot that still belongs to the card counts the rows. -/
def MatrixBlocksBecomeFinal : Prop :=
  ∀ (s : State) (id : Nat) (k : Card) (p : MatPar) (c : Crew), s.cards.find? (·.id == id) = some k → k.mat = some p →
    s.crew k.who.crew = some c → k.started = true → k.finalRows < p.m → p.col + p.n ≤ 256 →
    let n := min 32 (p.m - k.finalRows)
    let rows := (s.blockRows k p c n).1
    let first := p.row + k.finalRows
    ∃ d s1, exec (.matrixBlockFinal id) s = .next (s1.settleReads k.who.crew) ∧
      s1 = { s.putCrew k.who.crew d with cards := s.cards.map (fun (x : Card) =>
        if x.id = id then { x with finalRows := x.finalRows + n, stRow := (s.blockRows k p c n).2 } else x) } ∧
      d = { c with
        acc := d.acc
        tiles := if (c.tiles.get p.slot).card = some id then
            c.tiles.set p.slot { c.tiles.get p.slot with mark := (c.tiles.get p.slot).mark + n } else c.tiles } ∧
      ∀ row col, col < 256 → d.cell k.who.crew row col =
        if first ≤ row ∧ row < first + n ∧ p.col ≤ col ∧ col < p.col + p.n then
          (rows.getD (row - first) []).getD (col - p.col) 0
        else c.cell k.who.crew row col

/-- R234 to R237: with no acquire under way ACCRD leaves a read in flight that waits for the cards that hold its row; ACCWR writes
its cells and no other, and ACCZ sets whole rows to +0 and no other, once no card holds them; ACCZ of no row, and WMARK, which
reads its slot's watermark, complete at once; MWAIT goes on once no earlier card on its slots is left, and else waits. -/
def AccumulatorInstructions : Prop :=
  ∀ (f : Fields) (s : State) (r : ThreadRef) (th : Thread) (c : Crew), s.crew r.crew = some c →
    let n := vecCount f.x * (if f.ty = .f32 then 1 else 2)
    let fits (row col : Nat) : Prop := col % n = 0 ∧ row < c.rcd.accRows ∧ col + n ≤ 256 ∧ c.rowReset.get row = false
    (s.Single r th (.accrd f) f.g → (Instr.accrd f).wellFormed = true → s.acqPending r = false →
      let row := (th.reg f.a).toNat
      let col := (th.srcBi f .z32).toNat
      fits row col →
      let a : AccRead := { row := row, col := col, ty := f.ty, rm := f.rm, after := s.pendingCards r.crew row }
      let l : Load := { mkLoad s.nextId r th f .accRows row col with
        width := 4, count := vecCount f.x, ty := .b32, acc := some a
        data := if a.after = [] then some (wordBytes (a.words c r.crew (vecCount f.x))) else none }
      exec (.accrd f) s = .next (({ s with nextId := s.nextId + 1, loads := s.loads ++ [l] } : State).onThread r
        (fun t => (t.mark l.regs true).goesTo s.cur.next))) ∧
    (s.Single r th (.accwr f) f.g → (Instr.accwr f).wellFormed = true →
      let row := (th.reg f.a).toNat
      let col := (th.srcCi f .z32).toNat
      fits row col → s.rowPending r.crew row = false → s.acqPending r = false →
      ∃ t d, exec (.accwr f) s = .next t ∧ t = { s with crews := t.crews } ∧ t.crew r.crew = some d ∧
        d = { c with threads := d.threads, acc := d.acc } ∧ t.thread r = some (th.goesTo s.cur.next) ∧
        (∀ q, q ≠ r → t.thread q = s.thread q) ∧ (∀ k, k ≠ r.crew → t.crew k = s.crew k) ∧
        ∀ x y, y < 256 → d.cell r.crew x y =
          if x = row ∧ col ≤ y ∧ y < col + n then (accWords th f).getD (y - col) 0 else c.cell r.crew x y) ∧
    (s.Single r th (.accz f) f.g →
      let a := (th.reg f.a).toNat
      let b := (th.srcBi f .z32).toNat
      (b = 0 → exec (.accz f) s = .next (s.putThread r (th.goesTo s.cur.next))) ∧
      (0 < b → a + b ≤ c.rcd.accRows → s.acqPending r = false → (∀ x, a ≤ x → x < a + b → s.rowPending r.crew x = false) →
      ∃ t d, exec (.accz f) s = .next t ∧ t = { s with crews := t.crews } ∧ t.crew r.crew = some d ∧
        d = { c with threads := d.threads, acc := d.acc, rowZero := d.rowZero, rowReset := d.rowReset } ∧
        t.thread r = some (th.goesTo s.cur.next) ∧ (∀ k, k ≠ r.crew → t.crew k = s.crew k) ∧
        ∀ x y, y < 256 → d.cell r.crew x y = (if a ≤ x ∧ x < a + b then 0 else c.cell r.crew x y) ∧
          d.rowReset.get x = (c.rowReset.get x && !(decide (a ≤ x) && decide (x < a + b))))) ∧
    (s.Single r th (.wmark f) f.g →
      WordResult (.wmark f) s r th f.d (BitVec.ofNat 32 (c.tiles.get f.fn.toNat).mark)) ∧
    (s.Single r th (.mwait f) f.g →
      let lim := match th.status with | .waitingSince m | .runnableSince m => m | _ => s.nextId
      exec (.mwait f) s = .next (
        if ∃ k ∈ s.cards, k.who.crew = r.crew ∧ k.id < lim ∧ ∃ p, k.mat = some p ∧ f.fn.getLsbD p.slot = true then
          s.putThread r { th with age := 0, status := .waitingSince lim }
        else s.putThread r (th.goesTo s.cur.next)))

/-! ## Barrier objects and cards -/

/-- The check that follows every update of a barrier object (R256). -/
def barChecked (o : BarObj) : BarObj :=
  if o.pend = 0 ∧ o.bytes = 0 then { o with phase := o.phase + 1, pend := o.expect }
  else if o.pend = 0 ∧ o.bytes.toInt < 0 then { o with flags := o.flags ||| 1 }
  else o

/-- The one barrier object at `a` of a crew changes to `o`: every local byte outside it is as before. -/
def Crew.BarBecomes (c d : Crew) (crew a : Nat) (o : BarObj) : Prop :=
  d = { c with threads := d.threads, lmem := d.lmem } ∧ d.barGet crew a = o ∧
    ∀ x, (x < a ∨ a + 16 ≤ x) → d.localByte crew x = c.localByte crew x

/-- R256, R257: BINIT sets an object up, or faults CARDBAD on a count of 0 or above 65,535; BARR, its release done, arrives at
one; a landing of an engine takes its bytes off; each in one step with the check that follows. BWAIT waits while the phase is b,
faults CARDBAD on a flagged object, and else goes on with its acquire. A misaligned object faults ALIGN, one beyond LOCAL PERM.
That an empty line does not hold these up is the model's reading (log 26). -/
def BarrierObjectsCount : Prop :=
  ∀ (f : Fields) (s : State) (r : ThreadRef) (th : Thread) (c : Crew), s.crew r.crew = some c →
    let a := (th.reg f.a).toNat
    let b : Word := (th.srcBi f .z32).setWidth 32
    let o := c.barGet r.crew a
    let becomes (i : Instr) (o' : BarObj) : Prop :=
      ∃ t d, exec i s = .next t ∧ t = { s with crews := t.crews } ∧ t.crew r.crew = some d ∧ c.BarBecomes d r.crew a o' ∧
        t.thread r = some (th.goesTo s.cur.next) ∧ (∀ q, q ≠ r → t.thread q = s.thread q)
    (∀ i, i = .binit f ∨ i = .barr f ∨ i = .bwait f → s.Single r th i f.g →
      (a % 16 ≠ 0 → exec i s = .next (s.raise r .align (BitVec.ofNat 64 a))) ∧
      (a % 16 = 0 → c.rcd.localBytes < a + 16 → exec i s = .next (s.raise r .perm (BitVec.ofNat 64 a)))) ∧
    (a % 16 = 0 → a + 16 ≤ c.rcd.localBytes → s.acqPending r = false →
      (s.Single r th (.binit f) f.g → 1 ≤ b.toNat → b.toNat ≤ 65535 →
        becomes (.binit f) { bytes := 0, expect := b.setWidth 16, pend := b.setWidth 16, phase := 0, flags := 0 }) ∧
      (s.Single r th (.binit f) f.g → b = 0 ∨ 65535 < b.toNat →
        exec (.binit f) s = .next (s.raise r .cardBad (BitVec.ofNat 64 a))) ∧
      (s.Single r th (.barr f) f.g → f.sc = .none ∨ th.tx.state ≠ .transactional ∧ s.released r = true ∧ th.errs = [] →
        becomes (.barr f) (if o.pend = 0 then { o with flags := o.flags ||| 1 }
          else barChecked { o with bytes := o.bytes + b, pend := o.pend - 1 })) ∧
      (s.Single r th (.bwait f) f.g → f.sc = .none ∨ th.tx.state ≠ .transactional →
        (o.flags.getLsbD 0 = true ∨ o.flags.getLsbD 1 = true →
          exec (.bwait f) s = .next (s.raise r .cardBad (BitVec.ofNat 64 a))) ∧
        (o.flags.getLsbD 0 = false → o.flags.getLsbD 1 = false →
          exec (.bwait f) s = .next (if o.phase = b then s.putThread r { th with age := 0, status := .waiting }
            else (s.acquire r f.sc).onThread r (·.goesTo s.cur.next)))) ∧
      ∀ n : Nat, ∃ d, (s.barLand r.crew (some a) n).crew r.crew = some d ∧
        c.BarBecomes d r.crew a (barChecked { o with bytes := o.bytes - BitVec.ofNat 32 n }))

/-- The card that an accepted form becomes (R241, R243, R244): its place, its footprint, and the cards before it that the
footprint meets. -/
def State.cardOf (s : State) (r : ThreadRef) (th : Thread) (c : Crew) (g : CardForm) (k0 : Card) : Card :=
  let rs := if k0.kind = .multicast then (s.receiversOf c g).filterMap (·) else []
  let k1 : Card := { k0 with
    id := s.nextId, core := c.core, who := r, fn := c.fn, pc := th.pc, bar := g.barAt
    receivers := rs
    bases := rs.foldl (fun m q => m.set q (((s.crew q).map (·.lbase)).getD 0)) [] }
  let k2 : Card := { k1 with
    reads := (s.footprint r.crew c.core k1).1 ++ g.reads.flatMap (rangeOf r.crew)
    writes := (s.footprint r.crew c.core k1).2 ++ g.writes.flatMap (rangeOf r.crew) }
  { k2 with preds := ((s.cards.filter (·.core == c.core)).filter (fun y => y.before k2)).map (·.id) }

/-- What becomes of a form that has passed its checks: COPIES cards in use, or an acquire in flight, hold it back, a full ring
holds the thread, and else the card enters the ring, the stores of a card that writes global memory count with the thread, and the
thread goes on. -/
def State.cardAccepted (s : State) (r : ThreadRef) (th : Thread) (c : Crew) (g : CardForm) (k0 : Card) : State :=
  if c.rcd.copies ≤ (s.cards.filter (fun k => k.who.crew == r.crew && !k.kind.isMatrix)).length ∨ s.acqPending r then
    s.onThread r (fun t => { t with age := 0, status := .waiting })
  else if Config.ringSlots ≤ (s.cards.filter (·.core == c.core)).length then
    s.onThread r (fun t => { t with status := .held })
  else
    ((({ s with nextId := s.nextId + 1, cards := s.cards ++ [s.cardOf r th c g k0] } : State).onThread r
      (fun t => if k0.global then { t with unack := t.unack + 1 } else t)).endSync r).onThread r (·.goesTo s.cur.next)

/-- The form that CPYL, CPYM or KICK hands over (R252 to R254): CPYL and CPYM name their ranges in registers, KICK a record
of 128 bytes in local memory. -/
def copyForm (th : Thread) (record : List Byte) : Instr → Option (Fields × CardForm)
  | .cpyl f =>
    let dir := (f.fn.extractLsb' 0 2).toNat
    let n := (th.reg f.c).toNat
    let one (i : BitVec 7) : DWord := (th.reg i).setWidth 64
    let g := plainForm { blankCard with
      kind := .linear, dir := dir, cls := (f.fn.extractLsb' 2 2).toNat, bytes := n
      src := if dir = 0 then th.pair f.a else if dir = 2 then th.pair f.b else one f.b
      dst := if dir = 0 then one f.b else if dir = 3 then one f.a else th.pair f.a } (extLow f)
    if n = 0 then none else some (f, { g with bad := g.bad || decide (2 ^ 30 < n) })
  | .cpym f =>
    let n := (th.reg f.c).toNat
    let g := plainForm { blankCard with
      kind := .multicast, cls := (f.fn.extractLsb' 4 2).toNat, src := th.pair f.a, dst := (th.reg f.b).setWidth 64
      bytes := n } (extLow f)
    if n = 0 then none else some (f, { g with
      mask := (f.fn.extractLsb' 0 4).toNat, bad := g.bad || decide (2 ^ 30 < n) || decide (2 ^ 19 ≤ (th.reg f.b).toNat) })
  | .kick f =>
    let g := cardForm record
    if g.card.kind = .tensor then none else some (f, { g with bad := g.bad || g.card.kind == .collective })
  | _ => none

/-- R241, R242, R244, R246, R253, R254: CPYL, CPYM, and a KICK that can read its record of a type other than a tensor copy: the
checks of the copy in their order, then its acceptance. Outside a transaction CPYL and CPYM of no bytes only go on. A count of
zero bytes and the upper words of local addresses are the model's readings (logs 24 and 50). -/
def CopiesAreChecked : Prop :=
  ∀ (i : Instr) (f : Fields) (s : State) (r : ThreadRef) (th : Thread) (c : Crew) (g : CardForm), s.crew r.crew = some c →
    s.Single r th i f.g →
    (∀ g', i = .kick g' → (th.reg f.a).toNat % 128 = 0 ∧ (th.reg f.a).toNat + 128 ≤ c.rcd.localBytes ∧
      s.localEmpty r.crew (th.reg f.a).toNat 128 = false ∧ s.acqPending r = false) →
    (copyForm th (c.localBytes r.crew (th.reg f.a).toNat 128) i = some (f, g) →
      exec i s = .next (
        if g.misaligned then s.raise r .align
        else if s.formOut r.crew c g then s.raise r .perm
        else if th.tx.state = .transactional then s.abortTx r 9 0 0
        else if g.refused c then s.raise r .cardBad
        else s.cardAccepted r th c g g.card)) ∧
    (i = .cpyl f ∨ i = .cpym f → (th.reg f.c).toNat = 0 → th.tx.state ≠ .transactional →
      exec i s = .next (s.putThread r (th.goesTo s.cur.next)))

/-- A run of `n` reads of 64 bytes from `va` on, for which a thread waits at its instruction: the L1 serves each, those of a living
crew's private slot indeterminate (R187), or each passes its checks and gives its bytes (R193, R197, R390). -/
def State.ReadRun (s : State) (r : ThreadRef) (th : Thread) (c : Crew) : Nat → Addr → State → List Byte → Prop
  | 0, _, t, bs => t = s ∧ bs = []
  | n + 1, va, t, bs => ∃ s2 b rest, s.crew r.crew = some c ∧ va.toNat % 64 = 0 ∧
    ((∃ tg b0 s0, s.l1Look r c th va.toNat 64 = (some (tg, b0), s0) ∧ s0.blurred c.fn va.toNat b0 = (b, s2)) ∨
      ∃ s0 s1 tg, s.l1Look r c th va.toNat 64 = (none, s0) ∧ s0.crew r.crew = some c ∧
        s0.translate c.cluster c.fn va.toNat .read false = (.ok tg, s1) ∧ s1.viewBusy tg.pa = false ∧
        s1.readNow r c th va.toNat 64 tg (th.tx.state == .irrevocable) = (.ok b, s2)) ∧
    State.ReadRun s2 r th c n (va + 64) t rest ∧ bs = b ++ rest

/-- R94, R95, R247, R249, R252: a CPYT that can read the layout record of its pair: coordinates beyond the thread's registers fault
ILLEGAL, empty ones wait or, under TRAP, fault EMPTYREG, before any other fault; then, its form passing the checks that need no
record, a broken record faults LAYOUTBAD, and the checks against the layout follow, then its acceptance. -/
def TensorCopiesAreChecked : Prop :=
  ∀ (f : Fields) (s t : State) (r : ThreadRef) (th : Thread) (c : Crew) (bs : List Byte), s.crew r.crew = some c →
    s.Single r th (.cpyt f) f.g → th.tx.state ≠ .transactional →
    let scales := f.x.getLsbD 0
    let k : Card := { blankCard with
      kind := .tensor, dir := (f.fn.extractLsb' 0 1).toNat, cls := (f.fn.extractLsb' 2 2).toNat, scales := scales
      laddr := (th.reg f.b).toNat, sdst := if scales then (extHigh f).toNat else 0 }
    let g : CardForm := { plainForm k (extLow f) with record := th.pair f.a }
    s.ReadRun r th c 4 (th.pair f.a) t bs →
    (layoutOf bs = none → g.misaligned = false → s.formOut r.crew c g = false → g.refused c = false →
      exec (.cpyt f) s = .next ((t.endSync r).raise r .layoutBad (th.pair f.a))) ∧
    ∀ l, layoutOf bs = some l →
      let rs := (List.range l.dims).map (f.c.toNat + ·)
      (c.rcd.regs < f.c.toNat + l.dims → exec (.cpyt f) s = .next ((s.endSync r).raise r .illegal)) ∧
      (f.c.toNat + l.dims ≤ c.rcd.regs → th.full rs = false →
        exec (.cpyt f) s = .next (if f.ew.getLsbD 2 then (s.endSync r).raise r .emptyReg
          else s.onThread r (fun t => { t with age := 0, status := .waiting }))) ∧
      (f.c.toNat + l.dims ≤ c.rcd.regs → th.full rs = true → g.misaligned = false → s.formOut r.crew c g = false →
        g.refused c = false →
        let k1 : Card := { k with layout := l, coords := rs.map (fun i => (th.regs.get i).toInt) }
        exec (.cpyt f) s = .next (match tensorFault c k1 with
          | some e => (t.endSync r).raise r e
          | none => t.cardAccepted r th c g k1))

/-- R261, R336, R337: COLL, its release done, reads its record; its group's entry must name this device, and the card
takes the next instance of its group. The order of the checks of a group is the model's reading (log 36). -/
def CollectiveCardsJoinInstances : Prop :=
  ∀ (f : Fields) (s : State) (r : ThreadRef) (th : Thread) (c : Crew), s.crew r.crew = some c →
    s.Single r th (.coll f) f.g → th.tx.state ≠ .transactional → s.released r = true → th.errs = [] →
    let a := (th.reg f.a).toNat
    let g0 := cardForm (c.localBytes r.crew a 128)
    let g : CardForm := { g0 with bad := g0.bad || g0.card.kind != .collective }
    a % 128 = 0 → a + 128 ≤ c.rcd.localBytes → s.localEmpty r.crew a 128 = false → s.acqPending r = false →
    g.misaligned = false → s.formOut r.crew c g = false →
    (g.refused c = true → exec (.coll f) s = .next (s.raise r .cardBad)) ∧
    (g.refused c = false → ∀ e, s.groupEntry c.fn g.card.group = .error e → exec (.coll f) s = .next (s.raise r e)) ∧
    (g.refused c = false → ∀ ranks, s.groupEntry c.fn g.card.group = .ok ranks →
      (s.cards.filter (fun k => k.who.crew == r.crew && !k.kind.isMatrix)).length < c.rcd.copies →
      (s.cards.filter (·.core == c.core)).length < Config.ringSlots →
      let inst := (s.func c.fn).collCount.get g.card.group
      exec (.coll f) s = .next ((s.cardAccepted r th c g { g.card with ranks := ranks, inst := inst, scope := f.sc }).onFunc
        c.fn (fun q => { q with collCount := q.collCount.set g.card.group (inst + 1) })))

/-- R255: CWAIT goes on, with its acquire, once its crew holds at most n copy-class cards, or n reaches COPIES. -/
def CwaitCountsTheCards : Prop :=
  ∀ (f : Fields) (s : State) (r : ThreadRef) (th : Thread) (c : Crew), s.crew r.crew = some c →
    s.Single r th (.cwait f) f.g → f.sc = .none ∨ th.tx.state ≠ .transactional →
    let n := (th.srcAi f .z32).toNat
    exec (.cwait f) s = .next (
      if c.rcd.copies ≤ n ∨ (s.cards.filter (fun k => k.who.crew == r.crew && !k.kind.isMatrix)).length ≤ n then
        (s.acquire r f.sc).onThread r (·.goesTo s.cur.next)
      else s.putThread r { th with age := 0, status := .waiting })

/-- R220, R233, R243, R337: a card starts only when no predecessor is left and its engine has room: one matrix card, or eight
copies, run at a time on a core. It notes its start, an MRSC its state row, a collective card its instance. -/
def CardsStartAfterTheirPredecessors : Prop :=
  ∀ (s : State) (id : Nat) (k : Card), s.cards.find? (·.id == id) = some k → (s.cards.map (·.id)).Nodup →
    (s.startsNext k = true → k.started = false ∧ k.preds = [] ∧
      (s.cards.filter (fun y => y.core == k.core && y.kind.isMatrix == k.kind.isMatrix && y.started)).length <
        (if k.kind.isMatrix then 1 else Config.copyRun)) ∧
    (s.startsNext k = true →
      let st := match k.mat, s.crew k.who.crew with
        | some p, some c => if k.kind = .mrsc then (List.range p.n).map (fun j => c.cell k.who.crew p.state (p.col + j)) else []
        | _, _ => []
      let s1 : State := { s with cards := s.cards.map (fun (x : Card) =>
        if x.id = id then { x with started := true, startAt := s.fab, stRow := st } else x) }
      exec (.cardStart id) s = .next (if k.kind = .collective then
        s1.onInst k.fn k.group k.inst (fun i => { i with card := some id }) else s1)) ∧
    (s.startsNext k = false → exec (.cardStart id) s = .next s)

/-- R245, R248, R253, R256, R259: a line of a started linear copy into local memory lands. With the accesses of its sectors, all
of this device's memory, translated, passed by the transfer units and served, its bytes stand in the crew's memory, where those of a
living crew's private slot are indeterminate (R187); the line counts as landed, and the barrier object, if the card names one, loses the bytes. -/
def LocalLinesLand : Prop :=
  ∀ (s s2 : State) (id j line : Nat) (k k1 : Card) (c2 : Crew) (rs : List (Nat × Target)),
    s.cards.find? (·.id == id) = some k → k.started = true → k.paused = false → k.kind = .linear → k.dir = 0 →
    (s.unlanded k)[j]? = some (k.who.crew, line) → k.who.crew ≠ 0 →
    let xs := runIn line k.dst.toNat k.bytes
    let src (x : Nat) : Nat := k.src.toNat + (x - k.dst.toNat)
    let sectors := (xs.map (fun x => src x / 64)).dedup
    s.lineGoes k (k.core / 4) sectors [] = (.ok rs [], k1, s2) →
    s2.crew k.who.crew = some c2 → (∀ x ∈ rs, x.2.peer = false) →
    ∃ (t : State) (d : Crew), exec (.cardLineLands id j) s = .next (t.barLand k.who.crew k.bar xs.length) ∧
      t = { s2 with
        fresh := t.fresh, crews := t.crews
        cards := s2.cards.map (fun (x : Card) => if x.id = k.id then { k1 with landed := k1.landed ++ [(k.who.crew, line)] } else x) } ∧
      t.crew k.who.crew = some d ∧ d = { c2 with lmem := d.lmem } ∧ (∀ n, n ≠ k.who.crew → t.crew n = s2.crew n) ∧
      ∀ x, (x ∈ xs → s2.arenaOf k.fn (src x) = none) → d.localByte k.who.crew x = if x ∈ xs then
          (match sectorAt rs (src x) with | some tg => s2.byteAt (tg.pa + src x % 64) | none => 0)
        else c2.localByte k.who.crew x

/-- R220, R232, R233, R243, R245, R261: a started card all of whose rows or lines are done leaves the ring, and the counts of its
successors fall; an MRSC writes its state row back first. The thread of a card that wrote global memory, none of whose stores is in
flight, has one less to wait for. A collective card that has stored its result and whose crew is on a core ends its instance, and
its barrier object loses the bytes. -/
def CardsCompleteAndLeaveTheRing : Prop :=
  ∀ (s : State) (id : Nat) (k : Card), s.cards.find? (·.id == id) = some k → k.started = true →
    let left (s : State) : State := { s with cards := (s.cards.filter (fun (x : Card) => x.id != id)).map (fun (x : Card) =>
      { x with preds := x.preds.erase id }) }
    let freed : State := if k.global then s.onThread k.who (fun t => { t with unack := t.unack - 1 }) else s
    (∀ p, k.mat = some p → p.m ≤ k.finalRows →
      exec (.cardComplete id) s = .next ((left (if k.kind = .mrsc then
        s.onCrew k.who.crew (fun c => c.putCells p.state p.col k.stRow) else s)).settleReads k.who.crew)) ∧
    (k.mat = none → (∀ w ∈ s.writes, ∀ a, w.by_ ≠ .card a id) →
      (k.kind ≠ .collective → (∀ t ∈ s.targets k, t ∈ k.landed) → exec (.cardComplete id) s = .next (left freed)) ∧
      (k.kind = .collective → s.collStage k = some .over → (∃ c, s.crew k.who.crew = some c ∧ c.loc.isSome = true) →
        exec (.cardComplete id) s = .next (({ left freed with
          insts := s.insts.filter (fun i => !(i.fn == k.fn && i.group == k.group && i.inst == k.inst)) } : State).barLand
            k.who.crew k.bar (if k.op = 0 then 4 * k.count else 8)))) ∧
    (∀ p, k.mat = some p → k.finalRows < p.m → exec (.cardComplete id) s = .next s)

/-- R246, R351: a missing page pauses the card; the lowest free card request of its function takes it and a record of
kind 2 enters the fault ring; with none free the card is paused without one, and raises it the same way once one is free. That
the lowest free request is taken is the model's choice (log 14). -/
def MissingPagesPauseCards : Prop :=
  ∀ (s : State) (id : Nat) (k : Card) (need va : Nat), s.anyCard id = some k → k.req = none → k.id = id →
    (k.paused = true ∧ k.miss = some (need, va) ∨ k.paused = false ∧
      ∃ n, (s.cardOuts k).findSome? (fun o => match o.1 with | .page n va => some (n, va) | _ => none) = some (n, va) ∧
        need = n.bits) →
    (s.freeRequest k.fn = none →
      exec (.cardPagePause id) s = .next (s.onCardCopies id (fun k => { k with paused := true, miss := some (need, va) }))) ∧
    (∀ q, s.freeRequest k.fn = some q →
      ∃ e : FaultRec, e.cause = 4 ∧ e.kind = 2 ∧ e.code = need ∧ e.handle = 0x8000 + q ∧ e.tid = k.who.tid ∧ e.pc = k.pc ∧
        e.faddr = BitVec.ofNat 64 va ∧
        exec (.cardPagePause id) s = .next (((s.onCardCopies id (fun k => { k with
          paused := true, miss := some (need, va), req := some q })).onFunc k.fn (fun u => { u with
            cardReqs := u.cardReqs.set q (some id) })).record k.fn e))

/-- R243, R246: a started linear copy into local memory that meets a fault is abandoned: it has left the ring, the
object it counts on carries ABANDON, no local byte outside its destination and that object has changed, and its resident crew is to
be saved with the cause, the issuing thread and the address. The address reported is the model's reading (log 38). -/
def FaultingCardsAreAbandoned : Prop :=
  ∀ (s : State) (id va : Nat) (k : Card) (c : Crew) (cause : Cause), s.cards.find? (·.id == id) = some k →
    k.started = true → k.kind = .linear → k.global = false → k.req = none → s.crew k.who.crew = some c →
    c.loc.isSome = true → c.save = none → k.who.crew ≠ 0 → (∀ e ∈ s.crewList, e.2.lineReplay = []) →
    (s.cardOuts k).findSome? (fun o => match o.1 with | .fault e va => if e = cause then some va else none | _ => none) = some va →
    ∃ t d, exec (.cardAbandon id cause) s = .next t ∧ t.cards.find? (·.id == id) = none ∧
      t = { s with
        cards := t.cards, crews := t.crews, fresh := t.fresh, insts := t.insts, poison := t.poison, checks := t.checks
        uncorr := t.uncorr, log := t.log } ∧
      (cause ≠ .poison → t.poison = s.poison ∧ t.checks = s.checks ∧ t.uncorr = s.uncorr ∧ t.log = s.log) ∧
      t.crew k.who.crew = some d ∧
      d = { c with
        lmem := d.lmem, cards := c.cards.filter (fun (x : Card) => x.id != id)
        save := some {
          kind := 2, cause := cause, code := 0, tid := some k.who.tid, pc := k.pc, faddr := BitVec.ofNat 64 va, faulters := []
          next := 0, deferred := false, dest := [] } } ∧
      (∀ a, k.bar = some a → (d.barGet k.who.crew a).flags.getLsbD 1 = true) ∧
      ∀ x, (x < k.dst.toNat ∨ k.dst.toNat + k.bytes ≤ x) → (∀ a, k.bar = some a → x < a ∨ a + 16 ≤ x) →
        d.localByte k.who.crew x = c.localByte k.who.crew x

/-- R240, R356: a matrix card that has run 2^16 cycles resets its core's engine: every row of the core's crews reads
as +0 and is marked, no matrix card of the core is left, the log takes an entry, and a crew whose card hung is to be
saved with ENGRESET. Which card is named is the model's reading (log 49). -/
def HungEnginesAreReset : Prop :=
  ∀ (s : State) (core : Nat) (k : Card) (c : Crew), (s.hungCard core = some k → k.kind.isMatrix = true ∧ k.core = core ∧
      k.started = true ∧ k.startAt + 2 ^ 16 * Config.fabPerCycle ≤ s.fab) ∧
    (s.hungCard core = some k → s.crews.wf = true → s.crew k.who.crew = some c → (c.loc.map (·.1)) = some core → c.save = none →
      (∀ x ∈ s.cards, x.kind.isMatrix = true → x.core = core → x.who.crew = k.who.crew) →
      ∃ t d, exec (.engineHang core) s = .next t ∧
        t = { s with crews := t.crews, cards := t.cards, loads := t.loads, log := t.log } ∧
        (∀ x ∈ t.cards, x.core = core → x.kind.isMatrix = false) ∧ t.log = s.log ++ [.engineReset core k.fn c.nest k.pc] ∧
        t.crew k.who.crew = some d ∧ (d.save.map (·.cause)) = some .engReset ∧
        ∀ row col, row < c.rcd.accRows → col < 256 → d.cell k.who.crew row col = 0 ∧ d.rowReset.get row = true)

/-- R259, R260: at a tick each bucket of a cluster takes its setting, pays half of RATE towards its debt, and fills
with the rest up to BURST. When a tick comes is not timed (log 34). -/
def TokenTicksRefillBuckets : Prop :=
  ∀ (s : State) (cluster : Nat), cluster < Config.clusters →
    ∃ t, exec (.tokenTick cluster) s = .next t ∧ t = { s with buckets := t.buckets } ∧
      (∀ fn, fn < 65 →
        let b := s.buckets.get (bucketKey cluster fn)
        let v := s.reg (.tbcfg fn)
        let rate := v.toNat % 2 ^ 16
        let burst := max 1 (v.toNat / 2 ^ 32 % 2 ^ 16)
        let pay := if b.debt = 0 then 0 else min b.debt (rate / 2)
        t.buckets.get (bucketKey cluster fn) = { b with cfg := v, debt := b.debt - pay, tok := min (b.tok + (rate - pay)) burst }) ∧
      ∀ k, (∀ fn, fn < 65 → k ≠ bucketKey cluster fn) → t.buckets.get k = s.buckets.get k

/-! ## Host queues and packets -/

/-- R37, R40, R42, R49: a notify write that its register takes moves the kept PIDX of an enabled queue, unless it would go
back, or stops a flat queue that it overruns with code 0x26; any other is dropped and counted. -/
def NotifyWritesMoveQueues : Prop :=
  ∀ (s : State) (fn off size : Nat) (v : DWord), fn ≤ 64 → off < 0x800 → sizeOk size = true →
    let q := off / 8
    let takes := (size = 8 ∨ size = 4) ∧ off % 8 = 0 ∧ (size = 8 → v.toNat < 2 ^ 32)
    let dropped : State := s.setReg (.dropcnt fn) (BitVec.ofNat 64 (min (2 ^ 32 - 1) ((s.reg (.dropcnt fn)).toNat + 1)))
    (∀ x, s.queue fn q = some x → takes →
      let p : Word := v.setWidth 32
      exec (.notifyWrite fn off size v) s = .next (
        if 2 ^ 31 ≤ (p - x.kept).toNat then s
        else if x.segmented = false ∧ 2 ^ x.logSlots < (p - x.cidx).toNat then s.stopQueue fn q x.status 0x26 x.cidx none
        else s.onQueue fn q (fun x => { x with kept := p }))) ∧
    ((s.queue fn q = none ∨ ¬ takes) → exec (.notifyWrite fn off size v) s = .next dropped)

/-- R37, R38, R39, R44: the commands of QCMD. A descriptor that passes its checks enables its queue with nothing read; a
disable leaves the packets that have begun; RESULT says what went wrong. While a packet that a disable left is not finished QCMD
reads BUSY and takes no command; that an enable ends in the step of its write is the model's reading (log 52). -/
def QueueCommandsEnableAndDisable : Prop :=
  ∀ (s : State) (fn q : Nat), fn ≤ 64 → q < 256 →
    let result (t : State) (n : Nat) : State := t.setReg (.qcmd fn) (BitVec.ofNat 64 (q + 2 ^ 16 * n))
    let busy := ∃ id ∈ (s.func fn).busyOn, ∃ p ∈ (s.func fn).leftovers, p.id = id
    (busy → (s.readReg (.qcmd fn)).getLsbD 31 = true ∧
      ∀ i, i = .qcmdEnable fn q ∨ i = .qcmdDisable fn q ∨ i = .qcmdReservedOp fn q → exec i s = .next s) ∧
    (¬ busy →
      (∀ x, s.queue fn q = some x → exec (.qcmdEnable fn q) s = .next (result s 4)) ∧
      (∀ n s1, s.queue fn q = none → s.enabledQueue fn q = (.error n, s1) → exec (.qcmdEnable fn q) s = .next (result s1 n)) ∧
      (∀ x s1, s.queue fn q = none → s.enabledQueue fn q = (.ok x, s1) →
        x.cidx = 0 ∧ x.kept = 0 ∧ x.packets = [] ∧ x.nests = [] ∧
        exec (.qcmdEnable fn q) s = .next (result (s1.onFunc fn (fun k => { k with queues := k.queues.set q (some x) })) 0)) ∧
      (s.queue fn q = none → exec (.qcmdDisable fn q) s = .next (result s 4)) ∧
      (∀ x, s.queue fn q = some x → exec (.qcmdDisable fn q) s = .next (result (s.onFunc fn (fun k => { k with
        queues := k.queues.set q none, leftovers := k.leftovers ++ x.packets.filter (·.begun)
        busyOn := (x.packets.filter (·.begun)).map (·.id) })) 0)) ∧
      exec (.qcmdReservedOp fn q) s = .next (result s 2))

/-- R40 to R43, R46: the front end of a running function reads the slot at CIDX of a queue that has one notified, whose packets
have all begun without a stall and whose drained segment is back: the packet takes its place behind the others and CIDX rises; one
that publishes no RIDX and has no error of its own changes nothing else. A slot that cannot be read stops the queue. -/
def SlotsAreReadInOrder : Prop :=
  ∀ (s : State) (fn q : Nat) (x : Queue), s.queue fn q = some x → s.fnRuns fn = true →
    x.cidx ≠ x.kept → x.drained = none → (∀ p ∈ x.packets, p.begun = true ∧ p.stalled = false) → s.unitBusy fn x.slot = false →
    (x.segmented = false → x.slot = (x.base.toNat + 64 * (x.cidx.toNat % 2 ^ x.logSlots)) % 2 ^ 64) ∧
    (∀ b s1, s.unitRead fn x.slot 64 = (.ok b, s1) →
      let p := packetOf s1.nextId q x b
      (p.words.length = 8 ∧ ∀ i, i < 8 → p.words[i]? = some (BitVec.ofNat 64 (fld b (8 * i) 8))) ∧
      (x.publishes p = false → p.staticCode = 0 → x.badEnd p = false → exec (.slotRead fn q) s =
        .next (({ s1 with nextId := s1.nextId + 1 } : State).onQueue fn q (fun x =>
          { x with cidx := x.cidx + 1, packets := x.packets ++ [p] })))) ∧
    (∀ c s1, s.unitRead fn x.slot 64 = (.error c, s1) →
      exec (.slotRead fn q) s = .next (s1.stopQueue fn q x.status (if c = .poison then 0x24 else 0x23) x.cidx none))

/-- A packet of a queue is the one that begins next (R46), no world switch is due (R50), and its accesses raise no error (R49) and
wait for no view. -/
def State.Begins (s : State) (fn q ty : Nat) (x : Queue) (p : Packet) : Prop :=
  s.begins fn = true ∧ s.packetBusy fn p = false ∧ (s.func fn).chosen = some q ∧ s.queue fn q = some x ∧ x.next = some p ∧ p.get 0 1 = ty ∧
    (s.onFunc fn (fun k => { k with lastQueue := q })).accessCode fn p = 0

/-- The state in which it has begun. -/
def State.begun (s : State) (fn q : Nat) (p : Packet) : State :=
  (s.onFunc fn (fun k => { k with lastQueue := q })).onPacket fn p.id (fun p => { p with begun := true })

/-- R48, R49: a packet that completes without STAT is gone; with STAT its status word stands first at STATADDR, where no mark holds
the write up, and a fault there stops the queue, with code 0x24 where the sector cannot be formed or holds poison and 0x23 else. That
the word is written at once is the model's reading (log 16). -/
def PacketsCompleteWithTheirStatusWords : Prop :=
  ∀ (s : State) (fn code nest : Nat) (p : Packet),
    (p.stat = false → s.finishPacket fn p code nest = s.onFunc fn (·.dropPacket p.id)) ∧
    (∀ tg s1, p.stat = true → s.translateUnit fn p.statAddr .write = (.ok tg, s1) → tg.peer = false →
      (regionOf tg.pa = .hbm ∨ regionOf tg.pa = .capacity) → tg.pa % 8 = 0 → s1.unitHeld tg.pa 8 = false →
      s1.arenaOf fn p.statAddr = none →
      (s1.unformable tg.pa = false → ∃ s2 : State, s.finishPacket fn p code nest = s2.onFunc fn (·.dropPacket p.id) ∧
        s2.bytesAt tg.pa 8 = leBytes 8 (code + 2 ^ 16 * p.tag + 2 ^ 32 * nest) ∧
        ∀ a, (a < tg.pa ∨ tg.pa + 8 ≤ a) → (regionOf a = .hbm ∨ regionOf a = .capacity) → s2.byteAt a = s1.byteAt a) ∧
      (s1.unformable tg.pa = true → s.finishPacket fn p code nest = s1.stopPacket fn p 0x24)) ∧
    (∀ c s1, p.stat = true → s.translateUnit fn p.statAddr .write = (.error c, s1) →
      s.finishPacket fn p code nest = s1.stopPacket fn p (if c = .poison then 0x24 else 0x23))

/-- R31, R46, R47, R53, R67: NOP, INSTALL and APPEND as they begin, and as a stall of them ends. A nest whose walked space is
empty completes as it is installed. That the lowest free
identifier is taken is the model's choice (log 14), and that APPEND reads its records again as it inserts them its
reading (log 56). -/
def InstallAndAppendPackets : Prop :=
  ∀ (s : State) (fn q : Nat) (x : Queue) (p : Packet),
    let part := s.partOf fn
    let q1 := { p with begun := true }
    (s.Begins fn q 0 x p → exec (.pktNop fn q) s = .next ((s.begun fn q p).finishPacket fn q1 0 0)) ∧
    (s.Begins fn q 1 x p → p.get 0x10 8 % 256 ≠ 0 →
      exec (.pktInstall fn q) s = .next ((s.begun fn q p).finishPacket fn q1 0x01 0)) ∧
    (s.Begins fn q 1 x p → p.get 0x10 8 % 256 = 0 →
      ((s.walker part).freeId = none →
        exec (.pktInstall fn q) s = .next ((s.begun fn q p).onPacket fn p.id (fun p => { p with stalled := true }))) ∧
      (∀ id, (s.walker part).freeId = some id →
        exec (.pktInstall fn q) s = .next ((s.begun fn q p).install fn q1 id))) ∧
    (∀ (id : Nat) (t : State) r s1, p.stat = false → t.readRecord fn (p.get 0x10 8) = (.ok r, s1) →
      ∃ (n : Nest) (s2 : State), n = newNest s1.nextId fn p.queue r ∧
        s2 = ((({ s1 with nextId := s1.nextId + 1 } : State).onWalker (t.partOf fn) (fun w =>
          { w with nests := w.nests.set id (some n) })).dropCode (t.partOf fn)).onQueue fn p.queue (fun x =>
            if x.packets.any (·.id == p.id) then { x with nests := x.nests ++ [s1.nextId] } else x) ∧
        (n.hasPoint n.outer [] = true → t.install fn p id = s2.onFunc fn (·.dropPacket p.id)) ∧
        (n.hasPoint n.outer [] = false → t.install fn p id = ((s2.onWalker (t.partOf fn)
          (·.onNest id (fun m => { m with ptr := none }))).completeNest (t.partOf fn) id n).onFunc fn (·.dropPacket p.id))) ∧
    (∀ (id : Nat) (t : State) c s1, t.readRecord fn (p.get 0x10 8) = (.error c, s1) → t.install fn p id = s1.finishPacket fn p c 0) ∧
    (∀ id, (s.func fn).stalledPacket q 1 = some p → (s.walker part).freeId = some id → s.fnRuns fn = true →
      exec (.installStallEnd fn q) s = .next
        ((s.onPacket fn p.id (fun p => { p with stalled := false })).install fn { p with stalled := false } id)) ∧
    (s.Begins fn q 2 x p →
      let t := s.begun fn q p
      let dq := p.get 0x1C 1
      let w := s.walker part
      let waits := w.waits.any (·.1 == dq) || decide (Config.dealEntries - (w.queue dq).length < p.get 0x18 4)
      exec (.pktAppend fn q) s = .next (if waits then
        (t.onPacket fn p.id (fun p => { p with stalled := true })).onWalker part (fun w =>
          { w with waits := w.waits ++ [(dq, q)] })
      else t.appendPacket fn q1)) ∧
    (∀ (t s1 : State) rs, t.unitReads fn (p.get 0x10 8) 32 (p.get 0x18 4) = (.ok rs, s1) →
      let dq := p.get 0x1C 1
      t.appendPacket fn p = (s1.onWalker (t.partOf fn) (fun w => { w with
        queues := w.queues.set dq (w.queue dq ++ rs.map entryOf) })).wakeDrawers (t.partOf fn) dq) ∧
    ((s.func fn).stalledPacket q 2 = some p → s.fnRuns fn = true →
      let dq := p.get 0x1C 1
      let w := s.walker part
      w.waits.find? (·.1 == dq) = some (dq, q) → p.get 0x18 4 ≤ Config.dealEntries - (w.queue dq).length →
      exec (.appendStallEnd fn q) s = .next (((s.onPacket fn p.id (fun p => { p with stalled := false })).onWalker part
        (fun w => { w with waits := w.waits.erase (dq, q) })).appendPacket fn { p with stalled := false }))

/-- R46, R47, R50: a COPY begins by moving its first piece, or else one under way moves its next; SIGNAL sends its store or its
add, WAIT reads its word until its comparison holds, FENCE waits for the nests it names, TIMESTAMP sends the time. A piece whose
source bytes are there, and do not lie in the destination, is sent as they are; of this device they are read by requests that carry
CLASS. That which of
several COPYs moves next is free is the model's reading (log 14). -/
def DataAndOrderPackets : Prop :=
  ∀ (s : State) (fn q : Nat) (x : Queue) (p : Packet),
    let t := s.begun fn q p
    let q1 := { p with begun := true }
    (s.Begins fn q 3 x p → exec (.pktCopy fn q) s = .next (t.copyPiece fn q1)) ∧
    (s.beginsNext fn q 3 = false →
      let ps := ((s.func fn).leftovers ++ ((s.queue fn q).map (·.packets)).getD []).filter (fun p => p.queue == q && p.begun &&
        !p.stalled && p.get 0 1 == 3 && decide (p.copied < p.size) && p.code == 0 && s.copyGoes fn p && !s.packetBusy fn p)
      (ps = [] → exec (.pktCopy fn q) s = .next s) ∧ (ps = [p] → exec (.pktCopy fn q) s = .next (s.copyPiece fn p)) ∧
      (2 ≤ ps.length → ∃ o ∈ ps, exec (.pktCopy fn q) s = .next (({ s with fresh := s.fresh + 1 } : State).copyPiece fn o))) ∧
    (∀ s0 s2 bs tg, s.pieceIn fn p = (.ok bs, s0) → p.copied + bs.length ≤ p.size →
      (p.get 0x18 8 + p.size ≤ p.get 0x10 8 ∨ p.get 0x10 8 + p.size ≤ p.get 0x18 8) →
      ({ s0 with fresh := s0.fresh + bs.length } : State).translateUnit fn (p.get 0x18 8 + p.copied) .write = (.ok tg, s2) →
      s.copyPiece fn p = (s2.unitSend (.packet fn p.id) fn (p.get 0x18 8 + p.copied) tg bs none).onPacket fn p.id
        (fun o => { o with copied := o.copied + bs.length })) ∧
    (∀ src s0, s.translateUnit fn (p.get 0x10 8 + p.copied) .read = (.ok src, s0) → src.peer = false →
      let (again, s1) := s0.translateUnit fn (p.get 0x10 8 + p.copied) .read
      let s2 := s1.want fn p.cls src.pa p.piece
      again = .ok src → s2.runBad src.pa p.piece = false → s2.arenaOf fn (p.get 0x10 8 + p.copied) = none →
      s.pieceIn fn p = (.ok (s2.bytesAt src.pa p.piece), s2)) ∧
    (∀ tg s1, s.Begins fn q 4 x p → t.translateUnit fn (p.get 0x10 8) .write = (.ok tg, s1) →
      exec (.pktSignal fn q) s = .next (s1.unitSend (.packet fn p.id) fn (p.get 0x10 8) tg (leBytes 8 (p.get 0x18 8))
        (if p.get 0x20 1 = 1 then some { op := 0, ty := .b64, b := BitVec.ofNat 64 (p.get 0x18 8), c := 0, d := none, acq := .none }
        else none))) ∧
    (let held (w : Nat) : Bool :=
        let v := p.get 0x18 8
        let m := p.get 0x20 8
        if p.get 0x28 1 = 0 then Nat.land w m == Nat.land v m
        else if p.get 0x28 1 = 1 then Nat.land w m != Nat.land v m
        else decide (Nat.land ((w + 2 ^ 64 - v) % 2 ^ 64) m < 2 ^ 63)
     (∀ b s1, s.Begins fn q 5 x p → t.unitRead fn (p.get 0x10 8) 8 = (.ok b, s1) → leValue b < 2 ^ 64 →
       exec (.pktWait fn q) s = .next (if held (leValue b) then s1.onPacket fn p.id (fun p => { p with copied := 1 }) else s1)) ∧
     (∀ b s1, (s.func fn).underWay q 5 (fun p => p.copied == 0) = some p → s.fnRuns fn = true → s.packetBusy fn p = false →
       s.unitRead fn (p.get 0x10 8) 8 = (.ok b, s1) → leValue b < 2 ^ 64 →
       exec (.waitReread fn q) s = .next (if held (leValue b) then s1.onPacket fn p.id (fun p => { p with copied := 1 }) else s1))) ∧
    (s.Begins fn q 6 x p → exec (.pktFence fn q) s = .next (t.onPacket fn p.id (fun o =>
      { o with nests := if o.get 0x10 1 = 1 then x.nests else [] }))) ∧
    (∀ tg s1, s.Begins fn q 8 x p → t.translateUnit fn (p.get 0x10 8) .write = (.ok tg, s1) →
      exec (.pktTimestamp fn q) s = .next (s1.unitSend (.packet fn p.id) fn (p.get 0x10 8) tg (leBytes 8 (s.fab / Config.fabPerTick)) none))

/-- R43, R44: LINK goes on in its segment, gives the drained one back and completes; a free list without room holds it until
the stall ends. -/
def LinksReturnSegments : Prop :=
  ∀ (s s2 : State) (fn q : Nat) (x : Queue) (p : Packet),
    let t := (s.begun fn q p).onQueue fn q (fun x => x.follow p)
    (x.follow p = { x with
      seg := BitVec.ofNat 64 (p.get 0x10 8), segLog := p.get 0x18 1, segFirst := p.idx + 1, drained := some x.seg }) ∧
    (∀ o, s.Begins fn q 7 x p → t.returnSegment fn q (x.follow p) x.seg = (o, s2) → o = .done ∨ o = .stall →
      exec (.pktLink fn q) s = .next (s2.finishPacket fn { p with begun := true } 0 0)) ∧
    (∀ base o, s.queue fn q = some x → x.drained = some base → s.fnRuns fn = true →
      s.returnSegment fn q x base = (o, s2) → o = .done ∨ o = .stall → exec (.segmentStallEnd fn q) s = .next s2) ∧
    (∀ base b, s.unitBusy fn x.freeList.toNat = false →
      s.unitBusy fn (x.freeList.toNat + 0x10 + 8 * (x.flHead.toNat % x.flCap)) = false →
      s.unitRead fn (x.freeList.toNat + 4) 4 = (.ok b, s2) →
      (x.flHead - BitVec.ofNat 32 (leValue b)).toNat = x.flCap → s.returnSegment fn q x base = (.stall, s2))

/-- R46 to R49: a packet under way whose accesses are done and whose wait is over completes; one that took an error stops its
queue with it. A SIGNAL that completes raises its vector and has the WAITs of its function read again. -/
def FinishedPacketsComplete : Prop :=
  ∀ (s : State) (fn q id : Nat) (p : Packet),
    (List.range 9).findSome? (fun ty => (s.func fn).underWay q ty (fun p => p.id == id)) = some p →
    (s.part (s.partOf fn)).running = some fn → s.packetBusy fn p = false → (∀ w ∈ s.writes, w.by_ ≠ .packet fn p.id) → p.begun = true → p.stalled = false →
    (p.code ≠ 0 → exec (.packetComplete fn q id) s = .next (s.stopPacket fn p (lowest [p.code, s.statusCode fn p]))) ∧
    (p.code = 0 → p.type = 0 ∨ p.type = 1 ∨ p.type = 2 ∨ p.type = 7 ∨ p.type = 8 ∨ p.type = 3 ∧ p.copied = p.size ∨
        p.type = 5 ∧ p.copied = 1 → exec (.packetComplete fn q id) s = .next (s.finishPacket fn p 0 0)) ∧
    (p.code = 0 → p.type = 4 → exec (.packetComplete fn q id) s = .next (
      let t := s.finishPacket fn p 0 0
      (if p.get 0x22 1 / 128 = 1 then t.msi fn (p.get 0x22 1 % 32) else t).lookAgain fn)) ∧
    (p.code = 0 → p.type = 6 →
      (∀ u ∈ p.nests, ∀ i, i < Config.nests → ∀ n, (s.walker (s.partOf fn)).nest i = some n → n.uid ≠ u) →
      exec (.packetComplete fn q id) s = .next (s.finishPacket fn p 0 0))

/-! ## The walker and the crews -/

/-- R53: the tuple that the opening pointer opens next lies inside the bounds, is not below the pointer, and every
smaller tuple inside the bounds is. The pointer as a prefix is the model's form (log 17). -/
def OpeningPointerFindsTheNextTuple : Prop :=
  ∀ (n : Nest) (p tup : List Int), n.ptr = some p → p.length ≤ n.outer → n.nextTuple = some tup →
    tup.length = n.outer ∧ n.inside n.hi tup = true ∧ lexLt tup p = false ∧
      ∀ u, u.length = n.outer → n.inside n.hi u = true → lexLt u tup = true → lexLt u p = true

/-- R53: the first nest in round-robin order that may open a row opens it at its pointer, which moves on; a tuple
without a point opens none. The pointer after a tuple is the model's form (log 17). -/
def RowsOpenAtThePointer : Prop :=
  ∀ (s : State) (part fn id : Nat) (tup : List Int) (n : Nest), s.walks part = some fn →
    let w := s.walker part
    firstOf w.opens (roundRobin w.rrOpen) = some (id, tup) → w.nest id = some n →
    let lo := (n.bounds n.hi n.outer tup).1
    let hi := (n.bounds n.hi n.outer tup).2
    (n.finishing = false ∧ n.nextTuple = some tup ∧ (w.rows.filter (·.nest == id)).length < Config.maxRows) ∧
    exec (.rowOpen part) s = .next (s.onWalker part (fun _ =>
      let nests := w.nests.set id (some { n with ptr := pointerAfter tup })
      if hi ≤ lo then { w with nests := nests }
      else { w with
        nests := nests, rrOpen := id
        rows := w.rows ++ [{
          nest := id, tuple := tup, lo := lo, hi := hi, wm := 0, done := 0, issued := 0, closed := false }] }))

/-- A point of a row has retired: it is below the watermark, or its bit is set. -/
def Row.doneAt (r : Row) (j : Int) : Prop := j < r.lo + r.wm ∨ (r.lo + r.wm ≤ j ∧ r.done.getLsbD (j - r.lo - r.wm).toNat = true)

/-- R54: a retirement adds its point to the row's retired points and no other; the watermark stands at the first that has
not retired, and the row closes once it has passed all. -/
def RetirementsMoveTheWatermark : Prop :=
  ∀ (r : Row) (j : Int), r.lo + r.wm ≤ j → j < r.lo + r.wm + 64 →
    let u := r.retire j
    (∀ x : Int, x < r.lo + r.wm + 64 → (u.doneAt x ↔ r.doneAt x ∨ x = j)) ∧ u.done.getLsbD 0 = false ∧ r.wm ≤ u.wm ∧
      (u.closed = true ↔ (u.wm : Int) = u.hi - u.lo) ∧ u = { r with wm := u.wm, done := u.done, issued := u.issued, closed := u.closed }

/-- R55 to R57, R63, R64: the walker releases a ready point of the first nest in round-robin order that may: the point is
inside its row's window, neither released nor retired, its dependences met; its entry joins the nest's deal queue with
the key of its priority and the release count. -/
def PointReleasesJoinTheDealQueue : Prop :=
  ∀ (s : State) (part fn id b : Nat) (r : Row) (n : Nest), s.walks part = some fn →
    let w := s.walker part
    firstOf w.releasable (roundRobin w.rrRel) = some (id, r, b) → w.nest id = some n →
    let q := n.rcd.dq
    (n.rcd.resident = false ∧ (w.queue q).length < Config.dealEntries ∧ r ∈ w.rows ∧ r.nest = id ∧ r.closed = false ∧ b < 64 ∧
      r.lo + r.wm + b < r.hi ∧ r.issued.getLsbD b = false ∧ r.done.getLsbD b = false ∧
      ∀ d ∈ n.rcd.deps, w.depMet n (w.rowsOf id) ((List.range n.rcd.walk).map (fun k =>
        (if k < n.outer then r.tuple.getD k 0 else r.lo + r.wm + b) - d.getD k 0)) = true) ∧
    exec (.pointRelease part) s = .next ((s.onWalker part (fun _ => { w with
      rows := w.rows.map (fun x => if x.nest = id ∧ x.tuple = r.tuple then
        { x with issued := x.issued ||| BitVec.ofNat 64 (2 ^ b) } else x)
      nests := w.nests.set id (some { n with released := n.released + 1 })
      queues := w.queues.set q (w.queue q ++ [{
        key := BitVec.ofNat 64 ((15 - n.rcd.prio) * 2 ^ 60 + w.relCount % 2 ^ 60), passed := 0
        point := some (s.pointEntry part id n (r.tuple ++ [r.lo + r.wm + b])), payload := [] }])
      rrRel := id, relCount := w.relCount + 1 })).revokeIfShort part)

/-- R54, R139, R357, R360: once every thread of a crew whose function runs has retired, or has left with its stores answered, its
point is given back: RETIRED rises and HELD falls. In an aborted crew, which holds no frame, retired threads too must have left with
their stores answered; a crew lost with its cluster gives no point back. -/
def CrewsRetireTheirPoints : Prop :=
  ∀ (s : State) (k : Nat) (c : Crew), s.crew k = some c → c.holdsPoint = true → (c.loc = none → c.fst.state ≠ 1) →
    (∀ t ∈ c.threadList, t.2.retired = true ∧ c.frame ≠ 8192 ∨ t.2.status = .exited ∧ t.2.unack = 0 ∧ t.2.unackNc = 0) →
    (s.part c.part).running = some c.fn →
    exec (.retireEvent k) s = .next ((s.putCrew k { c with holdsPoint := false }).onWalker c.part (fun w =>
      w.retire c.nest (c.point.coords.map (·.toInt)))) ∧
    ∀ (w : Walker) n pt, w.nest c.nest = some n →
      (w.retire c.nest pt).nest c.nest = some { n with retired := n.retired + 1, held := n.held - 1 }

/-- R59, R149: BNDSET's event raises a constant HI of a crew that holds its point, and never lowers one; the rows of the nest
that are not closed take their new ends; the thread goes on. A crew without its point faults NESTBAD. -/
def BoundsRise : Prop :=
  ∀ (s : State) (crew tid level : Nat) (v : Word) (next : Addr) (c : Crew) (th : Thread), s.crew crew = some c →
    s.thread ⟨crew, tid⟩ = some th → th.status = .bndset level v next → c.loc.isSome = true → c.save = none →
    s.walks c.part = some c.fn →
    (c.holdsPoint = true → exec (.bndsetEvent crew tid) s = .next ((s.putThread ⟨crew, tid⟩ (th.goesTo next)).onWalker c.part
      (fun w => w.raiseHi c.nest level v.toInt))) ∧
    (c.holdsPoint = false → exec (.bndsetEvent crew tid) s = .next
      (({ s with cur := { s.cur with next := next } } : State).raise ⟨crew, tid⟩ .nestBad)) ∧
    ∀ (w : Walker) (n : Nest) (x : Int), w.nest c.nest = some n → level < n.hi.length →
      (x ≤ n.hi.getD level 0 → w.raiseHi c.nest level x = w) ∧
      (n.hi.getD level 0 < x → ∃ m, (w.raiseHi c.nest level x).nest c.nest = some m ∧
        m = { n with hi := n.hi.set level x, forgone := m.forgone } ∧ n.forgone ≤ m.forgone ∧ m.hi.getD level 0 = x ∧
        ∀ r ∈ (w.raiseHi c.nest level x).rows, r.nest = c.nest → r.closed = false →
          r.hi = (n.bounds m.hi n.outer r.tuple).2)

/-- R31, R61: a nest whose rows are all gone, with no point held and none to open, completes: without DONEADDR its identifier
is free at once; with one its value is sent, and the identifier is free once that write, to this device, is acknowledged. A write
that faults is recorded with kind 4. -/
def NestsComplete : Prop :=
  ∀ (s : State) (part nest fn : Nat) (n : Nest), s.walks part = some fn → (s.walker part).nest nest = some n →
    (n.finishing = false → n.nextTuple = none → (∀ r ∈ (s.walker part).rows, r.nest ≠ nest) → n.held = 0 →
      let free (t : State) : State := t.onWalker part (fun w => { w with nests := w.nests.set nest none })
      (n.rcd.doneAddr = 0 → exec (.nestCompletion part nest) s = .next (free s)) ∧
      (∀ tg s1, n.rcd.doneAddr ≠ 0 → s.translateUnit n.fn n.rcd.doneAddr.toNat .write = (.ok tg, s1) →
        exec (.nestCompletion part nest) s = .next ((s1.unitSend (.completion n.fn nest n.uid) n.fn n.rcd.doneAddr.toNat tg
          (leBytes 8 n.rcd.doneVal.toNat) none).onWalker part (fun w => w.onNest nest (fun n => { n with finishing := true })))) ∧
      (∀ e s1, n.rcd.doneAddr ≠ 0 → s.translateUnit n.fn n.rcd.doneAddr.toNat .write = (.error e, s1) →
        ∃ f : FaultRec, f.cause = causeCode e ∧ f.kind = 4 ∧ f.faddr = n.rcd.doneAddr ∧ f.nest = nest ∧
          exec (.nestCompletion part nest) s = .next (free (s1.record n.fn f)))) ∧
    (∀ w, n.finishing = true → s.partOf fn = part → s.writes.find? (s.completionSettled part nest) = some w →
      w.by_ = .completion fn nest n.uid → w.settled = true ∧ w.space ≠ .peer ∧
      exec (.completionWriteAck part nest) s = .next
        (({ s with writes := s.writes.filter (fun (x : Write) => x.id != w.id) } : State).onWalker part (fun w =>
          { w with nests := w.nests.set nest none })))

/-- R30, R64, R103, R104, R347: what a started crew is: THREADS threads at the entry, thread k at position k with ARGS in g0
and g1 and every other register, predicate and cursor zero; a context of its core, a frame slot, and HELD one higher. -/
def CrewsStartAsTheRecordSays : Prop :=
  ∀ (s : State) (core fn part nest : Nat) (r : NestRec) (p : PointEntry),
    let t := s.startCrew core fn part nest r p
    ∃ c, t.crew s.nextId = some c ∧ s.nextId < t.nextId ∧ c.fn = fn ∧ c.part = part ∧ c.nest = nest ∧ c.rcd = r ∧ c.point = p ∧
      c.holdsPoint = true ∧ c.ended = false ∧ (c.loc.map (·.1)) = some core ∧ c.fst.state = 1 ∧ c.cards = [] ∧ c.marks = [] ∧
      (∀ tid, tid < r.threads → ∃ th, c.threads.get tid = some th ∧ th.pc = r.entry ∧ th.pos = tid ∧
        th.status = .runnable ∧ th.retired = false ∧ th.empty = [] ∧ th.preds = [] ∧ th.fibres = [] ∧ th.streams = [] ∧
        th.txthr = 8 ∧ th.dqsel = BitVec.ofNat 2 r.dq ∧
        ∀ k, th.regs.get k = if k = 0 then r.args.extractLsb' 0 32 else if k = 1 then r.args.extractLsb' 32 32 else 0) ∧
      (∀ tid, r.threads ≤ tid → c.threads.get tid = none) ∧
      ∀ n, (s.walker part).nest nest = some n → (t.walker part).nest nest = some { n with held := n.held + 1 }

/-- R29, R63, R64, R66, R349: a core that may start crews draws a point entry that it can take, one that none it passes is
preferred to, and starts its crew; a ready point of a resident nest that it can take starts its crew directly (the
model's reading, log 32). -/
def CoresStartCrewsForPoints : Prop :=
  ∀ (s : State) (core pick fn : Nat), s.startsFor core = some fn →
    let part := s.serves core
    let w := s.walker part
    let ok := s.eligibleAt core part fn
    (core < Config.cores ∧ s.thalt = false ∧ s.walks part = some fn) ∧
    (∀ q i e p r, s.startQueue core part fn = some q → drawn (w.queue q) ok pick = some (i, e) → e.point = some p →
      w.rcdOf p = some r →
      ((w.queue q)[i]? = some e ∧ s.coreTakes part core p.place p.unit = true ∧ s.roomFor core fn r = true) ∧
      exec (.crewStart core pick) s = .next ((s.onWalker part (fun w =>
        { w with queues := w.queues.set q (afterDraw (w.queue q) ok i) })).startCrew core fn part p.nest r p)) ∧
    (∀ id r b rcd p, (s.residentPoints core part fn)[pick % (s.residentPoints core part fn).length]? = some (id, r, b, rcd, p) →
      rcd.resident = true ∧ s.coreTakes part core p.place p.unit = true ∧ s.roomFor core fn rcd = true ∧
      exec (.residentCrewStart core pick) s = .next ((s.onWalker part (fun w => w.issuePoint id r b)).startCrew core fn part
        id rcd p))

/-- R139, R187, R253, R347: a crew that has ended on a core, with its point given back, its stores acknowledged, its cards and the
lines that land in it done, is gone, and its frame reads free; nothing changes for another crew. -/
def EndedCrewsFreeTheirResources : Prop :=
  ∀ (s : State) (k core ctx : Nat) (c : Crew), s.crew k = some c → c.loc = some (core, ctx) →
    c.ended = true → c.holdsPoint = false → c.save = none → (∀ t ∈ c.threadList, t.2.unack = 0 ∧ t.2.unackNc = 0) →
    (∀ x ∈ s.cards, x.who.crew ≠ k ∧ k ∉ x.receivers) → (∀ e ∈ s.crewList, ∀ x ∈ e.2.cards, k ∉ x.receivers) →
    c.lineReplay = [] →
    ∃ t, exec (.crewResourcesFreed k) s = .next t ∧ t.crew k = none ∧ (∀ j, j ≠ k → t.crew j = s.crew j) ∧
      t = { s with
        crews := t.crews, lwriter := t.lwriter, home := t.home, veil := t.veil, poison := t.poison, checks := t.checks
        log := t.log, writes := t.writes, nextId := t.nextId, clusters := t.clusters } ∧
      (s.unitHeld (s.frameAt c) 3 = false → (∀ i, i < 3 → regionOf (s.frameAt c + i) ≠ .view) → t.bytesAt (s.frameAt c) 3 = [0, 0, 0])

/-! ## Partitions -/

/-- R50, R73, R77, R78, R344: what the end of a slice starts. A partition none of whose entries names a function
becomes vacant; where every function is idle, or the next entry names the running one, the slice starts anew;
otherwise a switch begins, in which every resident crew of the running function is to be saved, once the packets that have begun
are complete, COPY and WAIT packets apart. The start of a slice's count and that wait are the model's readings (logs 61 and 100). -/
def SlicesEndInSwitches : Prop :=
  ∀ (s : State) (part fn : Nat), (s.part part).running = some fn → (s.part part).switching = false →
    (s.part part).since + (s.part part).len * 10 * Config.fabPerUs ≤ s.fab →
    let now (k len : Nat) : State := s.onPart part (fun t => { t with slice := k, len := len, since := s.fab })
    (s.anySlice part = none → exec (.worldSwitch part) s = .next (
      if s.packetsPause fn then s.beginSwitch part fn (s.part part).slice none else s)) ∧
    (s.anySlice part ≠ none → s.nextSlice part = none →
      exec (.worldSwitch part) s = .next (now (s.part part).slice (s.part part).len)) ∧
    (∀ k, s.anySlice part ≠ none → s.nextSlice part = some (k, fn) →
      exec (.worldSwitch part) s = .next (now k (max 1 (s.field (.pslice part k) 0 16)))) ∧
    (∀ k v, s.anySlice part ≠ none → s.nextSlice part = some (k, v) → v ≠ fn →
      exec (.worldSwitch part) s = .next (if s.packetsPause fn then s.beginSwitch part fn k (some v) else s)) ∧
    ∀ k inc, let t := s.beginSwitch part fn k inc
      t.part part = { (s.part part) with
        slice := k, len := max 1 (s.field (.pslice part k) 0 16), since := s.fab, switching := true, incoming := inc } ∧
      ∀ n c, s.crew n = some c → c.loc.isSome = true → c.ended = false → c.fn = fn →
        ∃ d, t.crew n = some d ∧ d.save.isSome = true ∧ d = { c with save := d.save }

/-- The walker share that a function left in its save area can be read: none is there, or no sector of the area is poisoned, fails
its check value or cannot be formed, and no other write has gone into it (R62, R272, R358). -/
def State.ShareReads (s : State) (v : Nat) : Prop :=
  (s.func v).shareHeld = false ∨
    (∀ k, s.saveSector v ≤ k → k < s.saveSector v + 2 ^ 16 → s.sectorBad (64 * k) = false) ∧
      s.intact (s.saveSector v * 64) (2 ^ 22) (s.func v).shareSeed = true

/-- R50, R62, R77, R78, R358: a switch ends once no crew of the outgoing function is on a core, its packets rest and its completion
writes are answered: the walker's share is the outgoing function's again, and the incoming one runs with its own; one with a
poisoned sector, or one whose check fails, leaves the walker without nests, rows and entries. A vacant partition takes a function in by the second
half. -/
def SwitchesExchangeTheWalker : Prop :=
  ∀ (s : State) (part fn : Nat),
    ((s.part part).running = some fn → (s.part part).switching = true → s.switchedOut fn = true →
      (s.switchedOut fn = true → (∀ n c, s.crew n = some c → c.loc.isSome = true → c.fn ≠ fn) ∧ s.packetsPause fn = true) ∧
      ((s.part part).incoming = none → exec (.worldSwitchDone part) s = .next ((s.storeShare part fn).onPart part (fun t =>
        { t with running := none, switching := false, incoming := none, since := s.fab }))) ∧
      (∀ v, (s.part part).incoming = some v → v ≠ fn → s.field (.vfpart v) 31 1 = 1 → s.field (.vfpart v) 0 4 = part →
        ∃ t, exec (.worldSwitchDone part) s = .next t ∧ (t.part part).running = some v ∧ (t.part part).switching = false ∧
          (t.func fn).share = s.walker part ∧
          ((s.storeShare part fn).ShareReads v → t.walker part = (s.func v).share) ∧
          ((s.func v).shareHeld = true →
            (s.storeShare part fn).badIn (s.saveSector v) (2 ^ 16) ≠ [] →
            t.walker part = { (default : Walker) with waits := (s.func v).share.waits } ∧
              (t.func v).records.length = (s.func v).records.length + 1))) ∧
    ((s.part part).running = none → part < s.parts' → ∀ k v,
      (match s.nextSlice part with | some x => some x | none => s.anySlice part) = some (k, v) → s.ShareReads v →
      ∃ t, exec (.vacancyExit part) s = .next t ∧ (t.part part).running = some v ∧ (t.part part).slice = k ∧
        (t.part part).since = s.fab ∧ t.walker part = (s.func v).share)

/-- R72, R73: a kitty cluster that has held no crew of its own for LENDDLY is idle; the lowest idle one is lent to the lowest
short partition that its own may lend to; a revoked cluster goes back once the borrower's crews are off it. Each time its caches
are emptied and its local memory and accumulators zeroed, and a partition that is short without it takes its own clusters back. -/
def KittyClustersAreLentAndReturned : Prop :=
  ∀ (s : State) (k : Nat),
    (s.kittyEmpty k = true →
      (s.cluster k).idleSince + max 1 (min 1000 (s.field (.pkitty (s.clusterPart k)) 12 10)) * Config.fabPerUs ≤ s.fab →
      exec (.kittyIdle k) s = .next (s.onCluster k (fun c => { c with idle := true }))) ∧
    (let clean (t : State) : State := { t with
      lwriter := t.lwriter.keep (fun a => a / Config.localBytes / 4 != k)
      clean := (((t.clean.set (4 * k + 0) true).set (4 * k + 1) true).set (4 * k + 2) true).set (4 * k + 3) true
      accClean := (((t.accClean.set (4 * k + 0) true).set (4 * k + 1) true).set (4 * k + 2) true).set (4 * k + 3) true
      l1 := t.l1.filter (fun (l : L1Line) => l.core / 4 != k), icache := t.icache.filter (fun b => b.core / 4 != k)
      tlb := t.tlb.filter (fun e => e.cluster != k) }
     (∀ part q, s.borrower part = some q →
       (s.kitty part).find? (fun k => (s.cluster k).idle && s.kittyEmpty k) = some k →
       q ≠ part ∧ s.field (.pkitty part) (32 + q) 1 = 1 ∧ s.short q = true ∧
       exec (.kittyLend part) s = .next (((clean s).onCluster k (fun c => { c with
         lent := some q, idle := false })).revokeIfShort part)) ∧
     (∀ q, (s.cluster k).lent = some q → (s.cluster k).revoking = true →
       (∀ e ∈ s.crewList, e.2.loc.isSome = true → e.2.cluster ≠ k) →
       exec (.revocationDone k) s = .next (((clean s).onCluster k (fun c => { c with
         lent := none, revoking := false })).revokeIfShort q)))

/-- R72, R73: PREVOKE revokes the kitty clusters whose bits are set; a PKITTY that no longer lends to a borrower takes its
clusters back. A revocation has every crew on the cluster saved. -/
def RevocationsBegin : Prop :=
  ∀ (s : State) (part : Nat), s.ready = true →
    (∀ v : BitVec 16, part < s.parts' → exec (.prevokeWrite part v) s = .next
      (((List.range (perPart s.parts').2.2).filter (fun b => v.getLsbD b)).foldl (fun s b => s.revoke (s.kittyBase part + b)) s)) ∧
    (∀ v : DWord, part < 16 → exec (.pkittyWrite part v) s = .next (
      let t := s.setReg (.pkitty part) ((Reg.pkitty part).merge (s.reg (.pkitty part)) v)
      ((List.range Config.clusters).filter (fun k => s.clusterPart k == part && match (s.cluster k).lent with
        | some q => t.field (.pkitty part) (32 + q) 1 == 0
        | none => false)).foldl State.revoke t)) ∧
    ∀ k q, (s.cluster k).lent = some q → (s.cluster k).revoking = false →
      ((s.revoke k).cluster k).revoking = true ∧
      ∀ n c, s.crew n = some c → c.loc.isSome = true → c.cluster = k → c.ended = false →
        ∃ d, (s.revoke k).crew n = some d ∧ d.save.isSome = true ∧ d = { c with save := d.save }

/-- R69, R357: a cluster that fails is out of service with its caches; its resident crews are lost, with no frame
written and their reads gone; the log takes an entry. What becomes of the lost crews is the model's reading (log 62).
-/
def FailedClustersLoseTheirCrews : Prop :=
  ∀ (s : State) (k : Nat), k < Config.clusters → (s.cluster k).failed = false →
    ∃ t, exec (.clusterFail k) s = .next t ∧ (t.cluster k).failed = true ∧ (t.cluster k).lent = none ∧
      t.log = s.log ++ [.clusterFail k] ∧ t.home = s.home ∧ t.msc = s.msc ∧ t.parity = s.parity ∧
      (∀ x ∈ t.cards, x.core / 4 ≠ k) ∧ (∀ e ∈ t.tlb, e.cluster ≠ k) ∧ (∀ l ∈ t.l1, l.core / 4 ≠ k) ∧
      ∀ n c, s.crew n = some c → c.loc.isSome = true → c.cluster = k →
        (∃ d, t.crew n = some d ∧ d.loc = none ∧ d.ended = true ∧ ∀ x ∈ d.threadList, x.2.status = .exited) ∧
        ∀ l ∈ t.loads, l.who.crew ≠ n

/-- R76, R78, R80: PCFG changes PARTS only while no function is assigned and none runs, VFPART only for a function
that does not run and has no nests, CAL only if every partition keeps a slot; each refusal sets PCFG.ERR and changes
nothing else. The change is applied once no write stands between the shared cache and HBM, and BUSY falls with every walker
empty. Two refusals are the model's readings (logs 63 and 64). -/
def PartitionRegistersCheckTheirWrites : Prop :=
  ∀ (s : State), s.ready = true →
    let err (t : State) : State := t.setField .pcfg 30 1 1
    (∀ v : Word, v.getLsbD 30 = false →
      let n := v.toNat % 8
      let refused := 4 < n ∨ (∃ f, f < 64 ∧ s.field (.vfpart f) 31 1 ≠ 0) ∨ s.field .pcfg 31 1 = 1
      (n = s.field .pcfg 0 3 → exec (.pcfgWrite v) s = .next s) ∧
      (n ≠ s.field .pcfg 0 3 → refused → exec (.pcfgWrite v) s = .next (err s)) ∧
      (n ≠ s.field .pcfg 0 3 → ¬ refused →
        exec (.pcfgWrite v) s = .next ((s.setField .pcfg 0 3 n).setField .pcfg 31 1 1))) ∧
    (∀ fn (v : Word), fn < 64 →
      let part := s.field (.vfpart fn) 0 4
      let good := (s.part part).running ≠ some fn ∧ s.hasNests fn = false ∧ v.toNat % 16 < s.parts' ∧
        (v.getLsbD 31 = true ∨ s.field (.vfpart fn) 31 1 = 0 ∨ ∀ e ∈ s.crewList, e.2.fn ≠ fn)
      let t := s.setReg (.vfpart fn) ((Reg.vfpart fn).merge (s.reg (.vfpart fn)) (v.setWidth 64))
      (good → exec (.vfpartWrite fn v) s = .next { t with crews := t.crews.map (fun e => (e.1, e.2.map (fun c =>
        if c.fn = fn then { c with part := t.partOf fn } else c))) }) ∧
      (¬ good → exec (.vfpartWrite fn v) s = .next (err s))) ∧
    (∀ n (v : Word), n < 64 →
      let t := s.setReg (.cal n) ((Reg.cal n).merge (s.reg (.cal n)) (v.setWidth 64))
      let served := ∀ p, p < s.parts' → ∃ j, j < 64 ∧ t.field (.cal j) 4 1 = 1 ∧ t.field (.cal j) 0 4 = p
      (served → exec (.calWrite n v) s = .next t) ∧ (¬ served → exec (.calWrite n v) s = .next (err s))) ∧
    (∀ p k (v : Word), p < 16 → k < 16 → exec (.psliceWrite p k v) s = .next
      (s.setReg (.pslice p k) ((Reg.pslice p k).merge (s.reg (.pslice p k)) (v.setWidth 64)))) ∧
    (s.field .pcfg 31 1 = 1 → (∀ w ∈ s.writes, ¬ (w.stage = .home ∧ regionOf w.pa = .hbm)) → ∃ t, exec .partsApplyDone s = .next t ∧ t.walkers = [] ∧ t.parts = [] ∧ t.field .pcfg 31 1 = 0 ∧
      t.home = s.home ∧ t.crews = s.crews)

/-! ## Translation, ownership, format windows -/

/-- R191, R192: an invalidation removes every entry of the cluster TLBs that it matches, by VMID, ASID and a page that holds its
address, and the L1 lines that such entries translated, and no others; dirty private lines of the resident crews go to memory
first. TLBI does it when BUSY falls, a host fence at once. -/
def InvalidationsRemoveTranslations : Prop :=
  ∀ (s : State),
    (∀ sel,
      let hit (vmid asid page size : Nat) : Prop :=
        (∀ x, sel.vmid = some x → x = vmid) ∧ (∀ x, sel.asid = some x → x = asid) ∧
          ∀ x, sel.vpn = some x → page / 4096 % 2 ^ 31 ≤ x % 2 ^ 31 ∧ x % 2 ^ 31 < page / 4096 % 2 ^ 31 + size / 4096
      ∃ t, exec (.hostTlbFence sel) s = .next t ∧
        t = { s with
          tlb := t.tlb, l1 := t.l1, crews := t.crews, writes := t.writes, nextId := t.nextId, home := t.home, veil := t.veil
          poison := t.poison, checks := t.checks, log := t.log } ∧
        ((∀ e ∈ s.crewList, e.2.loc.isSome = true → e.2.own = []) → t = { s with tlb := t.tlb, l1 := t.l1 }) ∧
        (∀ e, e ∈ t.tlb ↔ e ∈ s.tlb ∧ ¬ hit e.vmid e.asid e.page e.psize) ∧
        (∀ l, l ∈ t.l1 ↔ l ∈ s.l1 ∧ ¬ hit l.vmid l.asid l.page l.psize)) ∧
    (∀ v : DWord, s.ready = true → s.field .tlbi 63 1 = 0 →
      exec (.tlbiWrite v) s = .next (s.setReg .tlbi (v ||| 0x8000000000000000))) ∧
    (s.field .tlbi 63 1 = 1 →
      let v := (s.reg .tlbi).toNat
      let sc := v / 2 ^ 61 % 4
      let sel : TlbSel := {
        vmid := if sc = 0 then none else some (v / 2 ^ 47 % 2 ^ 14), asid := if sc < 2 then none else some (v / 2 ^ 31 % 2 ^ 16)
        vpn := if sc = 3 then some (v % 2 ^ 31) else none }
      exec .tlbiDone s = .next ((s.flushTlb sel).setReg .tlbi 0) ∧ exec (.hostTlbFence sel) s = .next (s.flushTlb sel))

/-- R196: FOCMD's READ gives the owner of a frame; its SET takes the frames of its run one by one in ascending order, writing the
owner of each, and of no other, once the frame's lines are written back, and ends BUSY with the last; RESULT says why a command
is refused. The order of the refusals is the model's reading (log 67). -/
def FrameOwnersAreReadAndSet : Prop :=
  ∀ (s : State) (v : DWord), s.ready = true →
    let op := v.toNat / 2 ^ 56 % 4
    let owner := v.toNat / 2 ^ 48 % 256
    let n := v.toNat / 2 ^ 24 % 2 ^ 24
    let f := v.toNat % 2 ^ 24
    let done (t : State) (result : Nat) : State := t.setReg .focmd (foStatus false result 0)
    (s.field .focmd 63 1 = 0 →
      (op = 0 ∨ op = 3 → exec (.focmdRefused v) s = .next (done s 5)) ∧
      (op = 2 → Config.hbmFrames ≤ f → exec (.focmdRefused v) s = .next (done s 2)) ∧
      (op = 1 → n = 0 ∨ Config.hbmFrames < f + n → exec (.focmdRefused v) s = .next (done s 2)) ∧
      (op = 1 → n ≠ 0 → f + n ≤ Config.hbmFrames → owner = 0 ∨ 66 ≤ owner ∧ owner ≤ 254 →
        exec (.focmdRefused v) s = .next (done s 3)) ∧
      (op = 1 → n ≠ 0 → f + n ≤ Config.hbmFrames → ¬ (owner = 0 ∨ 66 ≤ owner ∧ owner ≤ 254) → s.firmwareIn f n = true →
        exec (.focmdRefused v) s = .next (done s 4)) ∧
      (op = 2 → f < Config.hbmFrames →
        exec (.focmdRead v) s = .next (done (s.setReg .fodata (BitVec.ofNat 64 (s.frameOwner f))) 0)) ∧
      (op = 1 → n ≠ 0 → f + n ≤ Config.hbmFrames → ¬ (owner = 0 ∨ 66 ≤ owner ∧ owner ≤ 254) → s.firmwareIn f n = false →
        exec (.focmdSet v) s = .next (s.setReg .focmd (foStatus true 1 v)))) ∧
    (s.reg .focmd = foStatus true 1 v → op = 1 → f + n ≤ Config.hbmFrames → s.frameBusy f 1 = false →
      ∃ t, exec .focmdSetDone s = .next t ∧ t = { s with owners := t.owners, regs := t.regs } ∧
        (n ≤ 1 → t.reg .focmd = foStatus false 0 0) ∧
        (2 ≤ n → t.field .focmd 63 1 = 1 ∧ t.field .focmd 56 2 = 1 ∧ t.field .focmd 48 8 = owner ∧
          t.field .focmd 24 24 = n - 1 ∧ t.field .focmd 0 24 = f + 1) ∧
        ∀ k, t.frameOwner k = if k = f then owner else s.frameOwner k)

/-- R161, R162: CTL.ENABLE of a window that breaks no rule turns BUSY on with it, and BUSY falls when the view works;
a refused one sets CTL.ERR alone; a disable clears ENABLE and raises BUSY until every write of the view is
acknowledged. What a busy or enabled window refuses is the model's reading (log 69). -/
def FormatWindowsTurnOnAndOff : Prop :=
  ∀ (s : State) (w : Nat) (v : Word), s.ready = true → w < 16 → v.getLsbD 29 = false →
    let on := s.field (.wctl w) 31 1 = 1
    let busy := s.field (.wctl w) 30 1 = 1
    (v.getLsbD 31 = true → ¬ on → ¬ busy →
      exec (.fwinEnable w v) s = .next (if s.fwinRefused w v then s.setField (.wctl w) 29 1 1
        else (s.setReg (.wctl w) ((Reg.wctl w).merge (s.reg (.wctl w)) (v.setWidth 64 &&& ~~~(0x20000000 : DWord)))).setField
          (.wctl w) 30 1 1)) ∧
    (v.getLsbD 31 = true → ¬ on → busy → exec (.fwinEnable w v) s = .next (s.setField (.wctl w) 29 1 1)) ∧
    (on → busy → exec (.fwinEnableDone w) s = .next (s.setField (.wctl w) 30 1 0)) ∧
    (v.getLsbD 31 = false → on → ¬ busy → (v.setWidth 64 &&& (0x13 : DWord)) = s.reg (.wctl w) &&& 0x13 →
      exec (.fwinDisable w v) s = .next ((s.setField (.wctl w) 31 1 0).setField (.wctl w) 30 1 1)) ∧
    (¬ on → busy → s.viewWrites w = false → exec (.fwinDisableDone w) s = .next (s.setField (.wctl w) 30 1 0))

/-! ## Saves, restores, fault rings, commands, function-level resets -/

/-- R225, R312, R321, R344 to R347, R349: a save that no matrix card holds up, running or reading the crew's memory from another core,
and no commit mark in its frame, ends: the crew is off its core with its registers,
its frame's STATE is 2 for kinds 3 to 5 and 3 with its request for kinds 1 and 2, no thread of it is Transactional or stands Queued, its
core context's tag has advanced, and no read of the crew but a value-returning atomic is left in flight. (Its threads are in canonical form: `CrewsWf`.) -/
def SavesLeaveTheCore : Prop :=
  ∀ (s : State) (k core ctx : Nat) (c : Crew) (q : SaveReq), s.crew k = some c → c.loc = some (core, ctx) → c.save = some q →
    c.threads.wf = true → (∀ x ∈ s.cards, x.kind.isMatrix = true → x.started = true → x.who.crew ≠ k) →
    (∀ x ∈ s.cards, x.kind.isMatrix = true → k ∉ x.receivers) →
    (∀ m ∈ s.marks, m.line / 2 ^ 14 ≠ s.frameAt c / 2 ^ 21) →
    ∃ t d, exec (.crewSaveEnd k) s = .next t ∧ t.crew k = some d ∧ d.loc = none ∧ d.save = none ∧
      d.fst.kind = q.kind ∧ d.fst.state = (if 3 ≤ q.kind then 2 else 3) ∧ d.fst.req = (if 3 ≤ q.kind then none else some q) ∧
      d.rcd = c.rcd ∧ d.point = c.point ∧ d.lmem = c.lmem ∧ d.acc = c.acc ∧ d.frame = c.frame ∧
      (∀ x ∈ d.threadList, x.2.tx.state ≠ .transactional ∧ x.2.status ≠ .queued) ∧
      (∀ l ∈ t.loads, l.who.crew = k → l.atomic = true) ∧ (∀ x ∈ t.cards, x.who.crew = k → x.started = true) ∧
      t.gens.get (core * Config.contexts + ctx) = s.gens.get (core * Config.contexts + ctx) + 1

/-- No sector of a crew's frame is poisoned, fails its check value or cannot be formed, and no other write has gone into its regions
(R272, R348, R349). -/
def State.FrameReads (s : State) (c : Crew) : Prop :=
  (∀ k, s.frameAt c / 64 ≤ k → k < s.frameAt c / 64 + 2 ^ 15 → s.sectorBad (64 * k) = false) ∧ s.intact (s.frameAt c + 4096) frameRegions c.fst.seed = true

/-- R346, R349, R391: a saved crew in STATE 2 that a core can take and whose frame reads well is restored: it is in a context of
that core with its registers and memory, its reads are issued again, and a held fault saves it again at once. A frame with bad
sectors makes a fault save with POISON, open to ABORT alone. -/
def RestoresBringCrewsBack : Prop :=
  ∀ (s : State) (k core : Nat) (c : Crew), s.crew k = some c → s.restorable core c = true →
    (c.loc = none ∧ c.fst.state = 2 ∧ s.thalt = false ∧ s.walks c.part = some c.fn ∧
      s.coreTakes c.part core c.point.place c.point.unit = true ∧ s.fits core c.rcd = true) ∧
    (s.FrameReads c →
      ∃ t d, exec (.crewRestore k core) s = .next t ∧ t.crew k = some d ∧ (d.loc.map (·.1)) = some core ∧ d.fst.state = 1 ∧
        d = { c with
          loc := d.loc, ran := core, slots := d.slots, lbase := d.lbase, save := d.save, replay := [], cards := [], rend := d.rend
          fst := d.fst, threads := d.threads } ∧
        ((∀ x ∈ c.threadList, x.2.tx.state ≠ .transactional ∧ ∀ i a, x.2.status ≠ .rendezvous i a) → d.threads = c.threads) ∧
        (∀ q, c.fst.held.head? = some q → d.save.isSome = true) ∧
        ∀ l ∈ c.replay, ∃ o ∈ t.loads, o.who = l.who ∧ o.va = l.va ∧ o.width = l.width ∧ o.count = l.count ∧ o.d = l.d ∧
          o.form = l.form) ∧
    (s.badIn (s.frameAt c / 64) (2 ^ 15) ≠ [] →
      ∃ t d, exec (.crewRestore k core) s = .next t ∧ t.crew k = some d ∧ d.loc = none ∧ d.fst.state = 3 ∧ d.fst.kind = 2 ∧
        (d.fst.req.map (·.cause)) = some .poison ∧ (∀ op, d.allows op = true ↔ op = 3))

/-- R350, R352: the oldest record goes to entry HEAD mod 2^LOG of an enabled ring that has room, and HEAD counts it; a full ring
keeps it waiting, an unreadable one has it logged. Vector 3 follows at most once in a microsecond. An enable reads HEAD. -/
def FaultRingsTakeRecords : Prop :=
  ∀ (s : State) (fn : Nat),
    let base := (s.reg (.frbase fn)).toNat
    let size := 2 ^ max 4 (s.field (.frctl fn) 0 4)
    let head := (s.func fn).frHead
    (∀ rec_ rest, (s.func fn).records = rec_ :: rest →
      (s.field (.frctl fn) 31 1 = 0 → exec (.faultRecordDrain fn) s = .next s) ∧
      (s.field (.frctl fn) 31 1 = 1 → s.unitBusy fn base = false → s.unitBusy fn (base + 0x40 + 64 * (head.toNat % size)) = false →
        (∀ e s1, s.unitRead fn (base + 4) 4 = (.error e, s1) →
          exec (.faultRecordDrain fn) s = .next (s1.logs (.ringFault fn))) ∧
        ∀ b s1, s.unitRead fn (base + 4) 4 = (.ok b, s1) →
          ((head - BitVec.ofNat 32 (leValue b)).toNat = size → exec (.faultRecordDrain fn) s = .next s1) ∧
          ∀ s2, (head - BitVec.ofNat 32 (leValue b)).toNat ≠ size →
            s1.unitPoke fn (base + 0x40 + 64 * (head.toNat % size)) rec_ = (none, s2) →
            exec (.faultRecordDrain fn) s = .next ((s2.unitPoke fn base (leBytes 4 (head + 1).toNat)).2.onFunc fn (fun k =>
              { k with frHead := k.frHead + 1, records := k.records.tail, written := k.written + 1 })))) ∧
    ((s.func fn).written ≠ 0 → (s.func fn).msiAt = 0 ∨ (s.func fn).msiAt + Config.fabPerUs ≤ s.fab →
      exec (.faultMsi fn) s = .next ((s.onFunc fn (fun k => { k with written := 0, msiAt := s.fab })).msi fn 3)) ∧
    (∀ (v : Word) b s2, fn ≤ 64 → v.getLsbD 31 = true → s.field (.frctl fn) 31 1 = 0 →
      let s1 := s.setReg (.frctl fn) ((Reg.frctl fn).merge (s.reg (.frctl fn)) (v.setWidth 64))
      s1.unitRead fn (s1.reg (.frbase fn)).toNat 4 = (.ok b, s2) →
      exec (.frctlEnable fn v) s = .next (s2.onFunc fn (fun k => { k with frHead := BitVec.ofNat 32 (leValue b) }))) ∧
    (∀ (v : Word), fn ≤ 64 → v.getLsbD 31 = true → s.field (.frctl fn) 31 1 = 1 →
      max 4 (v.toNat % 16) ≠ max 4 (s.field (.frctl fn) 0 4) → exec (.frctlEnable fn v) s = .next s)

/-- R354, R360, Table 19-7: a command acts on the crew in STATE 3 or the open card request that its handle names, if its GEN is
the function's, no reserved bit is set, and its operation is allowed; every other is dropped, counted and logged. RESUME and
SKIP return a crew to STATE 2, SKIP with its faulting thread at the successor and the destinations of a read for which it waited
full and zero; PAGEOK returns a crew too and a card to its work, PAGEFAIL makes PERM of a missing page, ABORT ends the crew. -/
def CommandsActOnSavedCrews : Prop :=
  ∀ (s : State) (fn : Nat) (v : DWord), fn ≤ 64 →
    let op := v.toNat / 2 ^ 32 % 16
    let h := v.toNat % 2 ^ 16
    (s.command fn v = .nothing → exec (.crewcmdDrop fn v) s = .next
      ((s.setReg (.cmddrop fn) (BitVec.ofNat 64 (min (2 ^ 32 - 1) ((s.reg (.cmddrop fn)).toNat + 1)))).logs
        (.cmdDrop fn (v.toNat / 2 ^ 48 % 256) (s.genOf fn) h))) ∧
    (v.toNat / 2 ^ 48 % 256 ≠ s.genOf fn → s.command fn v = .nothing) ∧
    (∀ k c, s.command fn v = .crew k c → s.crew k = some c →
      (c.fn = fn ∧ c.frame = h ∧ c.loc = none ∧ c.fst.state = 3 ∧ c.allows op = true) ∧
      (op = 1 → exec (.crewcmdResume fn v) s = .next (s.cmdResume k) ∧
        ∃ d, (s.cmdResume k).crew k = some d ∧ d.fst.state = 2) ∧
      (op = 2 → exec (.crewcmdSkip fn v) s = .next (s.cmdSkip k) ∧
        ∃ d, (s.cmdSkip k).crew k = some d ∧ d.fst.state = 2 ∧
          ∀ q tid th, c.fst.req = some q → q.faulters = [tid] → c.thread tid = some th → th.pc = q.pc →
            c.replay = [] → (∀ l ∈ s.loads, l.who.crew ≠ k) →
              ∃ u : Thread, d.thread tid = some (u.goesTo q.next) ∧ u = { th with regs := u.regs, empty := u.empty } ∧
                ∀ i, u.regs.get i = (if tid ∈ q.zeroed ∧ i ∈ q.dest then 0 else th.regs.get i) ∧
                  u.empty.get i = (if tid ∈ q.zeroed ∧ i ∈ q.dest then false else th.empty.get i)) ∧
      (op = 4 → exec (.crewcmdPageok fn v) s = .next ((s.putCrew k { c with fst := { c.fst with state := 2 } }).frameUpdate
        { c with fst := { c.fst with state := 2 } })) ∧
      (op = 5 → ∀ q, c.fst.req = some q → ∃ d, exec (.crewcmdPagefail fn v) s = .next (s.crewPageFail k c) ∧
        (s.crewPageFail k c).crew k = some d ∧ d.fst.state = 3 ∧ d.fst.kind = 2 ∧ (d.fst.req.map (·.cause)) = some .perm) ∧
      (op = 3 → exec (.crewcmdAbort fn v) s = .next (s.cmdAbort k c) ∧
        ∃ d, (s.cmdAbort k c).crew k = some d ∧ d.ended = true ∧ d.fst.state = 0 ∧ d.replay = [] ∧ d.cards = [] ∧
          (∀ x ∈ d.threadList, x.2.status = .exited) ∧ ∀ l ∈ (s.cmdAbort k c).loads, l.who.crew ≠ k)) ∧
    (∀ id, s.command fn v = .card id →
      (s.func fn).cardReqs.get (h % 256) = some id ∧
      (op = 4 → exec (.crewcmdPageok fn v) s = .next ((s.onCardCopies id (fun k => { k with paused := false, req := none })).onFunc fn
        (fun q => { q with cardReqs := q.cardReqs.set (h % 256) none }))) ∧
      (op = 5 → exec (.crewcmdPagefail fn v) s = .next ((s.abandonCard id .perm (s.missing id)).onFunc fn
        (fun q => { q with cardReqs := q.cardReqs.set (h % 256) none }))))

/-- R51, R259, R359: a function-level reset leaves nothing of the function: no crew, card, read, queue, packet, record or token;
its share of the walker is empty, its generation is one higher, and the crews of other functions are as before.
RESETTING falls at its end. What stands and what is dropped is the model's reading (log 72). -/
def FunctionResetsTearDown : Prop :=
  ∀ (s : State) (fn : Nat), fn ≤ 64 → s.crews.wf = true →
    (∃ t, exec (.flrRequest fn) s = .next t ∧
      (∀ n c, t.crew n = some c → c.fn ≠ fn) ∧ (∀ n c, s.crew n = some c → c.fn ≠ fn → t.crew n = some c) ∧
      (∀ x ∈ t.cards, x.fn ≠ fn) ∧ (∀ l ∈ t.loads, ∀ c, s.crew l.who.crew = some c → c.fn ≠ fn) ∧
      (∀ k, k < Config.clusters → (t.buckets.get (bucketKey k fn)).tok = 0 ∧ (t.buckets.get (bucketKey k fn)).debt = 0) ∧
      (t.func fn).queues = [] ∧ (t.func fn).leftovers = [] ∧ (t.func fn).records = [] ∧
      t.shareOf fn = default ∧ t.genOf fn = (s.genOf fn + 1) % 256 ∧ t.field (.fstat fn) 0 1 = 1) ∧
    exec (.flrTeardownDone fn) s = .next (s.setField (.fstat fn) 0 1 0)

/-! ## Waldin links, peers, collective instances -/

/-- R323: the wiring is symmetric: the port at the other end of a port is wired back to it, and every port of every device
reaches another device of the domain. -/
def WiringIsSymmetric : Prop :=
  ∀ rank port, rank < 320 → port < 18 →
    let e := wiredTo rank port
    wiredTo e.1 e.2 = (rank, port) ∧ e.1 < 320 ∧ e.2 < 18 ∧ e.1 ≠ rank

/-- R326: inside a group a route is the one port to its target. Between groups it crosses to the device that holds the link
of the copy (s + t) mod n, whose far end lies in the target's group; the way back uses the same link. -/
def RoutesTakeOneGlobalLink : Prop :=
  ∀ a t, a < 320 → t < 320 → a ≠ t →
    (a / 16 = t / 16 → (wiredTo a (firstPort a t)).1 = t) ∧
    (a / 16 ≠ t / 16 →
      let o := (t / 16 + 20 - a / 16) % 20
      let n := if o ≤ 5 ∨ 15 ≤ o then 3 else 2
      ∃ q q', linkNumber ((a + t) % n) o = some q ∧ linkNumber ((a + t) % n) (20 - o) = some q' ∧
        (wiredTo (16 * (a / 16) + q / 3) (15 + q % 3)) = (16 * (t / 16) + q' / 3, 15 + q' % 3) ∧
        (if q / 3 = a % 16 then firstPort a t = 15 + q % 3
         else (wiredTo a (firstPort a t)).1 = 16 * (a / 16) + q / 3))

/-- R324, R325, R329, R342: a port whose peer is the one that the wiring names enters service with its working lanes and a fresh
link layer; another is marked MISWIRE. A lane that is lost retrains the port on those left; without one it is down. A 1 in CRCERR
clears the count. That SEQ starts at 0 is the model's reading (log 31). -/
def PortsTrainAndLoseLanes : Prop :=
  ∀ (s : State) (port : Nat), port < 18 →
    (∀ rank pr pp (lanes : Byte), s.rank = some rank → s.portUp port = false →
      (wiredTo rank port = (pr, pp) → exec (.portTrain port pr pp lanes) s = .next
        (((s.setField (.wport port) 30 1 0).setLanes port (lanes &&& ~~~(s.port port).retired).toNat).onPort port (fun p =>
          { p with
            txNext := 0, rxLast := 0xFFF, peerAck := 0xFFF, nak := false, queue := [], replay := [], rx := [], rxSet := 0
            rxLeft := 0, credits := [], owed := (List.range 15).foldl (fun m i => m.set i (Config.flitBuffers i)) [], wire := []
            retraining := false }))) ∧
      (wiredTo rank port ≠ (pr, pp) → exec (.portTrain port pr pp lanes) s = .next
        ((s.setField (.wport port) 30 1 1).logs (.miswire port pr pp)))) ∧
    (∀ lane, lane < 8 → s.portUp port = true → bitOf (s.field (.wport port) 8 8) lane = true →
      let left := s.field (.wport port) 8 8 - 2 ^ lane
      let t := s.onPort port (fun p => { p with retired := p.retired ||| BitVec.ofNat 8 (2 ^ lane), retraining := left != 0 })
      exec (.laneRetire port lane) s = .next (if left = 0 then t.setLanes port 0 else t.setField (.wport port) 8 8 left)) ∧
    ((s.port port).retraining = true → exec (.portRetrainDone port) s = .next
      ((s.onPort port (fun p => { p with retraining := false })).setLanes port (s.field (.wport port) 8 8))) ∧
    (∀ n, let lanes := ((List.range 8).filter (fun i => bitOf n i)).length
      widest n ≤ lanes ∧ lanes < 2 * widest n + (if lanes = 0 then 1 else 0) ∧ (widest n = 0 ∨ ∃ k, widest n = 2 ^ k)) ∧
    (∀ v : DWord, s.ready = true → exec (.wportCrcerrClear port v) s = .next
      (if v.toNat / 2 ^ 32 = 0 then s else s.setField (.wport port) 32 32 0))

/-- A list of hops, each a device and a port of it, leads from one device to another. -/
def leads : Nat → List (Nat × Nat) → Nat → Prop
  | a, [], t => a = t
  | a, h :: hs, t => h.1 = a ∧ leads (wiredTo h.1 h.2).1 hs t

/-- R323, R326, R327: a route over the links that stand leads to its target over at most five of them, none down or absent. When
a link is down, the routes that it changes, in their first or in a later hop, move together once no request to their targets is
outstanding, and stand as they are until then; `link` counts this device's ports and then those of every rank. -/
def RoutesMoveToLinksThatStand : Prop :=
  (∀ (s : State) own a t hs, a < 320 → t < 320 → a ≠ t → s.routeFrom own a t = some hs →
    leads a hs t ∧ hs.length ≤ 5 ∧ ∀ h ∈ hs, s.linkDown own h.1 h.2 = false) ∧
  ∀ (s : State) rank link, s.rank = some rank →
    let s1 : State := if link < 18 ∨ s.downs.contains (link - 18) = true then s else { s with downs := s.downs ++ [link - 18] }
    let moves (t : Nat) : Prop := t < 320 ∧ t ≠ rank ∧ s1.routeFrom rank rank t ≠ s1.routeHeld rank t
    ((∃ t, moves t ∧ s1.asks t = true) → exec (.routeRewrite link) s = .next s1) ∧
    ((∀ t, moves t → s1.asks t = false) →
      ∃ u, exec (.routeRewrite link) s = .next u ∧ u = { s1 with routes := u.routes, links := u.links } ∧
        (∀ r p, p < 18 → (r * 18 + p ∈ u.links ↔ s1.portOff rank r p = true)) ∧
        ∀ t, (moves t → u.routeTo rank t = s1.portFor rank t) ∧ (¬ moves t → u.routes.get t = s1.routes.get t))

/-- R328, R329: a flit whose check fails is counted and asks for a replay; a sound one in sequence is taken, tells which of ours
have arrived, and is placed with its packet; one out of sequence asks for a replay; an IDLE flit gives its credits. Acknowledged
flits leave the replay buffer; under NAK the others are sent again. A flit that leaves takes the next SEQ, the last SEQ received,
a check and a credit of its class and set; the replay buffer never holds more than 1,024. -/
def FlitsAreCheckedAndSequenced : Prop :=
  (∀ (s : State) (port : Nat) (f : Flit), port < 18 → s.portUp port = true → (s.port port).retraining = false →
    (flitSound f = false → exec (.flitReceive port f) s = .next
      ((s.setField (.wport port) 32 32 (min (2 ^ 32 - 1) (s.field (.wport port) 32 32 + 1))).onPort port (fun p =>
        { p with nak := true }))) ∧
    (flitSound f = true → f.kind = 0 → exec (.flitReceive port f) s = .next
      (s.onPort port (fun p => (p.acknowledge f).credit f))) ∧
    (flitSound f = true → f.kind = 1 ∨ f.kind = 2 → f.seq = (s.port port).rxLast + 1 →
      let q := ({ (s.port port).acknowledge f with rxLast := f.seq, nak := false } : Port).place f
      exec (.flitReceive port f) s = .next ((s.onPort port (fun _ => q.1)).deliver (s.rank.getD 0) q.2)) ∧
    (flitSound f = true → f.kind = 1 ∨ f.kind = 2 → f.seq ≠ (s.port port).rxLast + 1 → exec (.flitReceive port f) s = .next
      (s.onPort port (fun p => { p with nak := true })))) ∧
  (∀ (p : Port) (f : Flit), (f.ack - p.peerAck).toNat ≤ p.replay.length →
    let q := p.acknowledge f
    let left := p.replay.drop (f.ack - p.peerAck).toNat
    q.peerAck = f.ack ∧ q.replay = left ∧
      (q.wire.drop p.wire.length).map (fun g => (g.seq, g.body)) = (if f.nak then left.map (fun g => (g.seq, g.body)) else [])) ∧
  (∀ (p : Port) (set : Nat) (f : Flit), let q := p.send set f
    q.txNext = p.txNext + 1 ∧ q.credits.get set = p.credits.get set - 1 ∧ q.replay.length = p.replay.length + 1 ∧
      ∃ g, q.wire = p.wire ++ [g] ∧ g.seq = p.txNext ∧ g.ack = p.rxLast ∧ g.nak = p.nak ∧ g.body = f.body ∧ flitCrc g = g.crc) ∧
  ∀ p : Port, p.replay.length ≤ 1024 → p.flush.replay.length ≤ 1024

/-- R330: a packet goes as one HEAD and as many DATA flits as its bytes need, and the bytes of these flits give the packet back,
every field of its header and every byte that it carries; the poison flag stands in the flits themselves. -/
def PacketsTravelAsFlits : Prop :=
  ∀ (p : PeerPacket) (poison : Bool), p.data.length = carried p.op p.size p.aux →
    parsePacket ((flitsOf p poison).flatMap (·.body)) = { p with poison := false } ∧
      (flitsOf p poison).length = 1 + (if p.data.length ≤ 24 then 0 else (p.data.length - 24 + 55) / 56) ∧
      ∀ (i : Nat) (f : Flit), (flitsOf p poison)[i]? = some f → f.body.length = 56 ∧ f.poison = poison ∧
        f.kind = (if i = 0 then 1 else 2)

/-- R312, R331 to R333: a peer's request to this device that fails a check is logged and answered with the fault; a READ is
answered with the bytes of memory and whether they are poisoned; a WRITE to HBM changes the bytes that it carries, under its mask if
it has one, and data marked poisoned poison the sectors they enter; an atomic stores its new value and keeps the old one for its
answer, or on poison is answered with the fault. One that a view, a commit mark or an earlier one holds back is kept. When a request is performed and answered is the model's reading (log 74). -/
def PeerRequestsAreServed : Prop :=
  ∀ (s : State) (p : PeerPacket), s.rank = some (p.dst.toNat % 512) → pktIsRequest p = true →
    let pa := p.addr.toNat
    let s1 : State := { s with parked := s.parked.erase p }
    let refuse (s : State) (c : Cause) : State :=
      (s.logs (.peerFault p.src.toNat p.func.toNat pa c)).answer (.fault p.src.toNat p.tag.toNat c)
    let known := p.op = 1 ∨ p.op = 2 ∨ p.op = 3
    (¬ known → exec (.peerRequest p) s = .next (refuse s .perm)) ∧
    (known → s.peerWaits p = true → exec (.peerRequest p) s = .next
      { s with parked := if s.parked.contains p then s.parked else s.parked ++ [p] }) ∧
    (known → s.letsIn p.src.toNat = false → s.peerFails p = some .perm) ∧
    (s.peerWaits p = false →
      (∀ c, known → s.peerFails p = some c → exec (.peerRequest p) s = .next (refuse s1 c)) ∧
      (p.op = 1 → s.peerFails p = none →
        let bad := s.runBad pa (p.size.toNat + 1)
        exec (.peerRequest p) s = .next ((if bad then s1.meetPoison pa (p.size.toNat + 1) else s1).answer
          (.readRsp p.src.toNat p.tag.toNat pa (s.bytesAt pa (p.size.toNat + 1)) bad))) ∧
      (p.op = 2 → regionOf pa = .hbm → s.peerFails p = none →
        let new (a : Nat) : Option Byte :=
          if p.aux.getLsbD 0 then
            (if pa ≤ a ∧ a < pa + 128 ∧ (p.data.getD ((a - pa) / 8) 0).getLsbD ((a - pa) % 8) then p.data[16 + (a - pa)]? else none)
          else if pa ≤ a then p.data[a - pa]? else none
        ∃ t, exec (.peerRequest p) s = .next t ∧
          t = { s1 with
            nextId := t.nextId, home := t.home, veil := t.veil, poison := t.poison, checks := t.checks, log := t.log
            writes := t.writes, answers := t.answers } ∧
          (p.poison = true → ∀ a, (new a).isSome = true → t.poison.get (a / 64) = true) ∧
          ∀ a, regionOf a ≠ .view → t.byteAt a = (new a).getD (s.byteAt a)) ∧
      (∀ a w, p.op = 3 → s.peerFails p = none → pktAtom p = some (a, w) →
        (s.runBad pa w = true → exec (.peerRequest p) s = .next (refuse (s1.meetPoison pa w) .poison)) ∧
        (s.runBad pa w = false →
          let old := s.bytesAt pa w
          ∃ t x, exec (.peerRequest p) s = .next t ∧ t.writes = s.writes ++ [x] ∧
            x.old = some (BitVec.ofNat 64 (leValue old)) ∧ x.by_ = .peer p.src.toNat p.tag.toNat p.func.toNat pa ∧
            ∀ b, regionOf b ≠ .view →
              t.byteAt b = if inRun b pa (a.newBytes old) then (a.newBytes old).getD (b - pa) 0 else s.byteAt b)))

/-- R331, R332, R334, R335: answers to our own requests by their tags. Data of the length asked for reach their read; an
acknowledgement ends the writes that its request carried, the old value of an atomic becomes its datum; a fault or a request sent
PEERTO ago ends it with PEERFAULT or PEERTIMEOUT; an answer that comes after its timeout is only counted, and its tag stays out of use
for a further PEERTO. -/
def AnswersEndTheirRequests : Prop :=
  ∀ (s : State) (tag : Nat),
    let gone (t : State) (w : Write) : State := { t with writes := t.writes.filter (fun (o : Write) => o.id != w.id) }
    let counted (w : Write) (t : State) (r : ThreadRef) : State := t.onThread r (fun t =>
      if w.kind = .nc ∧ w.atom = none then { t with unackNc := t.unackNc - 1 } else { t with unack := t.unack - 1 })
    let ended (mark : Thread → Thread) (t : State) (w : Write) : State := match w.by_ with
      | .thread r => (counted w (gone t w) r).onThread r mark
      | _ => t
    (∀ l (data : List Byte), s.peerLoad tag = some l → l.cmp = none → data.length = l.width * l.count →
      exec (.peerReadrsp tag data false) s = .next { s with loads := s.loads.map (fun (o : Load) =>
        if o.id = l.id then { o with data := some data } else o) }) ∧
    (∀ l (data : List Byte), s.peerLoad tag = some l →
      exec (.peerReadrsp tag data true) s = .next (s.peerLoadFault l .poison)) ∧
    (∀ w ws, s.peerStores tag = w :: ws → w.atom = none → (∀ x ∈ w :: ws, ∃ r, x.by_ = .thread r) →
      exec (.peerWriteack tag) s = .next ((w :: ws).foldl (ended id) s)) ∧
    (∀ w a r old, s.peerStore tag = some w → w.atom = some a → w.by_ = .thread r → exec (.peerAtomrsp tag old) s = .next (
      let t := counted w (gone s w) r
      { t with loads := t.loads.map (fun (l : Load) =>
        if l.id = w.id ∧ l.atomic then { l with data := some (leBytes w.bytes.length old.toNat) } else l) })) ∧
    (∀ w ws c, s.peerStores tag = w :: ws → w.atom = none → (∀ x ∈ w :: ws, ∃ r, x.by_ = .thread r) →
      exec (.peerFault tag c) s = .next ((w :: ws).foldl (ended (fun t => { t with errs := t.errs ++ [.peerFault] })) s)) ∧
    (∀ l c, s.peerStore tag = none → s.peerLoad tag = some l → exec (.peerFault tag c) s = .next (s.peerLoadFault l .peerFault)) ∧
    (∀ l, s.peerStore tag = none → s.peerLoad tag = some l → tag ∈ s.posted →
      l.sent + max 10 (s.field .peerto 0 20) * Config.fabPerUs ≤ s.fab → exec (.peerTimeout tag) s = .next
        { s.peerLoadFault l .peerTimeout with expired := (s.peerLoadFault l .peerTimeout).expired ++ [(tag, s.fab)] }) ∧
    (s.peerStore tag = none → s.peerLoad tag = none → (∀ x ∈ s.strays, x.tag ≠ some tag) → s.askingCard tag = none →
      s.askingPacket tag = none → (∃ n, (tag, n) ∈ s.expired) → ∀ data poison,
      exec (.peerReadrsp tag data poison) s = .next
        { s.setReg .plate (BitVec.ofNat 64 (min (2 ^ 32 - 1) ((s.reg .plate).toNat + 1))) with
          expired := s.expired.filter (fun e => e.1 != tag || decide (s.fab < e.2 + max 10 (s.field .peerto 0 20) * Config.fabPerUs)) })

/-- R337: the contributions of the members of an instance are kept, one for each member, while it is open; an instance that some
member has not joined within COLLTO is late, and one that all have joined is not. -/
def CollectiveInstancesGatherShares : Prop :=
  ∀ (s : State) (fn group inst : Nat),
    (∀ member share i, fn ≤ 64 → member < 320 → s.instOf fn group inst = some i →
      ∃ t, exec (.cdata fn group inst member share) s = .next t ∧ t = { s with insts := t.insts } ∧
        t.instOf fn group inst = some (if (i.shares.get member).isSome || i.late then i
          else { i with shares := i.shares.set member (some share) })) ∧
    (∀ member share, fn ≤ 64 → member < 320 → s.instOf fn group inst = none → (s.func fn).collCount.get group ≤ inst →
      ∃ t i, exec (.cdata fn group inst member share) s = .next t ∧ t = { s with insts := s.insts ++ [i] } ∧
        i.fn = fn ∧ i.group = group ∧ i.inst = inst ∧ i.startAt = s.fab ∧ i.late = false ∧
        ∀ m, i.shares.get m = if m = member then some share else none) ∧
    (∀ i, s.instOf fn group inst = some i →
      i.startAt + max 1 (s.field .collto 0 16) * 1000 * Config.fabPerUs ≤ s.fab →
      let joined : Prop := ∃ id k, i.card = some id ∧ s.cards.find? (·.id == id) = some k ∧
        ∀ m, m < k.ranks.length → k.ranks[m]? ≠ s.rank → (i.shares.get m).isSome = true
      (joined → exec (.collTimeout fn group inst) s = .next s) ∧ (¬ joined → ∃ t, exec (.collTimeout fn group inst) s = .next t ∧ t = { s with insts := t.insts } ∧
        t.instOf fn group inst = some { i with late := true }))

/-! ## The control complexes, start-up, registers -/

/-- R13, R36, R366: a warning is logged; a halt has every resident crew saved with kind 5, sets THALT and raises vector 5;
its end clears THALT and raises the vector again; a vector goes out with the address and data of its MSI-X table entry, or is
pending while that is masked; power that goes leaves the machine unpowered, its package memory
gone, its fuses kept. A second halt and what a loss of power keeps are the model's readings (logs 79 and 80). -/
def ThermalEventsHaltTheMachine : Prop :=
  ∀ (s : State),
    (∀ die, die < 7 → exec (.thermalWarn die) s = .next (s.logs (.thermalWarn die))) ∧
    (s.thalt = false → ∃ t : State, exec .thermalHalt s = .next (t.msi 64 5) ∧ t.thalt = true ∧
      t = { s with crews := t.crews, regs := t.regs } ∧
      ∀ n c, s.crew n = some c → c.loc.isSome = true → c.ended = false →
        ∃ d, t.crew n = some d ∧ d.save.isSome = true ∧ d = { c with save := d.save }) ∧
    (s.thalt = true → exec .thermalHalt s = .next s ∧ ∃ t : State, exec .thermalResume s = .next (t.msi 64 5) ∧ t.thalt = false ∧
      t = { s with regs := t.regs }) ∧
    (∀ fn k, (s.field (.msiCtl fn k) 0 1 = 0 → s.msi fn k = { s with
        msix := s.msix ++ [⟨fn, k, s.reg (.msiAddr fn k), (s.reg (.msiData fn k)).setWidth 32⟩] }) ∧
      (s.field (.msiCtl fn k) 0 1 = 1 → s.msi fn k = s.setField (.msiPba fn) k 1 1)) ∧
    (∀ i : Instr, i = .thermalPowerOff ∨ i = .powerLoss → ∃ t : State, exec i s = .next t ∧ t.powered = false ∧ t.crews = [] ∧ t.l1 = [] ∧
      t.cc.minSvn = s.cc.minSvn ∧ t.cc.debugFuse = s.cc.debugFuse ∧ (s.cc.op ≠ 3 → t.cc.flash = s.cc.flash) ∧
      (∀ a, regionOf a = .hbm → t.home.get a = 0) ∧ ∀ a, regionOf a ≠ .hbm → t.home.get a = s.home.get a)

/-- R361, R364, R370: start-up. A reset begins calibration; calibration that succeeds loads an image that verifies
against the fused key, matches its digest and has at least the fused SVN into both complexes, but for one that has failed, and
goes on to memory initialisation; each failure stops with its code; memory initialisation leaves zeros, firmware's frames at the top of HBM, front ends and
their registers as after reset, and READY. The order of the failures,
what a reset keeps and the clamp of the firmware frames are the model's readings (logs 80, 82 and 84). -/
def StartUpRunsInOrder : Prop :=
  ∀ (s : State),
    (s.cc.op ≠ 3 → ∃ t : State, exec .powerOnReset s = .next t ∧ t.phase = 1 ∧ t.powered = true ∧ t.crews = [] ∧ t.cc.flash = s.cc.flash ∧
      t.home = s.home ∧ t.cc.minSvn = s.cc.minSvn) ∧
    (∀ r : Calibration, s.phase = 1 →
      let good (i : Image) : Prop := i.signer = some s.cc.fusedKey ∧ i.body = i.digest ∧ s.cc.minSvn.toNat ≤ i.svn.toNat
      (r.pll = false → exec (.calibrationDone r) s = .next (s.startFails 1)) ∧
      (r.pll = true → (∀ i, s.cc.flash = some i → ¬ good i) →
        exec (.calibrationDone r) s = .next (s.startFails 3)) ∧
      (∀ i, r.pll = true → s.cc.flash = some i → good i →
        (r.hbm = true → ∃ t : State, exec (.calibrationDone r) s = .next t ∧ t.phase = 2 ∧
          t.cc.img0 = (if s.cc.failed = some false then none else some i) ∧
          t.cc.img1 = (if s.cc.failed = some true then none else some i) ∧
          (t.standby = true ↔ s.cc.failed = none) ∧ (t.cc1 = true ↔ s.cc.failed = some false) ∧ t.field .fwstat 32 32 = i.version.toNat ∧ t.home = s.home) ∧
        (r.hbm = false → ∃ t : State, exec (.calibrationDone r) s = .next t ∧ t.phase = 4 ∧ t.field .devstat 8 8 = 2))) ∧
    (∀ code, code < 256 → (s.startFails code).phase = 4 ∧ (s.startFails code).field .devstat 8 8 = code ∧
      (s.startFails code).field .devstat 30 1 = 1) ∧
    (∀ count, s.phase = 2 → s.lost = [] →
      let n := max 176 (min 256 count)
      ∃ t : State, exec (.memoryInitDone 0 count) s = .next t ∧ t.phase = 3 ∧ t.ready = true ∧ t.msc = [] ∧ t.parity = [] ∧
        t.funcs = [] ∧ (∀ fn, fn ≤ 64 → t.reg (.qtbase fn) = (Reg.qtbase fn).reset t.parts') ∧
        (∀ a, regionOf a = .hbm → t.home.get a = 0) ∧
        ∀ k, t.frameOwner k = if Config.hbmFrames - n ≤ k ∧ k < Config.hbmFrames then 0 else 255)

/-- R362, R363, R365: the state table is committed at packet boundaries; a failover makes the standby complex active,
with the committed table's registers, routes and log, raises vector 4, and notes which complex has failed. What the table brings back is the model's
reading (log 85). -/
def FailoverWorksFromTheTable : Prop :=
  ∀ (s : State),
    (s.ready = true → s.packetBoundary = true → ∃ t : State, exec .stateTableCommit s = .next t ∧
      t = { s with cc := { s.cc with table := t.cc.table } } ∧ t.cc.table.version = s.cc.table.version ∧
      t.cc.table.queues = s.funcs.map (fun f => (f.1, f.2.queues)) ∧
      t.cc.table.routes = s.routes ∧ t.cc.table.links = s.links ∧ t.cc.table.logged = s.log.length) ∧
    (s.ready = true → s.packetBoundary = false → exec .stateTableCommit s = .next s) ∧
    (s.standby = false → exec .ccFailover s = .next s) ∧
    (s.standby = true → (∀ e ∈ s.cc.table.regs, tableKey e.1 = true) → 
      ∃ t : State, exec .ccFailover s = .next (t.msi 64 4) ∧ t.cc1 = !s.cc1 ∧ t.standby = false ∧ t.cc.failed = some s.cc1 ∧ t.msix = s.msix ∧
      t.routes = s.cc.table.routes ∧ t.links = s.cc.table.links ∧ t.log = s.log.take s.cc.table.logged ∧
      (∀ port, port < 2 → (t.cc.spdm.get port).resynch = true) ∧ t.home = s.home)

/-- R364 to R366: what FWCTL's commands answer at once, and what each does as it ends: STAGE, which reads the image at FWSTAGE.BASE,
puts an accepted one
into the standby complex, TAKEOVER changes the roles at a packet boundary if the image reads the table, COMMIT puts
the running image into flash, DISCARD drops the staged one. The order of the refusals is the model's reading (log 87).
-/
def LiveUpdateCommands : Prop :=
  ∀ (s : State),
    let start (op : Nat) (i : Option Image) : State :=
      (({ s with cc := { s.cc with op := op, cand := i } } : State).setField .fwstat 0 1 1).setField .fwstat 16 8 1
    let answer (r : Nat) : State := s.setField .fwstat 16 8 r
    (s.ready = false → exec .fwctlTakeover s = .next (answer 5) ∧ exec .fwctlCommit s = .next (answer 5) ∧
      exec .fwctlDiscard s = .next (answer 5)) ∧
    (s.ready = true → s.fwBusy = false →
      (∀ (v : Word) (image : Image), v.toNat / 2 ^ 28 = 1 →
        let size := v.toNat % 2 ^ 14
        s.stagedImage size = some image ∨ s.stagedImage size = none →
        exec (.fwctlStage v image) s = .next (if size < 2 ∨ s.stageOwned size = false then answer 7
          else if s.standby = false then answer 6 else start 1 (s.stagedImage size))) ∧
      exec .fwctlTakeover s = .next (if s.cc.staged = false then answer 4 else if s.standby = false then answer 6 else start 2 none) ∧
      exec .fwctlCommit s = .next (if s.cc.staged = false ∧ s.cc.taken = false then answer 4 else start 3 none) ∧
      exec .fwctlDiscard s = .next (if s.cc.staged = false then answer 4 else start 4 none) ∧
      (∀ v : Word, v.toNat / 2 ^ 28 = 0 ∨ 5 ≤ v.toNat / 2 ^ 28 → exec (.fwctlInvalid v) s = .next (answer 7))) ∧
    (s.ready = true → s.fwBusy = true → exec .fwctlTakeover s = .next (answer 1) ∧ exec .fwctlCommit s = .next (answer 1) ∧
      exec .fwctlDiscard s = .next (answer 1)) ∧
    (s.fwBusy = true →
      let good (i : Image) : Prop := i.signer = some s.cc.fusedKey ∧ i.body = i.digest ∧ s.cc.minSvn.toNat ≤ i.svn.toNat
      (∀ i, s.cc.op = 1 → s.standby = true → s.cc.cand = some i → good i →
        ∃ t : State, exec .fwCommandDone s = .next t ∧ t.cc.staged = true ∧ t.other = some i ∧ t.running = s.running ∧
          t.fwBusy = false ∧ t.field .fwstat 16 8 = 0 ∧ t.field .devstat 27 1 = 1) ∧
      (s.cc.op = 1 → s.standby = true → (∀ i, s.cc.cand = some i → ¬ good i) →
        ∃ t : State, exec .fwCommandDone s = .next t ∧ t.other = s.other ∧ t.fwBusy = false ∧ t.field .fwstat 16 8 = 2) ∧
      (∀ i, s.cc.op = 2 → s.standby = true → s.cc.staged = true → s.mayHandOver = true → s.other = some i →
        i.stMin ≤ s.cc.table.version → s.cc.table.version ≤ i.stMax →
        ∃ t : State, exec .fwCommandDone s = .next t ∧ t.running = some i ∧ t.cc1 = !s.cc1 ∧ t.cc.taken = true ∧ t.cc.staged = false ∧
          t.field .fwstat 16 8 = 0 ∧ t.field .fwstat 32 32 = i.version.toNat) ∧
      (s.cc.op = 3 → ∃ t : State, exec .fwCommandDone s = .next t ∧ t.cc.flash = s.running ∧ t.cc.taken = false ∧ t.cc.staged = false ∧
        t.running = s.running ∧ t.field .fwstat 16 8 = 0) ∧
      (s.cc.op = 4 → ∃ t : State, exec .fwCommandDone s = .next t ∧ t.other = none ∧ t.running = s.running ∧ t.cc.staged = false ∧
        t.field .fwstat 16 8 = 0))

/-- R367 to R369: the attestation responder. GET_VERSION opens a port's conversation; after a change of roles every other
request there is answered RequestResynch until then; the rest are answered as Table 20-3 says, blocks 2 to 4 in a challenge too. The
complex that was active before answers one late request for each port, with its own blocks. Nothing but the mailbox and the
conversation changes. The blocks measured and the answers before GET_VERSION are the model's readings (log 88). -/
def AttestationAnswers : Prop :=
  ∀ (s : State) (q : SpdmRequest), q.port < 2 → s.running ≠ none →
    let answer (t : State) (a : SpdmAnswer) : State := { t with cc := { t.cc with answers := t.cc.answers ++ [a] } }
    let slot (t : State) (a : SpdmAnswer) : State := answer t (if q.slot = 0 then a else .unsupported)
    let talk (f : Spdm → Spdm) : State := { s with cc := { s.cc with spdm := s.cc.spdm.upd q.port f } }
    let blocks (i : Image) (other : Option Image) (role : Bool) : ImageBlocks :=
      { version := i.version, svn := i.svn.toNat, digest := i.digest, hopend := s.field .devstat 27 1 == 1, active := s.cc1
        role := role, standby := other.map (fun o => (o.version, o.digest)) }
    let others : List Instr := [.getCapabilities q, .negotiateAlgorithms q, .getDigests q, .getCertificate q, .challenge q,
      .getMeasurements q, .unsupportedRequest q]
    (q.late = false →
      exec (.getVersion q) s = .next (answer (talk (fun c => { c with resynch := false, sm2 := false, sm3 := false })) .version) ∧
      ((s.cc.spdm.get q.port).resynch = true → ∀ i ∈ others, exec i s = .next (answer s .resynch)) ∧
      ((s.cc.spdm.get q.port).resynch = false →
        exec (.getCapabilities q) s = .next (answer s .capabilities) ∧
        exec (.negotiateAlgorithms q) s = .next
          (answer (talk (fun c => { c with sm2 := q.sm2, sm3 := q.sm3 })) (.algorithms q.sm2 q.sm3)) ∧
        exec (.getDigests q) s = .next (slot s (.digests Config.certificateDigest)) ∧
        exec (.getCertificate q) s = .next (slot s (.cert Config.certificate)) ∧
        (∀ i, s.running = some i → let b := blocks i s.other true
          (∃ sig, exec (.challenge q) s = .next (slot s (.challengeAuth q.nonce b sig))) ∧
          ∃ rom sig, exec (.getMeasurements q) s = .next (slot s
            (.measurements rom b s.cc.minSvn.toNat s.cc.table.version s.cc.debugFuse sig))) ∧
        exec (.unsupportedRequest q) s = .next (answer s .unsupported))) ∧
    (q.late = true →
      ((s.cc.spdm.get q.port).owed = false → ∀ i ∈ Instr.getVersion q :: others, exec i s = .next s) ∧
      ((s.cc.spdm.get q.port).owed = true → let t := talk (fun c => { c with owed := false })
        exec (.getVersion q) s = .next (answer t .version) ∧ exec (.getDigests q) s = .next (slot t (.digests Config.certificateDigest)) ∧
        ∀ i, s.other = some i → ∃ sig, exec (.challenge q) s = .next
          (slot t (.challengeAuth q.nonce (blocks i s.running false) sig))))

/-- R371: boundary scan and IDCODE are always performed, every other test-port instruction only with the debug fuse.
That a performed instruction is recorded and does nothing else is the model's choice (log 89). -/
def TestPortsObeyTheDebugFuse : Prop :=
  ∀ (s : State) (c : JtagCode), ∃ done, exec (.jtagInstruction c) s = .next { s with cc := { s.cc with taps := s.cc.taps ++ [(c, done)] } } ∧
    (done = true ↔ c = .boundaryScan ∨ c = .idcode ∨ s.cc.debugFuse = true)

/-- R4, R370: a register write takes the RW fields, clears the W1C fields on 1 and keeps the rest, for a register of
no behaviour of its own; BAR 4 answers only once start-up is complete, and an address without a register not at all.
The sizes of a write are presumed (log 90); whole writes are used here. -/
def PlainRegistersTakeTheirFields : Prop :=
  ∀ (s : State) (v : DWord),
    (∀ (r : Reg) bar fn off, fn ≤ 64 → r = .qtbase fn ∨ r = .cgbase fn ∨ (∃ i, r = .miss fn i) ∨ r = .peerto ∨ r = .collto ∨
        r = .fwstage ∨ (∃ f, r = .tbcfg f) ∨ (∃ f, r = .inown f) ∨ (∃ k, r = .inrank k) ∨ (∃ f, r = .vfsave f) →
      Reg.at bar fn off = some r → r.place.2.2 = off → (bar = 0 → 0x800 ≤ off) → (bar = 4 → s.ready = true) →
      exec (.registerWrite bar fn off r.bytes v) s = .next (s.setReg r (
        let w := BitVec.ofNat 64 (v.toNat % 2 ^ (8 * r.bytes))
        ((s.reg r &&& ~~~r.rw) ||| (w &&& r.rw)) &&& ~~~(w &&& r.w1c)))) ∧
    (∀ fn off size, s.ready = false → regReached 4 fn off ≠ some .fwctl → exec (.registerWrite 4 fn off size v) s = .next s) ∧
    (∀ bar fn off size, fn ≤ 64 → sizeOk size = true → ¬ (bar = 0 ∧ off < 0x800) → regReached bar fn off = none →
      exec (.registerWrite bar fn off size v) s = .next s)

/-- R4: writing one register leaves the stored value of every other alone, where the partition count stays; reading it gives
what was written. -/
def RegistersKeepTheirValues : Prop :=
  ∀ (s : State) (r q : Reg) (v : DWord), q.key ≠ r.key → (s.setReg r v).parts' = s.parts' →
    (s.setReg r v).reg r = v ∧ (s.setReg r v).reg q = s.reg q

/-- R94: a fetch that is not an instruction makes every member of its group fault, whatever its guard: with one member, its
crew is to be saved with ILLEGAL or FETCHALIGN at its address. -/
def IllegalFetchesFault : Prop :=
  ∀ (s : State) (r : ThreadRef) (th : Thread) (c : Crew) (e : DecodeFault), s.cur.crew = r.crew → s.cur.members = [r.tid] →
    s.thread r = some th → s.crew r.crew = some c → c.save = none → th.tx.state ≠ .transactional →
    exec (.illegalFetch e) s = .next ((s.putThread r { th with age := 0, status := .runnable }).onCrew r.crew (fun d =>
      { d with save := some {
        kind := 2, cause := match e with | .illegal => .illegal | .fetchAlign => .fetchAlign
        code := 0, tid := some r.tid, pc := th.pc, faddr := 0, faulters := [r.tid], next := s.cur.next, deferred := false, dest := [] } }))
/-! ## The step, the words and the invariants -/

/-- R370 and the register tables: what reset leaves. The device stands in phase 0, not ready; no crew, packet, access,
translation or partition assignment exists; every register reads its reset value, the ones other than zero written out. -/
def ResetLeavesRegistersAtTheirValues : Prop :=
  State.reset.powered = true ∧ State.reset.phase = 0 ∧ State.reset.ready = false ∧ State.reset.crews = [] ∧
  State.reset.cards = [] ∧ State.reset.loads = [] ∧ State.reset.writes = [] ∧ State.reset.tlb = [] ∧ State.reset.icache = [] ∧
  State.reset.l1 = [] ∧ State.reset.lost = [] ∧ State.reset.parts' = 1 ∧
  (∀ r, State.reset.reg r = r.reset 1) ∧
  (∀ f, State.reset.field (.frctl f) 0 4 = 4 ∧ State.reset.field (.frctl f) 31 1 = 0) ∧
  (∀ n, State.reset.field (.cal n) 0 5 = 16) ∧
  (∀ p, State.reset.field (.pkitty p) 12 10 = 20 ∧ State.reset.field (.pkitty p) 32 16 = 0) ∧
  State.reset.field .memstat 0 12 = 0xFFF ∧ State.reset.field .memstat 30 2 = 0 ∧
  State.reset.field .memctl 31 1 = 1 ∧ State.reset.field .memctl 30 1 = 1 ∧ State.reset.field .memctl 16 8 = 16 ∧
  State.reset.field .memctl 8 8 = 24 ∧ State.reset.field .accctl 32 16 = 4096 ∧ State.reset.field .accctl 63 1 = 0

/-- R85, R93, R94, R96, R106, R140, R188: a step. The head of the agenda moves first. Else the threads whose condition has cleared become
runnable, then an event of a unit that the model picks happens, or one group issues; with neither, time goes on alone. The
group's address is translated, and the owner and poison of its block are checked; the bytes left of the fetch block decode to
the instruction that executes, with the address after it as the next one and the members that issue YIELD noted; a group at the last four bytes of a block, or not
aligned, takes FETCHALIGN before anything is read. Without power and with an empty agenda the machine stops. The order of
events is the model's choice (log 1). -/
def StepRunsTheDecodedInstruction : Prop :=
  ∀ (s : State),
    (∀ i rest, s.agenda = i :: rest → s.powered = true → step s = ticked (exec i { s with agenda := rest })) ∧
    (∀ i rest, s.agenda = i :: rest → s.powered = false → i ≠ .powerOnReset → step s = .next { s with agenda := rest }.tick) ∧
    (s.agenda = [] → s.powered = false → step s = .fault .noPower) ∧
    (∀ i s1, s.agenda = [] → s.powered = true → s.roused.pickMove = (some i, s1) → step s = ticked (exec i s1)) ∧
    (∀ s1, s.agenda = [] → s.powered = true → s.roused.pickMove = (none, s1) → s1.select = none → step s = .next s1.tick) ∧
    ∀ (s1 s2 : State) (c : Crew), s.agenda = [] → s.powered = true → s.roused.pickMove = (none, s1) → s1.select = some s2 →
      s2.crew s2.cur.crew = some c →
      let pc := s2.cur.pc.toNat
      let past := fun (t : State) (n : Nat) => ({ t with cur := { t.cur with next := successor s2.cur.pc n } } : State)
      (pc % 4 ≠ 0 ∨ pc % 32 = 28 → step s = ticked (exec (.illegalFetch .fetchAlign) (past s2 4))) ∧
      ∀ (tg : Target) (s3 s4 : State) (bytes : List Byte), ¬(pc % 4 ≠ 0 ∨ pc % 32 = 28) →
        (past s2 4).translate c.cluster c.fn (pc / 32 * 32) .fetch false = (.ok tg, s3) →
        (tg.peer = true ∧ s3.fetchPeer c (pc / 32 * 32) tg.pa = (some bytes, s4) ∨
          tg.peer = false ∧ (s3.homeBusy tg.pa = false ∨ (s3.blockHeld c.core c.fn (pc / 32 * 32)).isSome = true) ∧
            s3.ownedBy (ownerCode c.fn) tg.pa = true ∧ s3.runBad tg.pa 32 = false ∧
            s3.fetchBlock c.core c.fn (pc / 32 * 32) tg.pa = (bytes, s4)) →
        (∀ i, decode (bytes.drop (pc % 32)) = .ok i → i.regsOk c.rcd.regs = true →
          step s = ticked (exec i ((past s4 i.bytes).noteYield i))) ∧
        (∀ i, decode (bytes.drop (pc % 32)) = .ok i → i.regsOk c.rcd.regs = false →
          step s = ticked (exec (.illegalFetch .illegal) (past s4 i.bytes))) ∧
        (∀ e, decode (bytes.drop (pc % 32)) = .error e →
          step s = ticked (exec (.illegalFetch e) (past s4 (fetchLength (bytes.drop (pc % 32))))))

/-- Words that the spec prints beside their source lines (R82, R83, R90, Chapters 6 to 17): a few, with the fields they
stand for. -/
def PrintedWordsDecode : Prop :=
  decode (leBytes 8 0x010000002020DC05) = .ok (.iadd ⟨⟨false, 7⟩, 3, 1, 2, 0, 0, 0, .s32, .none, 0, 0, .none⟩) ∧
  decode (leBytes 8 0x0100084070C16811) = .ok (.imad ⟨⟨true, 2⟩, 5, 6, 7, 8, 2, 0, .s32, .none, 0, 0, .none⟩) ∧
  decode (leBytes 16 (0x0060000000011C5F + 2 ^ 64 * 0x0000004000020000)) =
    .ok (.movi ⟨⟨false, 7⟩, 4, 0, 0, 0, 0, 0, .b64, .none, 0, 0, .imm64 0x4000020000⟩) ∧
  decode (leBytes 12 (0x164000000081DE82 + 2 ^ 64 * 0x40)) =
    .ok (.ld ⟨⟨false, 7⟩, 7, 4, 0, 0, 0, 0, .b32, .device, 1, 0, .imm32 0x40⟩) ∧
  decode (leBytes 8 0x4134A00050805C81) = .ok (.icmp ⟨⟨false, 7⟩, 1, 4, 5, 0, 0, 0xA5, .z32, .none, 0, 1, .none⟩) ∧
  decode (leBytes 12 (0x0000000000001D06 + 2 ^ 64 * 0xFFFFFFC0)) =
    .ok (.bra ⟨⟨false, 7⟩, 0, 0, 0, 0, 0, 0, .b8, .none, 0, 0, .imm32 0xFFFFFFC0⟩) ∧
  decode (leBytes 8 0x1101C0000061DE01) = .ok (.cvti ⟨⟨false, 7⟩, 7, 3, 0, 0, 0, 0x0E, .s32, .none, 1, 0, .none⟩) ∧
  decode (leBytes 8 0x4004A00000041D31) = .ok (.draw ⟨⟨false, 7⟩, 16, 0, 0, 0, 0, 0x25, .b8, .none, 0, 1, .none⟩)

/-- R82, R83, R90: no bit of an encoding is dropped. The bytes that `encode` forms from a well-formed instruction, whatever
follows them in the fetch block, decode to that instruction. -/
def EncodedInstructionsDecodeToThemselves : Prop :=
  ∀ (i : Instr) (rest : List Byte), i.wellFormed = true → i.fields.isSome = true → decode (encode i ++ rest) = .ok i

/-- R81, R82, R93: what decodes is a well-formed instruction of 8, 12 or 16 bytes, and its bytes are the ones `encode` forms:
no two byte strings stand for one instruction. -/
def DecodedBytesAreTheEncoding : Prop :=
  ∀ (bs : List Byte) (i : Instr), decode bs = .ok i →
    i.wellFormed = true ∧ i.fields.isSome = true ∧ (i.bytes = 8 ∨ i.bytes = 12 ∨ i.bytes = 16) ∧ i.bytes ≤ bs.length ∧
    encode i = bs.take i.bytes

/-- The machine's only stop is the loss of power with an empty agenda (R366): every other step, whatever the instruction or
event, answers a next state. -/
def OnlyALackOfPowerStops : Prop :=
  ∀ (s : State), (s.agenda = [] ∧ s.powered = false → step s = .fault .noPower) ∧
    (s.agenda ≠ [] ∨ s.powered = true → ∃ t, step s = .next t)

/-- The canonical form of the crews: their table, each crew's threads and each thread's transaction log are sparse maps in
canonical form. -/
def CrewsWf (s : State) : Prop :=
  s.crews.wf = true ∧ ∀ e ∈ s.crews, ∀ c : Crew, e.2 = some c →
    c.threads.wf = true ∧ ∀ q ∈ c.threads, ∀ t : Thread, q.2 = some t → t.tx.writes.wf = true

/-- Both invariants hold after reset. -/
def InvariantsHoldAtReset : Prop := MemInv State.reset ∧ CrewsWf State.reset

/-- Every step keeps the canonical form of the three memories: home memory, memory-side cache data and parity. -/
def StepsKeepTheMemories : Prop := ∀ (s t : State), MemInv s → step s = .next t → MemInv t

/-- Every step keeps the canonical form of the crews, their threads and their transaction logs. -/
def StepsKeepTheCrews : Prop := ∀ (s t : State), CrewsWf s → step s = .next t → CrewsWf t


end Sys2Proof.Machine
open Sys2Proof Sys2Proof.Machine

/-- Register instructions complete for groups of any size and change each member by its own effect. -/
def Obligations.RegisterInstructionsActOnEveryMember : Prop :=
  Sys2Proof.Machine.IntegerGroupsChangeMembersOnly ∧
  Sys2Proof.Machine.PredicateAndCursorGroupsChangeMembersOnly ∧
  Sys2Proof.Machine.NumberGroupsChangeMembersOnly

/-- The frame of the register instructions: no register, predicate or cursor but those each names changes. -/
def Obligations.RegisterInstructionsChangeOnlyDestinations : Prop := Sys2Proof.Machine.RegisterInstructionFrame

/-- Results of the integer instructions for every type, form and saturation. -/
def Obligations.IntegerInstructionsGiveTable82 : Prop := Sys2Proof.Machine.IntegerResultsOfTable82

/-- IDIV and IREM on every operand, division by zero and min_TY / −1 among them. -/
def Obligations.DivisionTruncatesTowardZero : Prop := Sys2Proof.Machine.DivisionIsDefinedOnEveryOperand

/-- SHL, SHR and ROT bit by bit, for every count. -/
def Obligations.ShiftsAndRotationsByAnyCount : Prop := Sys2Proof.Machine.ShiftsByAnyCount

/-- LOP3, PLOP, P2G and G2P. -/
def Obligations.TablesAndPredicateTransfers : Prop := Sys2Proof.Machine.TablesOfThreeInputs ∧ Sys2Proof.Machine.PredicatesToAndFromRegisters

/-- IADDC takes and returns its carry, in its .sub form too. -/
def Obligations.CarriesTravelThroughPredicates : Prop := Sys2Proof.Machine.CarryFromAndToPredicates

/-- ICMP and FCMP for every condition, combination and type. -/
def Obligations.ComparesCombineWithAPredicate : Prop := Sys2Proof.Machine.ComparesWriteOnePredicate

/-- FMIN and FMAX on every pair of operands, and the special cases of the approximate functions. -/
def Obligations.MinimumMaximumAndSpecialCases : Prop := Sys2Proof.Machine.MinimumAndMaximumOfNumbers ∧ Sys2Proof.Machine.SpecialCasesOfApproximateFunctions

/-- CVTI from integers and from floating-point numbers, NaN and infinities among them. -/
def Obligations.ConversionsRoundAndClamp : Prop := Sys2Proof.Machine.ConversionsToIntegers

/-- Guard, then empty registers, then execution; gz and pt are constant. -/
def Obligations.GuardsAndRegistersComeFirst : Prop := Sys2Proof.Machine.GuardThenRegistersThenExecution ∧ Sys2Proof.Machine.ConstantRegistersReadTheSame

/-- Branch targets, CALL and RET; RETIRE and EXIT. -/
def Obligations.BranchesAndThreadEnds : Prop := Sys2Proof.Machine.BranchesJumpToTheirTargets ∧ Sys2Proof.Machine.RetireAndExitEndAThread

/-- SLEEP and WAITA: when a thread sleeps and when it wakes. -/
def Obligations.SleepersWakeByTimeOrWord : Prop := Sys2Proof.Machine.SleepLastsItsCycles ∧ Sys2Proof.Machine.WaitaWakesOnADifferentWord

/-- TRAP and BRK suspend the crew with the cause and address saved; GETS and SETS. -/
def Obligations.TrapsAndSpecialRegisters : Prop := Sys2Proof.Machine.TrapAndBrkSuspendTheCrew ∧ Sys2Proof.Machine.SpecialRegistersReadAndWritten

/-- A band collective takes effect once every live thread of its band has come. -/
def Obligations.BandCollectivesRendezvous : Prop :=
  Sys2Proof.Machine.BandCollectiveCompletes ∧
  Sys2Proof.Machine.IncompleteCollectiveHasNoEffect ∧
  Sys2Proof.Machine.CollectiveResultsByLane

/-- BARC and MELD complete for a whole crew; a rendezvous that is not met faults BANDWAIT. -/
def Obligations.CrewCollectivesRendezvous : Prop :=
  Sys2Proof.Machine.CrewBarrierCompletes ∧
  Sys2Proof.Machine.MeldSortsTheCrew ∧
  Sys2Proof.Machine.LateRendezvousFaultsBandwait

/-- LD and ST put their access in flight; memory is as before until it is performed. -/
def Obligations.GlobalAccessesIssue : Prop := Sys2Proof.Machine.GlobalLoadIssues ∧ Sys2Proof.Machine.GlobalStoreIssues

/-- Local and private loads and stores, and what they leave of other crews and threads. -/
def Obligations.LocalAndPrivateAccesses : Prop :=
  Sys2Proof.Machine.LocalAccessesReadAndWriteTheirCrew ∧
  Sys2Proof.Machine.PrivateAccessesStayWithTheirThread

/-- Loaded elements, how data land, and that a plain load sees its core’s own stores. -/
def Obligations.LoadDataReachRegisters : Prop :=
  Sys2Proof.Machine.LoadedElementsExtendToRegisters ∧
  Sys2Proof.Machine.LoadDataLandInRegisters ∧
  Sys2Proof.Machine.LoadMissSeesOwnStores

/-- A write is performed whole and changes its own bytes and elements alone. -/
def Obligations.WritesChangeTheirOwnBytes : Prop :=
  Sys2Proof.Machine.WritesArePerformedWhole ∧
  Sys2Proof.Machine.ViewWritesKeepOtherElements ∧
  Sys2Proof.Machine.SettledWritesAreAcknowledged

/-- ATOM, RED and ACAS: issue, operation and performance at the home slice. -/
def Obligations.AtomicsActAtTheirHome : Prop :=
  Sys2Proof.Machine.AtomicsIssue ∧
  Sys2Proof.Machine.AtomicNewValues ∧
  Sys2Proof.Machine.AtomicsPerformReadAndWriteAtOnce

/-- Parity follows the data through caches and deltas; stack losses and scrubbing. -/
def Obligations.MemoryStaysProtectedByParity : Prop :=
  Sys2Proof.Machine.WritesReachTheMemorySideCache ∧
  Sys2Proof.Machine.DeltasReachTheParity ∧
  Sys2Proof.Machine.StackLossIsRecorded ∧
  Sys2Proof.Machine.ScrubbingRestoresParity

/-- HBM channel grants, fills, and the registers of the memory system. -/
def Obligations.ChannelsFillsAndMemoryRegisters : Prop :=
  Sys2Proof.Machine.ChannelsGrantByClassAndDeadline ∧
  Sys2Proof.Machine.FillsAreRequestedAndCounted ∧
  Sys2Proof.Machine.MemoryRegistersTakeTheirFields

/-- FENCE, CINV, CWB, prefetches and line marks. -/
def Obligations.FencesCachesAndMarks : Prop :=
  Sys2Proof.Machine.FencesActOnceTheirAccessesAreDone ∧
  Sys2Proof.Machine.CacheInstructionsComplete ∧
  Sys2Proof.Machine.PrefetchAndLineMarks

/-- TXB, TXA and aborts: what begins, and that an abort discards the logs. -/
def Obligations.TransactionsBeginAndAbort : Prop :=
  Sys2Proof.Machine.TransactionsBegin ∧
  Sys2Proof.Machine.AbortsDiscardTheLogs ∧
  Sys2Proof.Machine.ExplicitAborts

/-- Accesses of a transaction go to its logs; TXC prepares, then applies the write log. -/
def Obligations.TransactionsReadTheirLogAndCommit : Prop := Sys2Proof.Machine.TransactionalAccessesUseTheLogs ∧ Sys2Proof.Machine.CommitsApplyTheWriteLog

/-- Fibre and stream instructions; DRAW, APPEND, BNDSET and NESTQ. -/
def Obligations.CursorsAndWorkInstructions : Prop :=
  Sys2Proof.Machine.CursorsOpen ∧
  Sys2Proof.Machine.CursorsReadAndAdvance ∧
  Sys2Proof.Machine.FseekStopsAtTheKey ∧
  Sys2Proof.Machine.DrawTakesOneEntry ∧
  Sys2Proof.Machine.WorkInstructionsComplete

/-- Matrix instructions issue cards, blocks become final, and accumulator instructions. -/
def Obligations.MatrixOperationsAndAccumulators : Prop :=
  Sys2Proof.Machine.MatrixOperationsIssue ∧
  Sys2Proof.Machine.MatrixBlocksBecomeFinal ∧
  Sys2Proof.Machine.AccumulatorInstructions

/-- Barrier objects count; copies are checked at issue and enter the ring. -/
def Obligations.BarriersAndCopiesAreChecked : Prop :=
  Sys2Proof.Machine.BarrierObjectsCount ∧
  Sys2Proof.Machine.CopiesAreChecked ∧
  Sys2Proof.Machine.TensorCopiesAreChecked

/-- COLL joins an instance; CWAIT counts the cards in the ring. -/
def Obligations.CollectiveCardsAndCardWaits : Prop := Sys2Proof.Machine.CollectiveCardsJoinInstances ∧ Sys2Proof.Machine.CwaitCountsTheCards

/-- Cards start after their predecessors, land their lines, and leave the ring. -/
def Obligations.CardsStartLandAndLeave : Prop :=
  Sys2Proof.Machine.CardsStartAfterTheirPredecessors ∧
  Sys2Proof.Machine.LocalLinesLand ∧
  Sys2Proof.Machine.CardsCompleteAndLeaveTheRing

/-- Missing pages, faulting cards, hung engines and token buckets. -/
def Obligations.CardsPauseFaultAndPay : Prop :=
  Sys2Proof.Machine.MissingPagesPauseCards ∧
  Sys2Proof.Machine.FaultingCardsAreAbandoned ∧
  Sys2Proof.Machine.HungEnginesAreReset ∧
  Sys2Proof.Machine.TokenTicksRefillBuckets

/-- NOTIFY writes and QCMD commands. -/
def Obligations.QueuesAreNotifiedAndCommanded : Prop := Sys2Proof.Machine.NotifyWritesMoveQueues ∧ Sys2Proof.Machine.QueueCommandsEnableAndDisable

/-- Slots are read in order; packets complete with their status words. -/
def Obligations.PacketsAreReadAndComplete : Prop :=
  Sys2Proof.Machine.SlotsAreReadInOrder ∧
  Sys2Proof.Machine.PacketsCompleteWithTheirStatusWords ∧
  Sys2Proof.Machine.FinishedPacketsComplete

/-- Each packet type as it begins, and as a stall of it ends. -/
def Obligations.PacketTypesHaveTheirEffects : Prop :=
  Sys2Proof.Machine.InstallAndAppendPackets ∧
  Sys2Proof.Machine.DataAndOrderPackets ∧
  Sys2Proof.Machine.LinksReturnSegments

/-- The opening pointer and the rows that the walker opens. -/
def Obligations.WalkerOpensRowsInOrder : Prop := Sys2Proof.Machine.OpeningPointerFindsTheNextTuple ∧ Sys2Proof.Machine.RowsOpenAtThePointer

/-- A crew gives its point back, and the watermark of its row moves. -/
def Obligations.RetirementsReachTheWalker : Prop := Sys2Proof.Machine.RetirementsMoveTheWatermark ∧ Sys2Proof.Machine.CrewsRetireTheirPoints

/-- A ready point is released into the deal queue. -/
def Obligations.PointsAreReleasedToTheDealQueue : Prop := Sys2Proof.Machine.PointReleasesJoinTheDealQueue

/-- BNDSET raises a bound; a nest completes. -/
def Obligations.BoundsRiseAndNestsComplete : Prop := Sys2Proof.Machine.BoundsRise ∧ Sys2Proof.Machine.NestsComplete

/-- How a crew starts, on which core, and what its end frees. -/
def Obligations.CrewsStartAndEnd : Prop :=
  Sys2Proof.Machine.CrewsStartAsTheRecordSays ∧
  Sys2Proof.Machine.CoresStartCrewsForPoints ∧
  Sys2Proof.Machine.EndedCrewsFreeTheirResources

/-- The end of a slice starts a world switch, which exchanges the walker’s share. -/
def Obligations.SlicesAndWorldSwitches : Prop := Sys2Proof.Machine.SlicesEndInSwitches ∧ Sys2Proof.Machine.SwitchesExchangeTheWalker

/-- Kitty clusters are lent, revoked and returned; a failed cluster loses its crews. -/
def Obligations.ClustersAreLentRevokedAndLost : Prop :=
  Sys2Proof.Machine.KittyClustersAreLentAndReturned ∧
  Sys2Proof.Machine.RevocationsBegin ∧
  Sys2Proof.Machine.FailedClustersLoseTheirCrews

/-- PCFG, VFPART, CAL and the slices: what each write does and when it is refused. -/
def Obligations.PartitionRegistersRefuse : Prop := Sys2Proof.Machine.PartitionRegistersCheckTheirWrites

/-- Invalidations, frame owners and format windows. -/
def Obligations.TranslationsOwnersAndWindows : Prop :=
  Sys2Proof.Machine.InvalidationsRemoveTranslations ∧
  Sys2Proof.Machine.FrameOwnersAreReadAndSet ∧
  Sys2Proof.Machine.FormatWindowsTurnOnAndOff

/-- What a save takes off the core, and what a restore brings back. -/
def Obligations.CrewsAreSavedAndRestored : Prop := Sys2Proof.Machine.SavesLeaveTheCore ∧ Sys2Proof.Machine.RestoresBringCrewsBack

/-- The fault ring, and the commands on saved crews and card requests. -/
def Obligations.FaultRecordsAndCrewCommands : Prop := Sys2Proof.Machine.FaultRingsTakeRecords ∧ Sys2Proof.Machine.CommandsActOnSavedCrews

/-- A function-level reset tears its function down and leaves the others. -/
def Obligations.FunctionLevelResetLeavesNothing : Prop := Sys2Proof.Machine.FunctionResetsTearDown

/-- The domain’s wiring is symmetric, and each route takes the global link of its copy. -/
def Obligations.WaldinWiringAndRoutes : Prop :=
  Sys2Proof.Machine.WiringIsSymmetric ∧
  Sys2Proof.Machine.RoutesTakeOneGlobalLink ∧
  Sys2Proof.Machine.RoutesMoveToLinksThatStand

/-- Ports train and lose lanes; flits are checked and sequenced. -/
def Obligations.PortsAndFlits : Prop :=
  Sys2Proof.Machine.PortsTrainAndLoseLanes ∧
  Sys2Proof.Machine.FlitsAreCheckedAndSequenced ∧
  Sys2Proof.Machine.PacketsTravelAsFlits

/-- Requests of peers, answers to ours, and the shares of collective instances. -/
def Obligations.PeersAndCollectiveInstances : Prop :=
  Sys2Proof.Machine.PeerRequestsAreServed ∧
  Sys2Proof.Machine.AnswersEndTheirRequests ∧
  Sys2Proof.Machine.CollectiveInstancesGatherShares

/-- Thermal events, loss of power, and the order of start-up. -/
def Obligations.ThermalEventsAndStartUp : Prop := Sys2Proof.Machine.ThermalEventsHaltTheMachine ∧ Sys2Proof.Machine.StartUpRunsInOrder

/-- Failover from the committed state table; the commands of FWCTL. -/
def Obligations.FailoverAndLiveUpdate : Prop := Sys2Proof.Machine.FailoverWorksFromTheTable ∧ Sys2Proof.Machine.LiveUpdateCommands

/-- Answers of the attestation responder; the test port obeys the debug fuse. -/
def Obligations.AttestationAndTestPort : Prop := Sys2Proof.Machine.AttestationAnswers ∧ Sys2Proof.Machine.TestPortsObeyTheDebugFuse

/-- Register writes by their access codes; a fetch that is no instruction faults. -/
def Obligations.RegistersAndIllegalFetches : Prop :=
  Sys2Proof.Machine.PlainRegistersTakeTheirFields ∧
  Sys2Proof.Machine.RegistersKeepTheirValues ∧
  Sys2Proof.Machine.IllegalFetchesFault

/-- What reset leaves, and that the invariants of the memories and the crews hold there. -/
def Obligations.ResetStateAndItsInvariants : Prop := Sys2Proof.Machine.ResetLeavesRegistersAtTheirValues ∧ Sys2Proof.Machine.InvariantsHoldAtReset

/-- A step executes the instruction that its fetched bytes decode to; only a lack of power stops the machine. -/
def Obligations.StepRunsTheFetchedInstruction : Prop := Sys2Proof.Machine.StepRunsTheDecodedInstruction ∧ Sys2Proof.Machine.OnlyALackOfPowerStops

/-- A few of the words that the spec prints decode to the instructions they stand beside. -/
def Obligations.WordsOfTheSpecDecode : Prop := Sys2Proof.Machine.PrintedWordsDecode

/-- Decoding an encoded well-formed instruction gives it back, and encoding a decoded one gives its bytes. -/
def Obligations.DecodeAndEncodeAgree : Prop :=
  Sys2Proof.Machine.EncodedInstructionsDecodeToThemselves ∧
  Sys2Proof.Machine.DecodedBytesAreTheEncoding

/-- Every step keeps the canonical form of home memory, memory-side data and parity. -/
def Obligations.EveryStepKeepsTheMemories : Prop := Sys2Proof.Machine.StepsKeepTheMemories

/-- Every step keeps the canonical form of the crews, their threads and their transaction logs. -/
def Obligations.EveryStepKeepsTheCrews : Prop := Sys2Proof.Machine.StepsKeepTheCrews
end

