-- ==== Sys2Proof/Laws/FMap.lean ====
section
/-!
SUPPORT. Laws of sparse maps: reading after writing, and the canonical form.
-/
namespace Sys2Proof.FMap

variable {β : Type}

@[simp] theorem get_nil [Inhabited β] (k : Nat) : FMap.get ([] : FMap β) k = default := rfl

theorem get_cons [Inhabited β] (k' : Nat) (v : β) (t : FMap β) (k : Nat) :
    FMap.get ((k', v) :: t) k = if k' = k then v else FMap.get t k := rfl

theorem get_erase_same [Inhabited β] (m : FMap β) (k : Nat) : (m.erase k).get k = default := by
  induction m with
  | nil => rfl
  | cons e t ih => obtain ⟨k', v⟩ := e; by_cases h : k' = k <;> simp [erase, h, get_cons, ih]

theorem get_erase_other [Inhabited β] (m : FMap β) {k j : Nat} (h : j ≠ k) : (m.erase k).get j = m.get j := by
  induction m with
  | nil => rfl
  | cons e t ih =>
    obtain ⟨k', v⟩ := e
    by_cases h' : k' = k
    · subst h'; simp [erase, get_cons, ih, Ne.symm h]
    · simp [erase, h', get_cons, ih]

theorem get_insert_same [Inhabited β] (m : FMap β) (k : Nat) (v : β) (h : ∀ e ∈ m, e.1 ≠ k) : (m.insert k v).get k = v := by
  induction m with
  | nil => simp [insert, get_cons]
  | cons e t ih =>
    obtain ⟨k', v'⟩ := e
    have h1 : k' ≠ k := h (k', v') (by simp)
    by_cases hk : k < k'
    · simp [insert, hk, get_cons]
    · simp [insert, hk, get_cons, h1, ih (fun e he => h e (by simp [he]))]

theorem get_insert_other [Inhabited β] (m : FMap β) {k j : Nat} (v : β) (h : j ≠ k) : (m.insert k v).get j = m.get j := by
  induction m with
  | nil => simp [insert, get_cons, Ne.symm h]
  | cons e t ih =>
    obtain ⟨k', v'⟩ := e
    by_cases hk : k < k' <;> simp [insert, hk, get_cons, Ne.symm h, ih]

theorem not_mem_erase (m : FMap β) (k : Nat) : ∀ e ∈ m.erase k, e.1 ≠ k := by
  induction m with
  | nil => simp [erase]
  | cons e t ih =>
    obtain ⟨k', v⟩ := e
    by_cases h : k' = k
    · simpa [erase, h] using ih
    · simpa [erase, h] using ih

/-- Reading the key that was written gives the value written. -/
@[simp] theorem get_set_same [Inhabited β] [DecidableEq β] (m : FMap β) (k : Nat) (v : β) : (m.set k v).get k = v := by
  unfold set
  split
  · next h => rw [get_erase_same, h]
  · exact get_insert_same _ _ _ (not_mem_erase m k)

/-- Writing one key leaves every other key alone. -/
theorem get_set_other [Inhabited β] [DecidableEq β] (m : FMap β) {k j : Nat} (v : β) (h : j ≠ k) :
    (m.set k v).get j = m.get j := by
  unfold set
  split
  · exact get_erase_other m h
  · rw [get_insert_other _ _ h, get_erase_other m h]

theorem get_set [Inhabited β] [DecidableEq β] (m : FMap β) (k j : Nat) (v : β) :
    (m.set k v).get j = if j = k then v else m.get j := by
  by_cases h : j = k
  · subst h; simp
  · simp [h, get_set_other]

theorem erase_of_not_mem (m : FMap β) (k : Nat) (h : ∀ e ∈ m, e.1 ≠ k) : m.erase k = m := by
  induction m with
  | nil => rfl
  | cons e t ih =>
    obtain ⟨k', v⟩ := e
    have h1 : k' ≠ k := h (k', v) (by simp)
    simp [FMap.erase, h1, ih (fun e he => h e (by simp [he]))]

theorem erase_insert_same (m : FMap β) (k : Nat) (v : β) : (m.insert k v).erase k = m.erase k := by
  induction m with
  | nil => simp [FMap.insert, FMap.erase]
  | cons e t ih =>
    obtain ⟨k', v'⟩ := e
    unfold FMap.insert
    split
    · simp [FMap.erase]
    · simp [FMap.erase, ih]

/-- The last of two writes at a key is the one that counts. -/
@[simp] theorem set_set [Inhabited β] [DecidableEq β] (m : FMap β) (k : Nat) (u v : β) : (m.set k u).set k v = m.set k v := by
  have : (m.set k u).erase k = m.erase k := by
    unfold FMap.set
    split
    · exact erase_of_not_mem _ _ (not_mem_erase m k)
    · rw [erase_insert_same]; exact erase_of_not_mem _ _ (not_mem_erase m k)
  unfold FMap.set at *; rw [this]

@[simp] theorem get_upd_same [Inhabited β] [DecidableEq β] (m : FMap β) (k : Nat) (f : β → β) :
    (m.upd k f).get k = f (m.get k) := get_set_same m k _

theorem get_upd_other [Inhabited β] [DecidableEq β] (m : FMap β) {k j : Nat} (f : β → β) (h : j ≠ k) :
    (m.upd k f).get j = m.get j := get_set_other m _ h

/-- Reading a key outside a run that was written. -/
theorem get_setList_other [Inhabited β] [DecidableEq β] (vs : List β) (m : FMap β) (k j : Nat)
    (h : j < k ∨ k + vs.length ≤ j) : (m.setList k vs).get j = m.get j := by
  induction vs generalizing m k with
  | nil => rfl
  | cons v t ih =>
    simp only [List.length_cons] at h
    rw [setList, ih _ _ (by omega), get_set_other _ _ (by omega)]

/-- Reading a key inside a run that was written. -/
theorem get_setList_same [Inhabited β] [DecidableEq β] (vs : List β) (m : FMap β) (k i : Nat) (h : i < vs.length) :
    (m.setList k vs).get (k + i) = vs[i] := by
  induction vs generalizing m k i with
  | nil => simp at h
  | cons v t ih =>
    cases i with
    | zero => rw [setList, get_setList_other _ _ _ _ (by omega)]; simp
    | succ i =>
      have := ih (m.set k v) (k + 1) i (by simpa using h)
      rw [setList, show k + (i + 1) = k + 1 + i by omega, this]; simp

theorem getList_length [Inhabited β] (m : FMap β) (k n : Nat) : (m.getList k n).length = n := by
  induction n generalizing k with
  | zero => rfl
  | succ n ih => simp [getList, ih]

theorem getList_getElem [Inhabited β] (m : FMap β) (k n i : Nat) (h : i < n) :
    (m.getList k n)[i]'(by rw [getList_length]; exact h) = m.get (k + i) := by
  induction n generalizing k i with
  | zero => omega
  | succ n ih =>
    cases i with
    | zero => simp [getList]
    | succ i => simp only [getList, List.getElem_cons_succ]; rw [ih (k + 1) i (by omega)]; congr 1; omega

/-- A run that was written reads as written. -/
theorem getList_setList [Inhabited β] [DecidableEq β] (m : FMap β) (k : Nat) (vs : List β) :
    (m.setList k vs).getList k vs.length = vs := by
  apply List.ext_getElem (getList_length _ _ _)
  intro i h1 h2
  rw [getList_getElem _ _ _ _ h2, get_setList_same _ _ _ _ h2]

/-! ## The canonical form -/

theorem wfFrom_weaken [Inhabited β] [DecidableEq β] (m : FMap β) {lo lo' : Nat} (h : lo' ≤ lo) (hm : wfFrom (some lo) m = true) :
    wfFrom (some lo') m = true := by
  cases m with
  | nil => rfl
  | cons e t => obtain ⟨k, v⟩ := e; simp [wfFrom] at hm ⊢; exact ⟨⟨by omega, hm.1.2⟩, hm.2⟩

theorem wfFrom_none [Inhabited β] [DecidableEq β] (m : FMap β) {lo : Nat} (hm : wfFrom (some lo) m = true) :
    wfFrom none m = true := by
  cases m with
  | nil => rfl
  | cons e t => obtain ⟨k, v⟩ := e; simp [wfFrom] at hm ⊢; exact ⟨hm.1.2, hm.2⟩

theorem wfFrom_erase [Inhabited β] [DecidableEq β] (m : FMap β) (k : Nat) (lo : Option Nat) (hm : wfFrom lo m = true) :
    wfFrom lo (m.erase k) = true := by
  induction m generalizing lo with
  | nil => cases lo <;> rfl
  | cons e t ih =>
    obtain ⟨k', v⟩ := e
    by_cases h : k' = k
    · cases lo with
      | none => simp [wfFrom] at hm; simpa [erase, h] using ih none (wfFrom_none t hm.2)
      | some l => simp [wfFrom] at hm; simpa [erase, h] using ih (some l) (wfFrom_weaken t (by omega) hm.2)
    · cases lo with
      | none => simp [wfFrom] at hm; simp [erase, h, wfFrom, hm.1, ih _ hm.2]
      | some l => simp [wfFrom] at hm; simp [erase, h, wfFrom, hm.1, ih _ hm.2]

theorem wfFrom_insert [Inhabited β] [DecidableEq β] (m : FMap β) (k : Nat) (v : β) (lo : Option Nat) (hv : v ≠ default)
    (hlo : ∀ l, lo = some l → l < k) (hk : ∀ e ∈ m, e.1 ≠ k) (hm : wfFrom lo m = true) :
    wfFrom lo (m.insert k v) = true := by
  induction m generalizing lo with
  | nil =>
    cases lo with
    | none => simp [insert, wfFrom, hv]
    | some l => simp [insert, wfFrom, hv, hlo l rfl]
  | cons e t ih =>
    obtain ⟨k', v'⟩ := e
    have h1 : k' ≠ k := hk (k', v') (by simp)
    have h2 : ∀ e ∈ t, e.1 ≠ k := fun e he => hk e (by simp [he])
    by_cases h : k < k'
    · cases lo with
      | none => simp [wfFrom] at hm; simp [insert, h, wfFrom, hv, hm]
      | some l => simp [wfFrom] at hm; simp [insert, h, wfFrom, hv, hm, hlo l rfl]
    · have h3 : wfFrom (some k') t = true := by cases lo <;> simp [wfFrom] at hm <;> exact hm.2
      have h4 := ih (some k') (fun l hl => by cases hl; omega) h2 h3
      cases lo with
      | none => simp [wfFrom] at hm; simp [insert, h, wfFrom, hm.1, h4]
      | some l => simp [wfFrom] at hm; simp [insert, h, wfFrom, hm.1, h4]

/-- A write keeps the canonical form. -/
theorem wf_set [Inhabited β] [DecidableEq β] (m : FMap β) (k : Nat) (v : β) (hm : m.wf = true) : (m.set k v).wf = true := by
  unfold set
  split
  · exact wfFrom_erase m k none hm
  · next h => exact wfFrom_insert _ k v none h (fun _ h => by cases h) (not_mem_erase m k) (wfFrom_erase m k none hm)

/-- A write of a run keeps the canonical form. -/
theorem wf_setList [Inhabited β] [DecidableEq β] (vs : List β) (m : FMap β) (k : Nat) (hm : m.wf = true) :
    (m.setList k vs).wf = true := by
  induction vs generalizing m k with
  | nil => exact hm
  | cons v t ih => exact ih _ _ (wf_set m k v hm)

theorem wfFrom_keep [Inhabited β] [DecidableEq β] (m : FMap β) (p : Nat → Bool) (lo : Option Nat) (hm : wfFrom lo m = true) :
    wfFrom lo (m.keep p) = true := by
  induction m generalizing lo with
  | nil => cases lo <;> rfl
  | cons e t ih =>
    obtain ⟨k', v⟩ := e
    have ht : wfFrom (some k') t = true := by cases lo <;> simp [wfFrom] at hm <;> exact hm.2
    by_cases h : p k' = true
    · have := ih (some k') ht
      simp only [keep] at this
      cases lo with
      | none => simp [wfFrom] at hm; simp [keep, h, wfFrom, hm.1, this]
      | some l => simp [wfFrom] at hm; simp [keep, h, wfFrom, hm.1, this]
    · cases lo with
      | none => simpa [keep, h] using ih none (wfFrom_none t ht)
      | some l => simp [wfFrom] at hm; simpa [keep, h] using ih (some l) (wfFrom_weaken t (by omega) ht)

/-- Dropping entries keeps the canonical form. -/
theorem wf_keep [Inhabited β] [DecidableEq β] (m : FMap β) (p : Nat → Bool) (hm : m.wf = true) : (m.keep p).wf = true :=
  wfFrom_keep m p none hm

end Sys2Proof.FMap
end

