-- ==== Sys2Proof/Laws/State.lean ====
section
/-!
SUPPORT. One lemma for each field and update of State: an update leaves every field alone but the one that it names.
-/
namespace Sys2Proof.Machine
open Sys2Proof

@[simp] theorem State.putCrew_agenda (s : State) (c : Nat) (cr : Crew) : (s.putCrew c cr).agenda = s.agenda := rfl
@[simp] theorem State.putCrew_fresh (s : State) (c : Nat) (cr : Crew) : (s.putCrew c cr).fresh = s.fresh := rfl
@[simp] theorem State.putCrew_cur (s : State) (c : Nat) (cr : Crew) : (s.putCrew c cr).cur = s.cur := rfl
@[simp] theorem State.putCrew_awake (s : State) (c : Nat) (cr : Crew) : (s.putCrew c cr).awake = s.awake := rfl
@[simp] theorem State.putCrew_taken (s : State) (c : Nat) (cr : Crew) : (s.putCrew c cr).taken = s.taken := rfl
@[simp] theorem State.putCrew_pipes (s : State) (c : Nat) (cr : Crew) : (s.putCrew c cr).pipes = s.pipes := rfl
@[simp] theorem State.putCrew_yielded (s : State) (c : Nat) (cr : Crew) : (s.putCrew c cr).yielded = s.yielded := rfl
@[simp] theorem State.putCrew_rests (s : State) (c : Nat) (cr : Crew) : (s.putCrew c cr).rests = s.rests := rfl
@[simp] theorem State.putCrew_lag (s : State) (c : Nat) (cr : Crew) : (s.putCrew c cr).lag = s.lag := rfl
@[simp] theorem State.putCrew_nextId (s : State) (c : Nat) (cr : Crew) : (s.putCrew c cr).nextId = s.nextId := rfl
@[simp] theorem State.putCrew_fab (s : State) (c : Nat) (cr : Crew) : (s.putCrew c cr).fab = s.fab := rfl
@[simp] theorem State.putCrew_powered (s : State) (c : Nat) (cr : Crew) : (s.putCrew c cr).powered = s.powered := rfl
@[simp] theorem State.putCrew_regs (s : State) (c : Nat) (cr : Crew) : (s.putCrew c cr).regs = s.regs := rfl
@[simp] theorem State.putCrew_home (s : State) (c : Nat) (cr : Crew) : (s.putCrew c cr).home = s.home := rfl
@[simp] theorem State.putCrew_msc (s : State) (c : Nat) (cr : Crew) : (s.putCrew c cr).msc = s.msc := rfl
@[simp] theorem State.putCrew_parity (s : State) (c : Nat) (cr : Crew) : (s.putCrew c cr).parity = s.parity := rfl
@[simp] theorem State.putCrew_deltas (s : State) (c : Nat) (cr : Crew) : (s.putCrew c cr).deltas = s.deltas := rfl
@[simp] theorem State.putCrew_poison (s : State) (c : Nat) (cr : Crew) : (s.putCrew c cr).poison = s.poison := rfl
@[simp] theorem State.putCrew_checks (s : State) (c : Nat) (cr : Crew) : (s.putCrew c cr).checks = s.checks := rfl
@[simp] theorem State.putCrew_uncorr (s : State) (c : Nat) (cr : Crew) : (s.putCrew c cr).uncorr = s.uncorr := rfl
@[simp] theorem State.putCrew_parityBad (s : State) (c : Nat) (cr : Crew) : (s.putCrew c cr).parityBad = s.parityBad := rfl
@[simp] theorem State.putCrew_parityChecks (s : State) (c : Nat) (cr : Crew) : (s.putCrew c cr).parityChecks = s.parityChecks := rfl
@[simp] theorem State.putCrew_scrubs (s : State) (c : Nat) (cr : Crew) : (s.putCrew c cr).scrubs = s.scrubs := rfl
@[simp] theorem State.putCrew_owners (s : State) (c : Nat) (cr : Crew) : (s.putCrew c cr).owners = s.owners := rfl
@[simp] theorem State.putCrew_lost (s : State) (c : Nat) (cr : Crew) : (s.putCrew c cr).lost = s.lost := rfl
@[simp] theorem State.putCrew_loads (s : State) (c : Nat) (cr : Crew) : (s.putCrew c cr).loads = s.loads := rfl
@[simp] theorem State.putCrew_writes (s : State) (c : Nat) (cr : Crew) : (s.putCrew c cr).writes = s.writes := rfl
@[simp] theorem State.putCrew_marks (s : State) (c : Nat) (cr : Crew) : (s.putCrew c cr).marks = s.marks := rfl
@[simp] theorem State.putCrew_hbmq (s : State) (c : Nat) (cr : Crew) : (s.putCrew c cr).hbmq = s.hbmq := rfl
@[simp] theorem State.putCrew_wants (s : State) (c : Nat) (cr : Crew) : (s.putCrew c cr).wants = s.wants := rfl
@[simp] theorem State.putCrew_grants (s : State) (c : Nat) (cr : Crew) : (s.putCrew c cr).grants = s.grants := rfl
@[simp] theorem State.putCrew_cards (s : State) (c : Nat) (cr : Crew) : (s.putCrew c cr).cards = s.cards := rfl
@[simp] theorem State.putCrew_gens (s : State) (c : Nat) (cr : Crew) : (s.putCrew c cr).gens = s.gens := rfl
@[simp] theorem State.putCrew_strays (s : State) (c : Nat) (cr : Crew) : (s.putCrew c cr).strays = s.strays := rfl
@[simp] theorem State.putCrew_l1 (s : State) (c : Nat) (cr : Crew) : (s.putCrew c cr).l1 = s.l1 := rfl
@[simp] theorem State.putCrew_tlb (s : State) (c : Nat) (cr : Crew) : (s.putCrew c cr).tlb = s.tlb := rfl
@[simp] theorem State.putCrew_icache (s : State) (c : Nat) (cr : Crew) : (s.putCrew c cr).icache = s.icache := rfl
@[simp] theorem State.putCrew_clusters (s : State) (c : Nat) (cr : Crew) : (s.putCrew c cr).clusters = s.clusters := rfl
@[simp] theorem State.putCrew_buckets (s : State) (c : Nat) (cr : Crew) : (s.putCrew c cr).buckets = s.buckets := rfl
@[simp] theorem State.putCrew_served (s : State) (c : Nat) (cr : Crew) : (s.putCrew c cr).served = s.served := rfl
@[simp] theorem State.putCrew_cardServed (s : State) (c : Nat) (cr : Crew) : (s.putCrew c cr).cardServed = s.cardServed := rfl
@[simp] theorem State.putCrew_walkers (s : State) (c : Nat) (cr : Crew) : (s.putCrew c cr).walkers = s.walkers := rfl
@[simp] theorem State.putCrew_parts (s : State) (c : Nat) (cr : Crew) : (s.putCrew c cr).parts = s.parts := rfl
@[simp] theorem State.putCrew_funcs (s : State) (c : Nat) (cr : Crew) : (s.putCrew c cr).funcs = s.funcs := rfl
@[simp] theorem State.putCrew_msix (s : State) (c : Nat) (cr : Crew) : (s.putCrew c cr).msix = s.msix := rfl
@[simp] theorem State.putCrew_ports (s : State) (c : Nat) (cr : Crew) : (s.putCrew c cr).ports = s.ports := rfl
@[simp] theorem State.putCrew_routes (s : State) (c : Nat) (cr : Crew) : (s.putCrew c cr).routes = s.routes := rfl
@[simp] theorem State.putCrew_links (s : State) (c : Nat) (cr : Crew) : (s.putCrew c cr).links = s.links := rfl
@[simp] theorem State.putCrew_answers (s : State) (c : Nat) (cr : Crew) : (s.putCrew c cr).answers = s.answers := rfl
@[simp] theorem State.putCrew_answered (s : State) (c : Nat) (cr : Crew) : (s.putCrew c cr).answered = s.answered := rfl
@[simp] theorem State.putCrew_posted (s : State) (c : Nat) (cr : Crew) : (s.putCrew c cr).posted = s.posted := rfl
@[simp] theorem State.putCrew_expired (s : State) (c : Nat) (cr : Crew) : (s.putCrew c cr).expired = s.expired := rfl
@[simp] theorem State.putCrew_downs (s : State) (c : Nat) (cr : Crew) : (s.putCrew c cr).downs = s.downs := rfl
@[simp] theorem State.putCrew_parked (s : State) (c : Nat) (cr : Crew) : (s.putCrew c cr).parked = s.parked := rfl
@[simp] theorem State.putCrew_insts (s : State) (c : Nat) (cr : Crew) : (s.putCrew c cr).insts = s.insts := rfl
@[simp] theorem State.putCrew_lwriter (s : State) (c : Nat) (cr : Crew) : (s.putCrew c cr).lwriter = s.lwriter := rfl
@[simp] theorem State.putCrew_clean (s : State) (c : Nat) (cr : Crew) : (s.putCrew c cr).clean = s.clean := rfl
@[simp] theorem State.putCrew_accClean (s : State) (c : Nat) (cr : Crew) : (s.putCrew c cr).accClean = s.accClean := rfl
@[simp] theorem State.putCrew_veil (s : State) (c : Nat) (cr : Crew) : (s.putCrew c cr).veil = s.veil := rfl
@[simp] theorem State.putCrew_coreReset (s : State) (c : Nat) (cr : Crew) : (s.putCrew c cr).coreReset = s.coreReset := rfl
@[simp] theorem State.putCrew_cc (s : State) (c : Nat) (cr : Crew) : (s.putCrew c cr).cc = s.cc := rfl
@[simp] theorem State.putCrew_log (s : State) (c : Nat) (cr : Crew) : (s.putCrew c cr).log = s.log := rfl

@[simp] theorem State.onCrew_agenda (s : State) (c : Nat) (f : Crew → Crew) : (s.onCrew c f).agenda = s.agenda := by unfold State.onCrew; split <;> rfl
@[simp] theorem State.onCrew_fresh (s : State) (c : Nat) (f : Crew → Crew) : (s.onCrew c f).fresh = s.fresh := by unfold State.onCrew; split <;> rfl
@[simp] theorem State.onCrew_cur (s : State) (c : Nat) (f : Crew → Crew) : (s.onCrew c f).cur = s.cur := by unfold State.onCrew; split <;> rfl
@[simp] theorem State.onCrew_awake (s : State) (c : Nat) (f : Crew → Crew) : (s.onCrew c f).awake = s.awake := by unfold State.onCrew; split <;> rfl
@[simp] theorem State.onCrew_taken (s : State) (c : Nat) (f : Crew → Crew) : (s.onCrew c f).taken = s.taken := by unfold State.onCrew; split <;> rfl
@[simp] theorem State.onCrew_pipes (s : State) (c : Nat) (f : Crew → Crew) : (s.onCrew c f).pipes = s.pipes := by unfold State.onCrew; split <;> rfl
@[simp] theorem State.onCrew_yielded (s : State) (c : Nat) (f : Crew → Crew) : (s.onCrew c f).yielded = s.yielded := by unfold State.onCrew; split <;> rfl
@[simp] theorem State.onCrew_rests (s : State) (c : Nat) (f : Crew → Crew) : (s.onCrew c f).rests = s.rests := by unfold State.onCrew; split <;> rfl
@[simp] theorem State.onCrew_lag (s : State) (c : Nat) (f : Crew → Crew) : (s.onCrew c f).lag = s.lag := by unfold State.onCrew; split <;> rfl
@[simp] theorem State.onCrew_nextId (s : State) (c : Nat) (f : Crew → Crew) : (s.onCrew c f).nextId = s.nextId := by unfold State.onCrew; split <;> rfl
@[simp] theorem State.onCrew_fab (s : State) (c : Nat) (f : Crew → Crew) : (s.onCrew c f).fab = s.fab := by unfold State.onCrew; split <;> rfl
@[simp] theorem State.onCrew_powered (s : State) (c : Nat) (f : Crew → Crew) : (s.onCrew c f).powered = s.powered := by unfold State.onCrew; split <;> rfl
@[simp] theorem State.onCrew_regs (s : State) (c : Nat) (f : Crew → Crew) : (s.onCrew c f).regs = s.regs := by unfold State.onCrew; split <;> rfl
@[simp] theorem State.onCrew_home (s : State) (c : Nat) (f : Crew → Crew) : (s.onCrew c f).home = s.home := by unfold State.onCrew; split <;> rfl
@[simp] theorem State.onCrew_msc (s : State) (c : Nat) (f : Crew → Crew) : (s.onCrew c f).msc = s.msc := by unfold State.onCrew; split <;> rfl
@[simp] theorem State.onCrew_parity (s : State) (c : Nat) (f : Crew → Crew) : (s.onCrew c f).parity = s.parity := by unfold State.onCrew; split <;> rfl
@[simp] theorem State.onCrew_deltas (s : State) (c : Nat) (f : Crew → Crew) : (s.onCrew c f).deltas = s.deltas := by unfold State.onCrew; split <;> rfl
@[simp] theorem State.onCrew_poison (s : State) (c : Nat) (f : Crew → Crew) : (s.onCrew c f).poison = s.poison := by unfold State.onCrew; split <;> rfl
@[simp] theorem State.onCrew_checks (s : State) (c : Nat) (f : Crew → Crew) : (s.onCrew c f).checks = s.checks := by unfold State.onCrew; split <;> rfl
@[simp] theorem State.onCrew_uncorr (s : State) (c : Nat) (f : Crew → Crew) : (s.onCrew c f).uncorr = s.uncorr := by unfold State.onCrew; split <;> rfl
@[simp] theorem State.onCrew_parityBad (s : State) (c : Nat) (f : Crew → Crew) : (s.onCrew c f).parityBad = s.parityBad := by unfold State.onCrew; split <;> rfl
@[simp] theorem State.onCrew_parityChecks (s : State) (c : Nat) (f : Crew → Crew) : (s.onCrew c f).parityChecks = s.parityChecks := by unfold State.onCrew; split <;> rfl
@[simp] theorem State.onCrew_scrubs (s : State) (c : Nat) (f : Crew → Crew) : (s.onCrew c f).scrubs = s.scrubs := by unfold State.onCrew; split <;> rfl
@[simp] theorem State.onCrew_owners (s : State) (c : Nat) (f : Crew → Crew) : (s.onCrew c f).owners = s.owners := by unfold State.onCrew; split <;> rfl
@[simp] theorem State.onCrew_lost (s : State) (c : Nat) (f : Crew → Crew) : (s.onCrew c f).lost = s.lost := by unfold State.onCrew; split <;> rfl
@[simp] theorem State.onCrew_loads (s : State) (c : Nat) (f : Crew → Crew) : (s.onCrew c f).loads = s.loads := by unfold State.onCrew; split <;> rfl
@[simp] theorem State.onCrew_writes (s : State) (c : Nat) (f : Crew → Crew) : (s.onCrew c f).writes = s.writes := by unfold State.onCrew; split <;> rfl
@[simp] theorem State.onCrew_marks (s : State) (c : Nat) (f : Crew → Crew) : (s.onCrew c f).marks = s.marks := by unfold State.onCrew; split <;> rfl
@[simp] theorem State.onCrew_hbmq (s : State) (c : Nat) (f : Crew → Crew) : (s.onCrew c f).hbmq = s.hbmq := by unfold State.onCrew; split <;> rfl
@[simp] theorem State.onCrew_wants (s : State) (c : Nat) (f : Crew → Crew) : (s.onCrew c f).wants = s.wants := by unfold State.onCrew; split <;> rfl
@[simp] theorem State.onCrew_grants (s : State) (c : Nat) (f : Crew → Crew) : (s.onCrew c f).grants = s.grants := by unfold State.onCrew; split <;> rfl
@[simp] theorem State.onCrew_cards (s : State) (c : Nat) (f : Crew → Crew) : (s.onCrew c f).cards = s.cards := by unfold State.onCrew; split <;> rfl
@[simp] theorem State.onCrew_gens (s : State) (c : Nat) (f : Crew → Crew) : (s.onCrew c f).gens = s.gens := by unfold State.onCrew; split <;> rfl
@[simp] theorem State.onCrew_strays (s : State) (c : Nat) (f : Crew → Crew) : (s.onCrew c f).strays = s.strays := by unfold State.onCrew; split <;> rfl
@[simp] theorem State.onCrew_l1 (s : State) (c : Nat) (f : Crew → Crew) : (s.onCrew c f).l1 = s.l1 := by unfold State.onCrew; split <;> rfl
@[simp] theorem State.onCrew_tlb (s : State) (c : Nat) (f : Crew → Crew) : (s.onCrew c f).tlb = s.tlb := by unfold State.onCrew; split <;> rfl
@[simp] theorem State.onCrew_icache (s : State) (c : Nat) (f : Crew → Crew) : (s.onCrew c f).icache = s.icache := by unfold State.onCrew; split <;> rfl
@[simp] theorem State.onCrew_clusters (s : State) (c : Nat) (f : Crew → Crew) : (s.onCrew c f).clusters = s.clusters := by unfold State.onCrew; split <;> rfl
@[simp] theorem State.onCrew_buckets (s : State) (c : Nat) (f : Crew → Crew) : (s.onCrew c f).buckets = s.buckets := by unfold State.onCrew; split <;> rfl
@[simp] theorem State.onCrew_served (s : State) (c : Nat) (f : Crew → Crew) : (s.onCrew c f).served = s.served := by unfold State.onCrew; split <;> rfl
@[simp] theorem State.onCrew_cardServed (s : State) (c : Nat) (f : Crew → Crew) : (s.onCrew c f).cardServed = s.cardServed := by unfold State.onCrew; split <;> rfl
@[simp] theorem State.onCrew_walkers (s : State) (c : Nat) (f : Crew → Crew) : (s.onCrew c f).walkers = s.walkers := by unfold State.onCrew; split <;> rfl
@[simp] theorem State.onCrew_parts (s : State) (c : Nat) (f : Crew → Crew) : (s.onCrew c f).parts = s.parts := by unfold State.onCrew; split <;> rfl
@[simp] theorem State.onCrew_funcs (s : State) (c : Nat) (f : Crew → Crew) : (s.onCrew c f).funcs = s.funcs := by unfold State.onCrew; split <;> rfl
@[simp] theorem State.onCrew_msix (s : State) (c : Nat) (f : Crew → Crew) : (s.onCrew c f).msix = s.msix := by unfold State.onCrew; split <;> rfl
@[simp] theorem State.onCrew_ports (s : State) (c : Nat) (f : Crew → Crew) : (s.onCrew c f).ports = s.ports := by unfold State.onCrew; split <;> rfl
@[simp] theorem State.onCrew_routes (s : State) (c : Nat) (f : Crew → Crew) : (s.onCrew c f).routes = s.routes := by unfold State.onCrew; split <;> rfl
@[simp] theorem State.onCrew_links (s : State) (c : Nat) (f : Crew → Crew) : (s.onCrew c f).links = s.links := by unfold State.onCrew; split <;> rfl
@[simp] theorem State.onCrew_answers (s : State) (c : Nat) (f : Crew → Crew) : (s.onCrew c f).answers = s.answers := by unfold State.onCrew; split <;> rfl
@[simp] theorem State.onCrew_answered (s : State) (c : Nat) (f : Crew → Crew) : (s.onCrew c f).answered = s.answered := by unfold State.onCrew; split <;> rfl
@[simp] theorem State.onCrew_posted (s : State) (c : Nat) (f : Crew → Crew) : (s.onCrew c f).posted = s.posted := by unfold State.onCrew; split <;> rfl
@[simp] theorem State.onCrew_expired (s : State) (c : Nat) (f : Crew → Crew) : (s.onCrew c f).expired = s.expired := by unfold State.onCrew; split <;> rfl
@[simp] theorem State.onCrew_downs (s : State) (c : Nat) (f : Crew → Crew) : (s.onCrew c f).downs = s.downs := by unfold State.onCrew; split <;> rfl
@[simp] theorem State.onCrew_parked (s : State) (c : Nat) (f : Crew → Crew) : (s.onCrew c f).parked = s.parked := by unfold State.onCrew; split <;> rfl
@[simp] theorem State.onCrew_insts (s : State) (c : Nat) (f : Crew → Crew) : (s.onCrew c f).insts = s.insts := by unfold State.onCrew; split <;> rfl
@[simp] theorem State.onCrew_lwriter (s : State) (c : Nat) (f : Crew → Crew) : (s.onCrew c f).lwriter = s.lwriter := by unfold State.onCrew; split <;> rfl
@[simp] theorem State.onCrew_clean (s : State) (c : Nat) (f : Crew → Crew) : (s.onCrew c f).clean = s.clean := by unfold State.onCrew; split <;> rfl
@[simp] theorem State.onCrew_accClean (s : State) (c : Nat) (f : Crew → Crew) : (s.onCrew c f).accClean = s.accClean := by unfold State.onCrew; split <;> rfl
@[simp] theorem State.onCrew_veil (s : State) (c : Nat) (f : Crew → Crew) : (s.onCrew c f).veil = s.veil := by unfold State.onCrew; split <;> rfl
@[simp] theorem State.onCrew_coreReset (s : State) (c : Nat) (f : Crew → Crew) : (s.onCrew c f).coreReset = s.coreReset := by unfold State.onCrew; split <;> rfl
@[simp] theorem State.onCrew_cc (s : State) (c : Nat) (f : Crew → Crew) : (s.onCrew c f).cc = s.cc := by unfold State.onCrew; split <;> rfl
@[simp] theorem State.onCrew_log (s : State) (c : Nat) (f : Crew → Crew) : (s.onCrew c f).log = s.log := by unfold State.onCrew; split <;> rfl

@[simp] theorem State.putThread_agenda (s : State) (r : ThreadRef) (t : Thread) : (s.putThread r t).agenda = s.agenda := by unfold State.putThread; simp
@[simp] theorem State.putThread_fresh (s : State) (r : ThreadRef) (t : Thread) : (s.putThread r t).fresh = s.fresh := by unfold State.putThread; simp
@[simp] theorem State.putThread_cur (s : State) (r : ThreadRef) (t : Thread) : (s.putThread r t).cur = s.cur := by unfold State.putThread; simp
@[simp] theorem State.putThread_awake (s : State) (r : ThreadRef) (t : Thread) : (s.putThread r t).awake = s.awake := by unfold State.putThread; simp
@[simp] theorem State.putThread_taken (s : State) (r : ThreadRef) (t : Thread) : (s.putThread r t).taken = s.taken := by unfold State.putThread; simp
@[simp] theorem State.putThread_pipes (s : State) (r : ThreadRef) (t : Thread) : (s.putThread r t).pipes = s.pipes := by unfold State.putThread; simp
@[simp] theorem State.putThread_yielded (s : State) (r : ThreadRef) (t : Thread) : (s.putThread r t).yielded = s.yielded := by unfold State.putThread; simp
@[simp] theorem State.putThread_rests (s : State) (r : ThreadRef) (t : Thread) : (s.putThread r t).rests = s.rests := by unfold State.putThread; simp
@[simp] theorem State.putThread_lag (s : State) (r : ThreadRef) (t : Thread) : (s.putThread r t).lag = s.lag := by unfold State.putThread; simp
@[simp] theorem State.putThread_nextId (s : State) (r : ThreadRef) (t : Thread) : (s.putThread r t).nextId = s.nextId := by unfold State.putThread; simp
@[simp] theorem State.putThread_fab (s : State) (r : ThreadRef) (t : Thread) : (s.putThread r t).fab = s.fab := by unfold State.putThread; simp
@[simp] theorem State.putThread_powered (s : State) (r : ThreadRef) (t : Thread) : (s.putThread r t).powered = s.powered := by unfold State.putThread; simp
@[simp] theorem State.putThread_regs (s : State) (r : ThreadRef) (t : Thread) : (s.putThread r t).regs = s.regs := by unfold State.putThread; simp
@[simp] theorem State.putThread_home (s : State) (r : ThreadRef) (t : Thread) : (s.putThread r t).home = s.home := by unfold State.putThread; simp
@[simp] theorem State.putThread_msc (s : State) (r : ThreadRef) (t : Thread) : (s.putThread r t).msc = s.msc := by unfold State.putThread; simp
@[simp] theorem State.putThread_parity (s : State) (r : ThreadRef) (t : Thread) : (s.putThread r t).parity = s.parity := by unfold State.putThread; simp
@[simp] theorem State.putThread_deltas (s : State) (r : ThreadRef) (t : Thread) : (s.putThread r t).deltas = s.deltas := by unfold State.putThread; simp
@[simp] theorem State.putThread_poison (s : State) (r : ThreadRef) (t : Thread) : (s.putThread r t).poison = s.poison := by unfold State.putThread; simp
@[simp] theorem State.putThread_checks (s : State) (r : ThreadRef) (t : Thread) : (s.putThread r t).checks = s.checks := by unfold State.putThread; simp
@[simp] theorem State.putThread_uncorr (s : State) (r : ThreadRef) (t : Thread) : (s.putThread r t).uncorr = s.uncorr := by unfold State.putThread; simp
@[simp] theorem State.putThread_parityBad (s : State) (r : ThreadRef) (t : Thread) : (s.putThread r t).parityBad = s.parityBad := by unfold State.putThread; simp
@[simp] theorem State.putThread_parityChecks (s : State) (r : ThreadRef) (t : Thread) : (s.putThread r t).parityChecks = s.parityChecks := by unfold State.putThread; simp
@[simp] theorem State.putThread_scrubs (s : State) (r : ThreadRef) (t : Thread) : (s.putThread r t).scrubs = s.scrubs := by unfold State.putThread; simp
@[simp] theorem State.putThread_owners (s : State) (r : ThreadRef) (t : Thread) : (s.putThread r t).owners = s.owners := by unfold State.putThread; simp
@[simp] theorem State.putThread_lost (s : State) (r : ThreadRef) (t : Thread) : (s.putThread r t).lost = s.lost := by unfold State.putThread; simp
@[simp] theorem State.putThread_loads (s : State) (r : ThreadRef) (t : Thread) : (s.putThread r t).loads = s.loads := by unfold State.putThread; simp
@[simp] theorem State.putThread_writes (s : State) (r : ThreadRef) (t : Thread) : (s.putThread r t).writes = s.writes := by unfold State.putThread; simp
@[simp] theorem State.putThread_marks (s : State) (r : ThreadRef) (t : Thread) : (s.putThread r t).marks = s.marks := by unfold State.putThread; simp
@[simp] theorem State.putThread_hbmq (s : State) (r : ThreadRef) (t : Thread) : (s.putThread r t).hbmq = s.hbmq := by unfold State.putThread; simp
@[simp] theorem State.putThread_wants (s : State) (r : ThreadRef) (t : Thread) : (s.putThread r t).wants = s.wants := by unfold State.putThread; simp
@[simp] theorem State.putThread_grants (s : State) (r : ThreadRef) (t : Thread) : (s.putThread r t).grants = s.grants := by unfold State.putThread; simp
@[simp] theorem State.putThread_cards (s : State) (r : ThreadRef) (t : Thread) : (s.putThread r t).cards = s.cards := by unfold State.putThread; simp
@[simp] theorem State.putThread_gens (s : State) (r : ThreadRef) (t : Thread) : (s.putThread r t).gens = s.gens := by unfold State.putThread; simp
@[simp] theorem State.putThread_strays (s : State) (r : ThreadRef) (t : Thread) : (s.putThread r t).strays = s.strays := by unfold State.putThread; simp
@[simp] theorem State.putThread_l1 (s : State) (r : ThreadRef) (t : Thread) : (s.putThread r t).l1 = s.l1 := by unfold State.putThread; simp
@[simp] theorem State.putThread_tlb (s : State) (r : ThreadRef) (t : Thread) : (s.putThread r t).tlb = s.tlb := by unfold State.putThread; simp
@[simp] theorem State.putThread_icache (s : State) (r : ThreadRef) (t : Thread) : (s.putThread r t).icache = s.icache := by unfold State.putThread; simp
@[simp] theorem State.putThread_clusters (s : State) (r : ThreadRef) (t : Thread) : (s.putThread r t).clusters = s.clusters := by unfold State.putThread; simp
@[simp] theorem State.putThread_buckets (s : State) (r : ThreadRef) (t : Thread) : (s.putThread r t).buckets = s.buckets := by unfold State.putThread; simp
@[simp] theorem State.putThread_served (s : State) (r : ThreadRef) (t : Thread) : (s.putThread r t).served = s.served := by unfold State.putThread; simp
@[simp] theorem State.putThread_cardServed (s : State) (r : ThreadRef) (t : Thread) : (s.putThread r t).cardServed = s.cardServed := by unfold State.putThread; simp
@[simp] theorem State.putThread_walkers (s : State) (r : ThreadRef) (t : Thread) : (s.putThread r t).walkers = s.walkers := by unfold State.putThread; simp
@[simp] theorem State.putThread_parts (s : State) (r : ThreadRef) (t : Thread) : (s.putThread r t).parts = s.parts := by unfold State.putThread; simp
@[simp] theorem State.putThread_funcs (s : State) (r : ThreadRef) (t : Thread) : (s.putThread r t).funcs = s.funcs := by unfold State.putThread; simp
@[simp] theorem State.putThread_msix (s : State) (r : ThreadRef) (t : Thread) : (s.putThread r t).msix = s.msix := by unfold State.putThread; simp
@[simp] theorem State.putThread_ports (s : State) (r : ThreadRef) (t : Thread) : (s.putThread r t).ports = s.ports := by unfold State.putThread; simp
@[simp] theorem State.putThread_routes (s : State) (r : ThreadRef) (t : Thread) : (s.putThread r t).routes = s.routes := by unfold State.putThread; simp
@[simp] theorem State.putThread_links (s : State) (r : ThreadRef) (t : Thread) : (s.putThread r t).links = s.links := by unfold State.putThread; simp
@[simp] theorem State.putThread_answers (s : State) (r : ThreadRef) (t : Thread) : (s.putThread r t).answers = s.answers := by unfold State.putThread; simp
@[simp] theorem State.putThread_answered (s : State) (r : ThreadRef) (t : Thread) : (s.putThread r t).answered = s.answered := by unfold State.putThread; simp
@[simp] theorem State.putThread_posted (s : State) (r : ThreadRef) (t : Thread) : (s.putThread r t).posted = s.posted := by unfold State.putThread; simp
@[simp] theorem State.putThread_expired (s : State) (r : ThreadRef) (t : Thread) : (s.putThread r t).expired = s.expired := by unfold State.putThread; simp
@[simp] theorem State.putThread_downs (s : State) (r : ThreadRef) (t : Thread) : (s.putThread r t).downs = s.downs := by unfold State.putThread; simp
@[simp] theorem State.putThread_parked (s : State) (r : ThreadRef) (t : Thread) : (s.putThread r t).parked = s.parked := by unfold State.putThread; simp
@[simp] theorem State.putThread_insts (s : State) (r : ThreadRef) (t : Thread) : (s.putThread r t).insts = s.insts := by unfold State.putThread; simp
@[simp] theorem State.putThread_lwriter (s : State) (r : ThreadRef) (t : Thread) : (s.putThread r t).lwriter = s.lwriter := by unfold State.putThread; simp
@[simp] theorem State.putThread_clean (s : State) (r : ThreadRef) (t : Thread) : (s.putThread r t).clean = s.clean := by unfold State.putThread; simp
@[simp] theorem State.putThread_accClean (s : State) (r : ThreadRef) (t : Thread) : (s.putThread r t).accClean = s.accClean := by unfold State.putThread; simp
@[simp] theorem State.putThread_veil (s : State) (r : ThreadRef) (t : Thread) : (s.putThread r t).veil = s.veil := by unfold State.putThread; simp
@[simp] theorem State.putThread_coreReset (s : State) (r : ThreadRef) (t : Thread) : (s.putThread r t).coreReset = s.coreReset := by unfold State.putThread; simp
@[simp] theorem State.putThread_cc (s : State) (r : ThreadRef) (t : Thread) : (s.putThread r t).cc = s.cc := by unfold State.putThread; simp
@[simp] theorem State.putThread_log (s : State) (r : ThreadRef) (t : Thread) : (s.putThread r t).log = s.log := by unfold State.putThread; simp

@[simp] theorem State.onThread_agenda (s : State) (r : ThreadRef) (f : Thread → Thread) : (s.onThread r f).agenda = s.agenda := by unfold State.onThread; split <;> simp
@[simp] theorem State.onThread_fresh (s : State) (r : ThreadRef) (f : Thread → Thread) : (s.onThread r f).fresh = s.fresh := by unfold State.onThread; split <;> simp
@[simp] theorem State.onThread_cur (s : State) (r : ThreadRef) (f : Thread → Thread) : (s.onThread r f).cur = s.cur := by unfold State.onThread; split <;> simp
@[simp] theorem State.onThread_awake (s : State) (r : ThreadRef) (f : Thread → Thread) : (s.onThread r f).awake = s.awake := by unfold State.onThread; split <;> simp
@[simp] theorem State.onThread_taken (s : State) (r : ThreadRef) (f : Thread → Thread) : (s.onThread r f).taken = s.taken := by unfold State.onThread; split <;> simp
@[simp] theorem State.onThread_pipes (s : State) (r : ThreadRef) (f : Thread → Thread) : (s.onThread r f).pipes = s.pipes := by unfold State.onThread; split <;> simp
@[simp] theorem State.onThread_yielded (s : State) (r : ThreadRef) (f : Thread → Thread) : (s.onThread r f).yielded = s.yielded := by unfold State.onThread; split <;> simp
@[simp] theorem State.onThread_rests (s : State) (r : ThreadRef) (f : Thread → Thread) : (s.onThread r f).rests = s.rests := by unfold State.onThread; split <;> simp
@[simp] theorem State.onThread_lag (s : State) (r : ThreadRef) (f : Thread → Thread) : (s.onThread r f).lag = s.lag := by unfold State.onThread; split <;> simp
@[simp] theorem State.onThread_nextId (s : State) (r : ThreadRef) (f : Thread → Thread) : (s.onThread r f).nextId = s.nextId := by unfold State.onThread; split <;> simp
@[simp] theorem State.onThread_fab (s : State) (r : ThreadRef) (f : Thread → Thread) : (s.onThread r f).fab = s.fab := by unfold State.onThread; split <;> simp
@[simp] theorem State.onThread_powered (s : State) (r : ThreadRef) (f : Thread → Thread) : (s.onThread r f).powered = s.powered := by unfold State.onThread; split <;> simp
@[simp] theorem State.onThread_regs (s : State) (r : ThreadRef) (f : Thread → Thread) : (s.onThread r f).regs = s.regs := by unfold State.onThread; split <;> simp
@[simp] theorem State.onThread_home (s : State) (r : ThreadRef) (f : Thread → Thread) : (s.onThread r f).home = s.home := by unfold State.onThread; split <;> simp
@[simp] theorem State.onThread_msc (s : State) (r : ThreadRef) (f : Thread → Thread) : (s.onThread r f).msc = s.msc := by unfold State.onThread; split <;> simp
@[simp] theorem State.onThread_parity (s : State) (r : ThreadRef) (f : Thread → Thread) : (s.onThread r f).parity = s.parity := by unfold State.onThread; split <;> simp
@[simp] theorem State.onThread_deltas (s : State) (r : ThreadRef) (f : Thread → Thread) : (s.onThread r f).deltas = s.deltas := by unfold State.onThread; split <;> simp
@[simp] theorem State.onThread_poison (s : State) (r : ThreadRef) (f : Thread → Thread) : (s.onThread r f).poison = s.poison := by unfold State.onThread; split <;> simp
@[simp] theorem State.onThread_checks (s : State) (r : ThreadRef) (f : Thread → Thread) : (s.onThread r f).checks = s.checks := by unfold State.onThread; split <;> simp
@[simp] theorem State.onThread_uncorr (s : State) (r : ThreadRef) (f : Thread → Thread) : (s.onThread r f).uncorr = s.uncorr := by unfold State.onThread; split <;> simp
@[simp] theorem State.onThread_parityBad (s : State) (r : ThreadRef) (f : Thread → Thread) : (s.onThread r f).parityBad = s.parityBad := by unfold State.onThread; split <;> simp
@[simp] theorem State.onThread_parityChecks (s : State) (r : ThreadRef) (f : Thread → Thread) : (s.onThread r f).parityChecks = s.parityChecks := by unfold State.onThread; split <;> simp
@[simp] theorem State.onThread_scrubs (s : State) (r : ThreadRef) (f : Thread → Thread) : (s.onThread r f).scrubs = s.scrubs := by unfold State.onThread; split <;> simp
@[simp] theorem State.onThread_owners (s : State) (r : ThreadRef) (f : Thread → Thread) : (s.onThread r f).owners = s.owners := by unfold State.onThread; split <;> simp
@[simp] theorem State.onThread_lost (s : State) (r : ThreadRef) (f : Thread → Thread) : (s.onThread r f).lost = s.lost := by unfold State.onThread; split <;> simp
@[simp] theorem State.onThread_loads (s : State) (r : ThreadRef) (f : Thread → Thread) : (s.onThread r f).loads = s.loads := by unfold State.onThread; split <;> simp
@[simp] theorem State.onThread_writes (s : State) (r : ThreadRef) (f : Thread → Thread) : (s.onThread r f).writes = s.writes := by unfold State.onThread; split <;> simp
@[simp] theorem State.onThread_marks (s : State) (r : ThreadRef) (f : Thread → Thread) : (s.onThread r f).marks = s.marks := by unfold State.onThread; split <;> simp
@[simp] theorem State.onThread_hbmq (s : State) (r : ThreadRef) (f : Thread → Thread) : (s.onThread r f).hbmq = s.hbmq := by unfold State.onThread; split <;> simp
@[simp] theorem State.onThread_wants (s : State) (r : ThreadRef) (f : Thread → Thread) : (s.onThread r f).wants = s.wants := by unfold State.onThread; split <;> simp
@[simp] theorem State.onThread_grants (s : State) (r : ThreadRef) (f : Thread → Thread) : (s.onThread r f).grants = s.grants := by unfold State.onThread; split <;> simp
@[simp] theorem State.onThread_cards (s : State) (r : ThreadRef) (f : Thread → Thread) : (s.onThread r f).cards = s.cards := by unfold State.onThread; split <;> simp
@[simp] theorem State.onThread_gens (s : State) (r : ThreadRef) (f : Thread → Thread) : (s.onThread r f).gens = s.gens := by unfold State.onThread; split <;> simp
@[simp] theorem State.onThread_strays (s : State) (r : ThreadRef) (f : Thread → Thread) : (s.onThread r f).strays = s.strays := by unfold State.onThread; split <;> simp
@[simp] theorem State.onThread_l1 (s : State) (r : ThreadRef) (f : Thread → Thread) : (s.onThread r f).l1 = s.l1 := by unfold State.onThread; split <;> simp
@[simp] theorem State.onThread_tlb (s : State) (r : ThreadRef) (f : Thread → Thread) : (s.onThread r f).tlb = s.tlb := by unfold State.onThread; split <;> simp
@[simp] theorem State.onThread_icache (s : State) (r : ThreadRef) (f : Thread → Thread) : (s.onThread r f).icache = s.icache := by unfold State.onThread; split <;> simp
@[simp] theorem State.onThread_clusters (s : State) (r : ThreadRef) (f : Thread → Thread) : (s.onThread r f).clusters = s.clusters := by unfold State.onThread; split <;> simp
@[simp] theorem State.onThread_buckets (s : State) (r : ThreadRef) (f : Thread → Thread) : (s.onThread r f).buckets = s.buckets := by unfold State.onThread; split <;> simp
@[simp] theorem State.onThread_served (s : State) (r : ThreadRef) (f : Thread → Thread) : (s.onThread r f).served = s.served := by unfold State.onThread; split <;> simp
@[simp] theorem State.onThread_cardServed (s : State) (r : ThreadRef) (f : Thread → Thread) : (s.onThread r f).cardServed = s.cardServed := by unfold State.onThread; split <;> simp
@[simp] theorem State.onThread_walkers (s : State) (r : ThreadRef) (f : Thread → Thread) : (s.onThread r f).walkers = s.walkers := by unfold State.onThread; split <;> simp
@[simp] theorem State.onThread_parts (s : State) (r : ThreadRef) (f : Thread → Thread) : (s.onThread r f).parts = s.parts := by unfold State.onThread; split <;> simp
@[simp] theorem State.onThread_funcs (s : State) (r : ThreadRef) (f : Thread → Thread) : (s.onThread r f).funcs = s.funcs := by unfold State.onThread; split <;> simp
@[simp] theorem State.onThread_msix (s : State) (r : ThreadRef) (f : Thread → Thread) : (s.onThread r f).msix = s.msix := by unfold State.onThread; split <;> simp
@[simp] theorem State.onThread_ports (s : State) (r : ThreadRef) (f : Thread → Thread) : (s.onThread r f).ports = s.ports := by unfold State.onThread; split <;> simp
@[simp] theorem State.onThread_routes (s : State) (r : ThreadRef) (f : Thread → Thread) : (s.onThread r f).routes = s.routes := by unfold State.onThread; split <;> simp
@[simp] theorem State.onThread_links (s : State) (r : ThreadRef) (f : Thread → Thread) : (s.onThread r f).links = s.links := by unfold State.onThread; split <;> simp
@[simp] theorem State.onThread_answers (s : State) (r : ThreadRef) (f : Thread → Thread) : (s.onThread r f).answers = s.answers := by unfold State.onThread; split <;> simp
@[simp] theorem State.onThread_answered (s : State) (r : ThreadRef) (f : Thread → Thread) : (s.onThread r f).answered = s.answered := by unfold State.onThread; split <;> simp
@[simp] theorem State.onThread_posted (s : State) (r : ThreadRef) (f : Thread → Thread) : (s.onThread r f).posted = s.posted := by unfold State.onThread; split <;> simp
@[simp] theorem State.onThread_expired (s : State) (r : ThreadRef) (f : Thread → Thread) : (s.onThread r f).expired = s.expired := by unfold State.onThread; split <;> simp
@[simp] theorem State.onThread_downs (s : State) (r : ThreadRef) (f : Thread → Thread) : (s.onThread r f).downs = s.downs := by unfold State.onThread; split <;> simp
@[simp] theorem State.onThread_parked (s : State) (r : ThreadRef) (f : Thread → Thread) : (s.onThread r f).parked = s.parked := by unfold State.onThread; split <;> simp
@[simp] theorem State.onThread_insts (s : State) (r : ThreadRef) (f : Thread → Thread) : (s.onThread r f).insts = s.insts := by unfold State.onThread; split <;> simp
@[simp] theorem State.onThread_lwriter (s : State) (r : ThreadRef) (f : Thread → Thread) : (s.onThread r f).lwriter = s.lwriter := by unfold State.onThread; split <;> simp
@[simp] theorem State.onThread_clean (s : State) (r : ThreadRef) (f : Thread → Thread) : (s.onThread r f).clean = s.clean := by unfold State.onThread; split <;> simp
@[simp] theorem State.onThread_accClean (s : State) (r : ThreadRef) (f : Thread → Thread) : (s.onThread r f).accClean = s.accClean := by unfold State.onThread; split <;> simp
@[simp] theorem State.onThread_veil (s : State) (r : ThreadRef) (f : Thread → Thread) : (s.onThread r f).veil = s.veil := by unfold State.onThread; split <;> simp
@[simp] theorem State.onThread_coreReset (s : State) (r : ThreadRef) (f : Thread → Thread) : (s.onThread r f).coreReset = s.coreReset := by unfold State.onThread; split <;> simp
@[simp] theorem State.onThread_cc (s : State) (r : ThreadRef) (f : Thread → Thread) : (s.onThread r f).cc = s.cc := by unfold State.onThread; split <;> simp
@[simp] theorem State.onThread_log (s : State) (r : ThreadRef) (f : Thread → Thread) : (s.onThread r f).log = s.log := by unfold State.onThread; split <;> simp

@[simp] theorem State.onFunc_agenda (s : State) (fn : Nat) (f : FuncSt → FuncSt) : (s.onFunc fn f).agenda = s.agenda := rfl
@[simp] theorem State.onFunc_fresh (s : State) (fn : Nat) (f : FuncSt → FuncSt) : (s.onFunc fn f).fresh = s.fresh := rfl
@[simp] theorem State.onFunc_cur (s : State) (fn : Nat) (f : FuncSt → FuncSt) : (s.onFunc fn f).cur = s.cur := rfl
@[simp] theorem State.onFunc_awake (s : State) (fn : Nat) (f : FuncSt → FuncSt) : (s.onFunc fn f).awake = s.awake := rfl
@[simp] theorem State.onFunc_taken (s : State) (fn : Nat) (f : FuncSt → FuncSt) : (s.onFunc fn f).taken = s.taken := rfl
@[simp] theorem State.onFunc_pipes (s : State) (fn : Nat) (f : FuncSt → FuncSt) : (s.onFunc fn f).pipes = s.pipes := rfl
@[simp] theorem State.onFunc_yielded (s : State) (fn : Nat) (f : FuncSt → FuncSt) : (s.onFunc fn f).yielded = s.yielded := rfl
@[simp] theorem State.onFunc_rests (s : State) (fn : Nat) (f : FuncSt → FuncSt) : (s.onFunc fn f).rests = s.rests := rfl
@[simp] theorem State.onFunc_lag (s : State) (fn : Nat) (f : FuncSt → FuncSt) : (s.onFunc fn f).lag = s.lag := rfl
@[simp] theorem State.onFunc_nextId (s : State) (fn : Nat) (f : FuncSt → FuncSt) : (s.onFunc fn f).nextId = s.nextId := rfl
@[simp] theorem State.onFunc_fab (s : State) (fn : Nat) (f : FuncSt → FuncSt) : (s.onFunc fn f).fab = s.fab := rfl
@[simp] theorem State.onFunc_powered (s : State) (fn : Nat) (f : FuncSt → FuncSt) : (s.onFunc fn f).powered = s.powered := rfl
@[simp] theorem State.onFunc_regs (s : State) (fn : Nat) (f : FuncSt → FuncSt) : (s.onFunc fn f).regs = s.regs := rfl
@[simp] theorem State.onFunc_home (s : State) (fn : Nat) (f : FuncSt → FuncSt) : (s.onFunc fn f).home = s.home := rfl
@[simp] theorem State.onFunc_msc (s : State) (fn : Nat) (f : FuncSt → FuncSt) : (s.onFunc fn f).msc = s.msc := rfl
@[simp] theorem State.onFunc_parity (s : State) (fn : Nat) (f : FuncSt → FuncSt) : (s.onFunc fn f).parity = s.parity := rfl
@[simp] theorem State.onFunc_deltas (s : State) (fn : Nat) (f : FuncSt → FuncSt) : (s.onFunc fn f).deltas = s.deltas := rfl
@[simp] theorem State.onFunc_poison (s : State) (fn : Nat) (f : FuncSt → FuncSt) : (s.onFunc fn f).poison = s.poison := rfl
@[simp] theorem State.onFunc_checks (s : State) (fn : Nat) (f : FuncSt → FuncSt) : (s.onFunc fn f).checks = s.checks := rfl
@[simp] theorem State.onFunc_uncorr (s : State) (fn : Nat) (f : FuncSt → FuncSt) : (s.onFunc fn f).uncorr = s.uncorr := rfl
@[simp] theorem State.onFunc_parityBad (s : State) (fn : Nat) (f : FuncSt → FuncSt) : (s.onFunc fn f).parityBad = s.parityBad := rfl
@[simp] theorem State.onFunc_parityChecks (s : State) (fn : Nat) (f : FuncSt → FuncSt) : (s.onFunc fn f).parityChecks = s.parityChecks := rfl
@[simp] theorem State.onFunc_scrubs (s : State) (fn : Nat) (f : FuncSt → FuncSt) : (s.onFunc fn f).scrubs = s.scrubs := rfl
@[simp] theorem State.onFunc_owners (s : State) (fn : Nat) (f : FuncSt → FuncSt) : (s.onFunc fn f).owners = s.owners := rfl
@[simp] theorem State.onFunc_lost (s : State) (fn : Nat) (f : FuncSt → FuncSt) : (s.onFunc fn f).lost = s.lost := rfl
@[simp] theorem State.onFunc_loads (s : State) (fn : Nat) (f : FuncSt → FuncSt) : (s.onFunc fn f).loads = s.loads := rfl
@[simp] theorem State.onFunc_writes (s : State) (fn : Nat) (f : FuncSt → FuncSt) : (s.onFunc fn f).writes = s.writes := rfl
@[simp] theorem State.onFunc_marks (s : State) (fn : Nat) (f : FuncSt → FuncSt) : (s.onFunc fn f).marks = s.marks := rfl
@[simp] theorem State.onFunc_hbmq (s : State) (fn : Nat) (f : FuncSt → FuncSt) : (s.onFunc fn f).hbmq = s.hbmq := rfl
@[simp] theorem State.onFunc_wants (s : State) (fn : Nat) (f : FuncSt → FuncSt) : (s.onFunc fn f).wants = s.wants := rfl
@[simp] theorem State.onFunc_grants (s : State) (fn : Nat) (f : FuncSt → FuncSt) : (s.onFunc fn f).grants = s.grants := rfl
@[simp] theorem State.onFunc_crews (s : State) (fn : Nat) (f : FuncSt → FuncSt) : (s.onFunc fn f).crews = s.crews := rfl
@[simp] theorem State.onFunc_cards (s : State) (fn : Nat) (f : FuncSt → FuncSt) : (s.onFunc fn f).cards = s.cards := rfl
@[simp] theorem State.onFunc_gens (s : State) (fn : Nat) (f : FuncSt → FuncSt) : (s.onFunc fn f).gens = s.gens := rfl
@[simp] theorem State.onFunc_strays (s : State) (fn : Nat) (f : FuncSt → FuncSt) : (s.onFunc fn f).strays = s.strays := rfl
@[simp] theorem State.onFunc_l1 (s : State) (fn : Nat) (f : FuncSt → FuncSt) : (s.onFunc fn f).l1 = s.l1 := rfl
@[simp] theorem State.onFunc_tlb (s : State) (fn : Nat) (f : FuncSt → FuncSt) : (s.onFunc fn f).tlb = s.tlb := rfl
@[simp] theorem State.onFunc_icache (s : State) (fn : Nat) (f : FuncSt → FuncSt) : (s.onFunc fn f).icache = s.icache := rfl
@[simp] theorem State.onFunc_clusters (s : State) (fn : Nat) (f : FuncSt → FuncSt) : (s.onFunc fn f).clusters = s.clusters := rfl
@[simp] theorem State.onFunc_buckets (s : State) (fn : Nat) (f : FuncSt → FuncSt) : (s.onFunc fn f).buckets = s.buckets := rfl
@[simp] theorem State.onFunc_served (s : State) (fn : Nat) (f : FuncSt → FuncSt) : (s.onFunc fn f).served = s.served := rfl
@[simp] theorem State.onFunc_cardServed (s : State) (fn : Nat) (f : FuncSt → FuncSt) : (s.onFunc fn f).cardServed = s.cardServed := rfl
@[simp] theorem State.onFunc_walkers (s : State) (fn : Nat) (f : FuncSt → FuncSt) : (s.onFunc fn f).walkers = s.walkers := rfl
@[simp] theorem State.onFunc_parts (s : State) (fn : Nat) (f : FuncSt → FuncSt) : (s.onFunc fn f).parts = s.parts := rfl
@[simp] theorem State.onFunc_msix (s : State) (fn : Nat) (f : FuncSt → FuncSt) : (s.onFunc fn f).msix = s.msix := rfl
@[simp] theorem State.onFunc_ports (s : State) (fn : Nat) (f : FuncSt → FuncSt) : (s.onFunc fn f).ports = s.ports := rfl
@[simp] theorem State.onFunc_routes (s : State) (fn : Nat) (f : FuncSt → FuncSt) : (s.onFunc fn f).routes = s.routes := rfl
@[simp] theorem State.onFunc_links (s : State) (fn : Nat) (f : FuncSt → FuncSt) : (s.onFunc fn f).links = s.links := rfl
@[simp] theorem State.onFunc_answers (s : State) (fn : Nat) (f : FuncSt → FuncSt) : (s.onFunc fn f).answers = s.answers := rfl
@[simp] theorem State.onFunc_answered (s : State) (fn : Nat) (f : FuncSt → FuncSt) : (s.onFunc fn f).answered = s.answered := rfl
@[simp] theorem State.onFunc_posted (s : State) (fn : Nat) (f : FuncSt → FuncSt) : (s.onFunc fn f).posted = s.posted := rfl
@[simp] theorem State.onFunc_expired (s : State) (fn : Nat) (f : FuncSt → FuncSt) : (s.onFunc fn f).expired = s.expired := rfl
@[simp] theorem State.onFunc_downs (s : State) (fn : Nat) (f : FuncSt → FuncSt) : (s.onFunc fn f).downs = s.downs := rfl
@[simp] theorem State.onFunc_parked (s : State) (fn : Nat) (f : FuncSt → FuncSt) : (s.onFunc fn f).parked = s.parked := rfl
@[simp] theorem State.onFunc_insts (s : State) (fn : Nat) (f : FuncSt → FuncSt) : (s.onFunc fn f).insts = s.insts := rfl
@[simp] theorem State.onFunc_lwriter (s : State) (fn : Nat) (f : FuncSt → FuncSt) : (s.onFunc fn f).lwriter = s.lwriter := rfl
@[simp] theorem State.onFunc_clean (s : State) (fn : Nat) (f : FuncSt → FuncSt) : (s.onFunc fn f).clean = s.clean := rfl
@[simp] theorem State.onFunc_accClean (s : State) (fn : Nat) (f : FuncSt → FuncSt) : (s.onFunc fn f).accClean = s.accClean := rfl
@[simp] theorem State.onFunc_veil (s : State) (fn : Nat) (f : FuncSt → FuncSt) : (s.onFunc fn f).veil = s.veil := rfl
@[simp] theorem State.onFunc_coreReset (s : State) (fn : Nat) (f : FuncSt → FuncSt) : (s.onFunc fn f).coreReset = s.coreReset := rfl
@[simp] theorem State.onFunc_cc (s : State) (fn : Nat) (f : FuncSt → FuncSt) : (s.onFunc fn f).cc = s.cc := rfl
@[simp] theorem State.onFunc_log (s : State) (fn : Nat) (f : FuncSt → FuncSt) : (s.onFunc fn f).log = s.log := rfl

@[simp] theorem State.onPart_agenda (s : State) (p : Nat) (f : PartSt → PartSt) : (s.onPart p f).agenda = s.agenda := rfl
@[simp] theorem State.onPart_fresh (s : State) (p : Nat) (f : PartSt → PartSt) : (s.onPart p f).fresh = s.fresh := rfl
@[simp] theorem State.onPart_cur (s : State) (p : Nat) (f : PartSt → PartSt) : (s.onPart p f).cur = s.cur := rfl
@[simp] theorem State.onPart_awake (s : State) (p : Nat) (f : PartSt → PartSt) : (s.onPart p f).awake = s.awake := rfl
@[simp] theorem State.onPart_taken (s : State) (p : Nat) (f : PartSt → PartSt) : (s.onPart p f).taken = s.taken := rfl
@[simp] theorem State.onPart_pipes (s : State) (p : Nat) (f : PartSt → PartSt) : (s.onPart p f).pipes = s.pipes := rfl
@[simp] theorem State.onPart_yielded (s : State) (p : Nat) (f : PartSt → PartSt) : (s.onPart p f).yielded = s.yielded := rfl
@[simp] theorem State.onPart_rests (s : State) (p : Nat) (f : PartSt → PartSt) : (s.onPart p f).rests = s.rests := rfl
@[simp] theorem State.onPart_lag (s : State) (p : Nat) (f : PartSt → PartSt) : (s.onPart p f).lag = s.lag := rfl
@[simp] theorem State.onPart_nextId (s : State) (p : Nat) (f : PartSt → PartSt) : (s.onPart p f).nextId = s.nextId := rfl
@[simp] theorem State.onPart_fab (s : State) (p : Nat) (f : PartSt → PartSt) : (s.onPart p f).fab = s.fab := rfl
@[simp] theorem State.onPart_powered (s : State) (p : Nat) (f : PartSt → PartSt) : (s.onPart p f).powered = s.powered := rfl
@[simp] theorem State.onPart_regs (s : State) (p : Nat) (f : PartSt → PartSt) : (s.onPart p f).regs = s.regs := rfl
@[simp] theorem State.onPart_home (s : State) (p : Nat) (f : PartSt → PartSt) : (s.onPart p f).home = s.home := rfl
@[simp] theorem State.onPart_msc (s : State) (p : Nat) (f : PartSt → PartSt) : (s.onPart p f).msc = s.msc := rfl
@[simp] theorem State.onPart_parity (s : State) (p : Nat) (f : PartSt → PartSt) : (s.onPart p f).parity = s.parity := rfl
@[simp] theorem State.onPart_deltas (s : State) (p : Nat) (f : PartSt → PartSt) : (s.onPart p f).deltas = s.deltas := rfl
@[simp] theorem State.onPart_poison (s : State) (p : Nat) (f : PartSt → PartSt) : (s.onPart p f).poison = s.poison := rfl
@[simp] theorem State.onPart_checks (s : State) (p : Nat) (f : PartSt → PartSt) : (s.onPart p f).checks = s.checks := rfl
@[simp] theorem State.onPart_uncorr (s : State) (p : Nat) (f : PartSt → PartSt) : (s.onPart p f).uncorr = s.uncorr := rfl
@[simp] theorem State.onPart_parityBad (s : State) (p : Nat) (f : PartSt → PartSt) : (s.onPart p f).parityBad = s.parityBad := rfl
@[simp] theorem State.onPart_parityChecks (s : State) (p : Nat) (f : PartSt → PartSt) : (s.onPart p f).parityChecks = s.parityChecks := rfl
@[simp] theorem State.onPart_scrubs (s : State) (p : Nat) (f : PartSt → PartSt) : (s.onPart p f).scrubs = s.scrubs := rfl
@[simp] theorem State.onPart_owners (s : State) (p : Nat) (f : PartSt → PartSt) : (s.onPart p f).owners = s.owners := rfl
@[simp] theorem State.onPart_lost (s : State) (p : Nat) (f : PartSt → PartSt) : (s.onPart p f).lost = s.lost := rfl
@[simp] theorem State.onPart_loads (s : State) (p : Nat) (f : PartSt → PartSt) : (s.onPart p f).loads = s.loads := rfl
@[simp] theorem State.onPart_writes (s : State) (p : Nat) (f : PartSt → PartSt) : (s.onPart p f).writes = s.writes := rfl
@[simp] theorem State.onPart_marks (s : State) (p : Nat) (f : PartSt → PartSt) : (s.onPart p f).marks = s.marks := rfl
@[simp] theorem State.onPart_hbmq (s : State) (p : Nat) (f : PartSt → PartSt) : (s.onPart p f).hbmq = s.hbmq := rfl
@[simp] theorem State.onPart_wants (s : State) (p : Nat) (f : PartSt → PartSt) : (s.onPart p f).wants = s.wants := rfl
@[simp] theorem State.onPart_grants (s : State) (p : Nat) (f : PartSt → PartSt) : (s.onPart p f).grants = s.grants := rfl
@[simp] theorem State.onPart_crews (s : State) (p : Nat) (f : PartSt → PartSt) : (s.onPart p f).crews = s.crews := rfl
@[simp] theorem State.onPart_cards (s : State) (p : Nat) (f : PartSt → PartSt) : (s.onPart p f).cards = s.cards := rfl
@[simp] theorem State.onPart_gens (s : State) (p : Nat) (f : PartSt → PartSt) : (s.onPart p f).gens = s.gens := rfl
@[simp] theorem State.onPart_strays (s : State) (p : Nat) (f : PartSt → PartSt) : (s.onPart p f).strays = s.strays := rfl
@[simp] theorem State.onPart_l1 (s : State) (p : Nat) (f : PartSt → PartSt) : (s.onPart p f).l1 = s.l1 := rfl
@[simp] theorem State.onPart_tlb (s : State) (p : Nat) (f : PartSt → PartSt) : (s.onPart p f).tlb = s.tlb := rfl
@[simp] theorem State.onPart_icache (s : State) (p : Nat) (f : PartSt → PartSt) : (s.onPart p f).icache = s.icache := rfl
@[simp] theorem State.onPart_clusters (s : State) (p : Nat) (f : PartSt → PartSt) : (s.onPart p f).clusters = s.clusters := rfl
@[simp] theorem State.onPart_buckets (s : State) (p : Nat) (f : PartSt → PartSt) : (s.onPart p f).buckets = s.buckets := rfl
@[simp] theorem State.onPart_served (s : State) (p : Nat) (f : PartSt → PartSt) : (s.onPart p f).served = s.served := rfl
@[simp] theorem State.onPart_cardServed (s : State) (p : Nat) (f : PartSt → PartSt) : (s.onPart p f).cardServed = s.cardServed := rfl
@[simp] theorem State.onPart_walkers (s : State) (p : Nat) (f : PartSt → PartSt) : (s.onPart p f).walkers = s.walkers := rfl
@[simp] theorem State.onPart_funcs (s : State) (p : Nat) (f : PartSt → PartSt) : (s.onPart p f).funcs = s.funcs := rfl
@[simp] theorem State.onPart_msix (s : State) (p : Nat) (f : PartSt → PartSt) : (s.onPart p f).msix = s.msix := rfl
@[simp] theorem State.onPart_ports (s : State) (p : Nat) (f : PartSt → PartSt) : (s.onPart p f).ports = s.ports := rfl
@[simp] theorem State.onPart_routes (s : State) (p : Nat) (f : PartSt → PartSt) : (s.onPart p f).routes = s.routes := rfl
@[simp] theorem State.onPart_links (s : State) (p : Nat) (f : PartSt → PartSt) : (s.onPart p f).links = s.links := rfl
@[simp] theorem State.onPart_answers (s : State) (p : Nat) (f : PartSt → PartSt) : (s.onPart p f).answers = s.answers := rfl
@[simp] theorem State.onPart_answered (s : State) (p : Nat) (f : PartSt → PartSt) : (s.onPart p f).answered = s.answered := rfl
@[simp] theorem State.onPart_posted (s : State) (p : Nat) (f : PartSt → PartSt) : (s.onPart p f).posted = s.posted := rfl
@[simp] theorem State.onPart_expired (s : State) (p : Nat) (f : PartSt → PartSt) : (s.onPart p f).expired = s.expired := rfl
@[simp] theorem State.onPart_downs (s : State) (p : Nat) (f : PartSt → PartSt) : (s.onPart p f).downs = s.downs := rfl
@[simp] theorem State.onPart_parked (s : State) (p : Nat) (f : PartSt → PartSt) : (s.onPart p f).parked = s.parked := rfl
@[simp] theorem State.onPart_insts (s : State) (p : Nat) (f : PartSt → PartSt) : (s.onPart p f).insts = s.insts := rfl
@[simp] theorem State.onPart_lwriter (s : State) (p : Nat) (f : PartSt → PartSt) : (s.onPart p f).lwriter = s.lwriter := rfl
@[simp] theorem State.onPart_clean (s : State) (p : Nat) (f : PartSt → PartSt) : (s.onPart p f).clean = s.clean := rfl
@[simp] theorem State.onPart_accClean (s : State) (p : Nat) (f : PartSt → PartSt) : (s.onPart p f).accClean = s.accClean := rfl
@[simp] theorem State.onPart_veil (s : State) (p : Nat) (f : PartSt → PartSt) : (s.onPart p f).veil = s.veil := rfl
@[simp] theorem State.onPart_coreReset (s : State) (p : Nat) (f : PartSt → PartSt) : (s.onPart p f).coreReset = s.coreReset := rfl
@[simp] theorem State.onPart_cc (s : State) (p : Nat) (f : PartSt → PartSt) : (s.onPart p f).cc = s.cc := rfl
@[simp] theorem State.onPart_log (s : State) (p : Nat) (f : PartSt → PartSt) : (s.onPart p f).log = s.log := rfl

@[simp] theorem State.onCluster_agenda (s : State) (k : Nat) (f : ClusterSt → ClusterSt) : (s.onCluster k f).agenda = s.agenda := rfl
@[simp] theorem State.onCluster_fresh (s : State) (k : Nat) (f : ClusterSt → ClusterSt) : (s.onCluster k f).fresh = s.fresh := rfl
@[simp] theorem State.onCluster_cur (s : State) (k : Nat) (f : ClusterSt → ClusterSt) : (s.onCluster k f).cur = s.cur := rfl
@[simp] theorem State.onCluster_awake (s : State) (k : Nat) (f : ClusterSt → ClusterSt) : (s.onCluster k f).awake = s.awake := rfl
@[simp] theorem State.onCluster_taken (s : State) (k : Nat) (f : ClusterSt → ClusterSt) : (s.onCluster k f).taken = s.taken := rfl
@[simp] theorem State.onCluster_pipes (s : State) (k : Nat) (f : ClusterSt → ClusterSt) : (s.onCluster k f).pipes = s.pipes := rfl
@[simp] theorem State.onCluster_yielded (s : State) (k : Nat) (f : ClusterSt → ClusterSt) : (s.onCluster k f).yielded = s.yielded := rfl
@[simp] theorem State.onCluster_rests (s : State) (k : Nat) (f : ClusterSt → ClusterSt) : (s.onCluster k f).rests = s.rests := rfl
@[simp] theorem State.onCluster_lag (s : State) (k : Nat) (f : ClusterSt → ClusterSt) : (s.onCluster k f).lag = s.lag := rfl
@[simp] theorem State.onCluster_nextId (s : State) (k : Nat) (f : ClusterSt → ClusterSt) : (s.onCluster k f).nextId = s.nextId := rfl
@[simp] theorem State.onCluster_fab (s : State) (k : Nat) (f : ClusterSt → ClusterSt) : (s.onCluster k f).fab = s.fab := rfl
@[simp] theorem State.onCluster_powered (s : State) (k : Nat) (f : ClusterSt → ClusterSt) : (s.onCluster k f).powered = s.powered := rfl
@[simp] theorem State.onCluster_regs (s : State) (k : Nat) (f : ClusterSt → ClusterSt) : (s.onCluster k f).regs = s.regs := rfl
@[simp] theorem State.onCluster_home (s : State) (k : Nat) (f : ClusterSt → ClusterSt) : (s.onCluster k f).home = s.home := rfl
@[simp] theorem State.onCluster_msc (s : State) (k : Nat) (f : ClusterSt → ClusterSt) : (s.onCluster k f).msc = s.msc := rfl
@[simp] theorem State.onCluster_parity (s : State) (k : Nat) (f : ClusterSt → ClusterSt) : (s.onCluster k f).parity = s.parity := rfl
@[simp] theorem State.onCluster_deltas (s : State) (k : Nat) (f : ClusterSt → ClusterSt) : (s.onCluster k f).deltas = s.deltas := rfl
@[simp] theorem State.onCluster_poison (s : State) (k : Nat) (f : ClusterSt → ClusterSt) : (s.onCluster k f).poison = s.poison := rfl
@[simp] theorem State.onCluster_checks (s : State) (k : Nat) (f : ClusterSt → ClusterSt) : (s.onCluster k f).checks = s.checks := rfl
@[simp] theorem State.onCluster_uncorr (s : State) (k : Nat) (f : ClusterSt → ClusterSt) : (s.onCluster k f).uncorr = s.uncorr := rfl
@[simp] theorem State.onCluster_parityBad (s : State) (k : Nat) (f : ClusterSt → ClusterSt) : (s.onCluster k f).parityBad = s.parityBad := rfl
@[simp] theorem State.onCluster_parityChecks (s : State) (k : Nat) (f : ClusterSt → ClusterSt) : (s.onCluster k f).parityChecks = s.parityChecks := rfl
@[simp] theorem State.onCluster_scrubs (s : State) (k : Nat) (f : ClusterSt → ClusterSt) : (s.onCluster k f).scrubs = s.scrubs := rfl
@[simp] theorem State.onCluster_owners (s : State) (k : Nat) (f : ClusterSt → ClusterSt) : (s.onCluster k f).owners = s.owners := rfl
@[simp] theorem State.onCluster_lost (s : State) (k : Nat) (f : ClusterSt → ClusterSt) : (s.onCluster k f).lost = s.lost := rfl
@[simp] theorem State.onCluster_loads (s : State) (k : Nat) (f : ClusterSt → ClusterSt) : (s.onCluster k f).loads = s.loads := rfl
@[simp] theorem State.onCluster_writes (s : State) (k : Nat) (f : ClusterSt → ClusterSt) : (s.onCluster k f).writes = s.writes := rfl
@[simp] theorem State.onCluster_marks (s : State) (k : Nat) (f : ClusterSt → ClusterSt) : (s.onCluster k f).marks = s.marks := rfl
@[simp] theorem State.onCluster_hbmq (s : State) (k : Nat) (f : ClusterSt → ClusterSt) : (s.onCluster k f).hbmq = s.hbmq := rfl
@[simp] theorem State.onCluster_wants (s : State) (k : Nat) (f : ClusterSt → ClusterSt) : (s.onCluster k f).wants = s.wants := rfl
@[simp] theorem State.onCluster_grants (s : State) (k : Nat) (f : ClusterSt → ClusterSt) : (s.onCluster k f).grants = s.grants := rfl
@[simp] theorem State.onCluster_crews (s : State) (k : Nat) (f : ClusterSt → ClusterSt) : (s.onCluster k f).crews = s.crews := rfl
@[simp] theorem State.onCluster_cards (s : State) (k : Nat) (f : ClusterSt → ClusterSt) : (s.onCluster k f).cards = s.cards := rfl
@[simp] theorem State.onCluster_gens (s : State) (k : Nat) (f : ClusterSt → ClusterSt) : (s.onCluster k f).gens = s.gens := rfl
@[simp] theorem State.onCluster_strays (s : State) (k : Nat) (f : ClusterSt → ClusterSt) : (s.onCluster k f).strays = s.strays := rfl
@[simp] theorem State.onCluster_l1 (s : State) (k : Nat) (f : ClusterSt → ClusterSt) : (s.onCluster k f).l1 = s.l1 := rfl
@[simp] theorem State.onCluster_tlb (s : State) (k : Nat) (f : ClusterSt → ClusterSt) : (s.onCluster k f).tlb = s.tlb := rfl
@[simp] theorem State.onCluster_icache (s : State) (k : Nat) (f : ClusterSt → ClusterSt) : (s.onCluster k f).icache = s.icache := rfl
@[simp] theorem State.onCluster_buckets (s : State) (k : Nat) (f : ClusterSt → ClusterSt) : (s.onCluster k f).buckets = s.buckets := rfl
@[simp] theorem State.onCluster_served (s : State) (k : Nat) (f : ClusterSt → ClusterSt) : (s.onCluster k f).served = s.served := rfl
@[simp] theorem State.onCluster_cardServed (s : State) (k : Nat) (f : ClusterSt → ClusterSt) : (s.onCluster k f).cardServed = s.cardServed := rfl
@[simp] theorem State.onCluster_walkers (s : State) (k : Nat) (f : ClusterSt → ClusterSt) : (s.onCluster k f).walkers = s.walkers := rfl
@[simp] theorem State.onCluster_parts (s : State) (k : Nat) (f : ClusterSt → ClusterSt) : (s.onCluster k f).parts = s.parts := rfl
@[simp] theorem State.onCluster_funcs (s : State) (k : Nat) (f : ClusterSt → ClusterSt) : (s.onCluster k f).funcs = s.funcs := rfl
@[simp] theorem State.onCluster_msix (s : State) (k : Nat) (f : ClusterSt → ClusterSt) : (s.onCluster k f).msix = s.msix := rfl
@[simp] theorem State.onCluster_ports (s : State) (k : Nat) (f : ClusterSt → ClusterSt) : (s.onCluster k f).ports = s.ports := rfl
@[simp] theorem State.onCluster_routes (s : State) (k : Nat) (f : ClusterSt → ClusterSt) : (s.onCluster k f).routes = s.routes := rfl
@[simp] theorem State.onCluster_links (s : State) (k : Nat) (f : ClusterSt → ClusterSt) : (s.onCluster k f).links = s.links := rfl
@[simp] theorem State.onCluster_answers (s : State) (k : Nat) (f : ClusterSt → ClusterSt) : (s.onCluster k f).answers = s.answers := rfl
@[simp] theorem State.onCluster_answered (s : State) (k : Nat) (f : ClusterSt → ClusterSt) : (s.onCluster k f).answered = s.answered := rfl
@[simp] theorem State.onCluster_posted (s : State) (k : Nat) (f : ClusterSt → ClusterSt) : (s.onCluster k f).posted = s.posted := rfl
@[simp] theorem State.onCluster_expired (s : State) (k : Nat) (f : ClusterSt → ClusterSt) : (s.onCluster k f).expired = s.expired := rfl
@[simp] theorem State.onCluster_downs (s : State) (k : Nat) (f : ClusterSt → ClusterSt) : (s.onCluster k f).downs = s.downs := rfl
@[simp] theorem State.onCluster_parked (s : State) (k : Nat) (f : ClusterSt → ClusterSt) : (s.onCluster k f).parked = s.parked := rfl
@[simp] theorem State.onCluster_insts (s : State) (k : Nat) (f : ClusterSt → ClusterSt) : (s.onCluster k f).insts = s.insts := rfl
@[simp] theorem State.onCluster_lwriter (s : State) (k : Nat) (f : ClusterSt → ClusterSt) : (s.onCluster k f).lwriter = s.lwriter := rfl
@[simp] theorem State.onCluster_clean (s : State) (k : Nat) (f : ClusterSt → ClusterSt) : (s.onCluster k f).clean = s.clean := rfl
@[simp] theorem State.onCluster_accClean (s : State) (k : Nat) (f : ClusterSt → ClusterSt) : (s.onCluster k f).accClean = s.accClean := rfl
@[simp] theorem State.onCluster_veil (s : State) (k : Nat) (f : ClusterSt → ClusterSt) : (s.onCluster k f).veil = s.veil := rfl
@[simp] theorem State.onCluster_coreReset (s : State) (k : Nat) (f : ClusterSt → ClusterSt) : (s.onCluster k f).coreReset = s.coreReset := rfl
@[simp] theorem State.onCluster_cc (s : State) (k : Nat) (f : ClusterSt → ClusterSt) : (s.onCluster k f).cc = s.cc := rfl
@[simp] theorem State.onCluster_log (s : State) (k : Nat) (f : ClusterSt → ClusterSt) : (s.onCluster k f).log = s.log := rfl

@[simp] theorem State.onWalker_agenda (s : State) (p : Nat) (f : Walker → Walker) : (s.onWalker p f).agenda = s.agenda := rfl
@[simp] theorem State.onWalker_fresh (s : State) (p : Nat) (f : Walker → Walker) : (s.onWalker p f).fresh = s.fresh := rfl
@[simp] theorem State.onWalker_cur (s : State) (p : Nat) (f : Walker → Walker) : (s.onWalker p f).cur = s.cur := rfl
@[simp] theorem State.onWalker_awake (s : State) (p : Nat) (f : Walker → Walker) : (s.onWalker p f).awake = s.awake := rfl
@[simp] theorem State.onWalker_taken (s : State) (p : Nat) (f : Walker → Walker) : (s.onWalker p f).taken = s.taken := rfl
@[simp] theorem State.onWalker_pipes (s : State) (p : Nat) (f : Walker → Walker) : (s.onWalker p f).pipes = s.pipes := rfl
@[simp] theorem State.onWalker_yielded (s : State) (p : Nat) (f : Walker → Walker) : (s.onWalker p f).yielded = s.yielded := rfl
@[simp] theorem State.onWalker_rests (s : State) (p : Nat) (f : Walker → Walker) : (s.onWalker p f).rests = s.rests := rfl
@[simp] theorem State.onWalker_lag (s : State) (p : Nat) (f : Walker → Walker) : (s.onWalker p f).lag = s.lag := rfl
@[simp] theorem State.onWalker_nextId (s : State) (p : Nat) (f : Walker → Walker) : (s.onWalker p f).nextId = s.nextId := rfl
@[simp] theorem State.onWalker_fab (s : State) (p : Nat) (f : Walker → Walker) : (s.onWalker p f).fab = s.fab := rfl
@[simp] theorem State.onWalker_powered (s : State) (p : Nat) (f : Walker → Walker) : (s.onWalker p f).powered = s.powered := rfl
@[simp] theorem State.onWalker_regs (s : State) (p : Nat) (f : Walker → Walker) : (s.onWalker p f).regs = s.regs := rfl
@[simp] theorem State.onWalker_home (s : State) (p : Nat) (f : Walker → Walker) : (s.onWalker p f).home = s.home := rfl
@[simp] theorem State.onWalker_msc (s : State) (p : Nat) (f : Walker → Walker) : (s.onWalker p f).msc = s.msc := rfl
@[simp] theorem State.onWalker_parity (s : State) (p : Nat) (f : Walker → Walker) : (s.onWalker p f).parity = s.parity := rfl
@[simp] theorem State.onWalker_deltas (s : State) (p : Nat) (f : Walker → Walker) : (s.onWalker p f).deltas = s.deltas := rfl
@[simp] theorem State.onWalker_poison (s : State) (p : Nat) (f : Walker → Walker) : (s.onWalker p f).poison = s.poison := rfl
@[simp] theorem State.onWalker_checks (s : State) (p : Nat) (f : Walker → Walker) : (s.onWalker p f).checks = s.checks := rfl
@[simp] theorem State.onWalker_uncorr (s : State) (p : Nat) (f : Walker → Walker) : (s.onWalker p f).uncorr = s.uncorr := rfl
@[simp] theorem State.onWalker_parityBad (s : State) (p : Nat) (f : Walker → Walker) : (s.onWalker p f).parityBad = s.parityBad := rfl
@[simp] theorem State.onWalker_parityChecks (s : State) (p : Nat) (f : Walker → Walker) : (s.onWalker p f).parityChecks = s.parityChecks := rfl
@[simp] theorem State.onWalker_scrubs (s : State) (p : Nat) (f : Walker → Walker) : (s.onWalker p f).scrubs = s.scrubs := rfl
@[simp] theorem State.onWalker_owners (s : State) (p : Nat) (f : Walker → Walker) : (s.onWalker p f).owners = s.owners := rfl
@[simp] theorem State.onWalker_lost (s : State) (p : Nat) (f : Walker → Walker) : (s.onWalker p f).lost = s.lost := rfl
@[simp] theorem State.onWalker_loads (s : State) (p : Nat) (f : Walker → Walker) : (s.onWalker p f).loads = s.loads := rfl
@[simp] theorem State.onWalker_writes (s : State) (p : Nat) (f : Walker → Walker) : (s.onWalker p f).writes = s.writes := rfl
@[simp] theorem State.onWalker_marks (s : State) (p : Nat) (f : Walker → Walker) : (s.onWalker p f).marks = s.marks := rfl
@[simp] theorem State.onWalker_hbmq (s : State) (p : Nat) (f : Walker → Walker) : (s.onWalker p f).hbmq = s.hbmq := rfl
@[simp] theorem State.onWalker_wants (s : State) (p : Nat) (f : Walker → Walker) : (s.onWalker p f).wants = s.wants := rfl
@[simp] theorem State.onWalker_grants (s : State) (p : Nat) (f : Walker → Walker) : (s.onWalker p f).grants = s.grants := rfl
@[simp] theorem State.onWalker_crews (s : State) (p : Nat) (f : Walker → Walker) : (s.onWalker p f).crews = s.crews := rfl
@[simp] theorem State.onWalker_cards (s : State) (p : Nat) (f : Walker → Walker) : (s.onWalker p f).cards = s.cards := rfl
@[simp] theorem State.onWalker_gens (s : State) (p : Nat) (f : Walker → Walker) : (s.onWalker p f).gens = s.gens := rfl
@[simp] theorem State.onWalker_strays (s : State) (p : Nat) (f : Walker → Walker) : (s.onWalker p f).strays = s.strays := rfl
@[simp] theorem State.onWalker_l1 (s : State) (p : Nat) (f : Walker → Walker) : (s.onWalker p f).l1 = s.l1 := rfl
@[simp] theorem State.onWalker_tlb (s : State) (p : Nat) (f : Walker → Walker) : (s.onWalker p f).tlb = s.tlb := rfl
@[simp] theorem State.onWalker_icache (s : State) (p : Nat) (f : Walker → Walker) : (s.onWalker p f).icache = s.icache := rfl
@[simp] theorem State.onWalker_clusters (s : State) (p : Nat) (f : Walker → Walker) : (s.onWalker p f).clusters = s.clusters := rfl
@[simp] theorem State.onWalker_buckets (s : State) (p : Nat) (f : Walker → Walker) : (s.onWalker p f).buckets = s.buckets := rfl
@[simp] theorem State.onWalker_served (s : State) (p : Nat) (f : Walker → Walker) : (s.onWalker p f).served = s.served := rfl
@[simp] theorem State.onWalker_cardServed (s : State) (p : Nat) (f : Walker → Walker) : (s.onWalker p f).cardServed = s.cardServed := rfl
@[simp] theorem State.onWalker_parts (s : State) (p : Nat) (f : Walker → Walker) : (s.onWalker p f).parts = s.parts := rfl
@[simp] theorem State.onWalker_funcs (s : State) (p : Nat) (f : Walker → Walker) : (s.onWalker p f).funcs = s.funcs := rfl
@[simp] theorem State.onWalker_msix (s : State) (p : Nat) (f : Walker → Walker) : (s.onWalker p f).msix = s.msix := rfl
@[simp] theorem State.onWalker_ports (s : State) (p : Nat) (f : Walker → Walker) : (s.onWalker p f).ports = s.ports := rfl
@[simp] theorem State.onWalker_routes (s : State) (p : Nat) (f : Walker → Walker) : (s.onWalker p f).routes = s.routes := rfl
@[simp] theorem State.onWalker_links (s : State) (p : Nat) (f : Walker → Walker) : (s.onWalker p f).links = s.links := rfl
@[simp] theorem State.onWalker_answers (s : State) (p : Nat) (f : Walker → Walker) : (s.onWalker p f).answers = s.answers := rfl
@[simp] theorem State.onWalker_answered (s : State) (p : Nat) (f : Walker → Walker) : (s.onWalker p f).answered = s.answered := rfl
@[simp] theorem State.onWalker_posted (s : State) (p : Nat) (f : Walker → Walker) : (s.onWalker p f).posted = s.posted := rfl
@[simp] theorem State.onWalker_expired (s : State) (p : Nat) (f : Walker → Walker) : (s.onWalker p f).expired = s.expired := rfl
@[simp] theorem State.onWalker_downs (s : State) (p : Nat) (f : Walker → Walker) : (s.onWalker p f).downs = s.downs := rfl
@[simp] theorem State.onWalker_parked (s : State) (p : Nat) (f : Walker → Walker) : (s.onWalker p f).parked = s.parked := rfl
@[simp] theorem State.onWalker_insts (s : State) (p : Nat) (f : Walker → Walker) : (s.onWalker p f).insts = s.insts := rfl
@[simp] theorem State.onWalker_lwriter (s : State) (p : Nat) (f : Walker → Walker) : (s.onWalker p f).lwriter = s.lwriter := rfl
@[simp] theorem State.onWalker_clean (s : State) (p : Nat) (f : Walker → Walker) : (s.onWalker p f).clean = s.clean := rfl
@[simp] theorem State.onWalker_accClean (s : State) (p : Nat) (f : Walker → Walker) : (s.onWalker p f).accClean = s.accClean := rfl
@[simp] theorem State.onWalker_veil (s : State) (p : Nat) (f : Walker → Walker) : (s.onWalker p f).veil = s.veil := rfl
@[simp] theorem State.onWalker_coreReset (s : State) (p : Nat) (f : Walker → Walker) : (s.onWalker p f).coreReset = s.coreReset := rfl
@[simp] theorem State.onWalker_cc (s : State) (p : Nat) (f : Walker → Walker) : (s.onWalker p f).cc = s.cc := rfl
@[simp] theorem State.onWalker_log (s : State) (p : Nat) (f : Walker → Walker) : (s.onWalker p f).log = s.log := rfl

@[simp] theorem State.logs_agenda (s : State) (e : LogEntry) : (s.logs e).agenda = s.agenda := rfl
@[simp] theorem State.logs_fresh (s : State) (e : LogEntry) : (s.logs e).fresh = s.fresh := rfl
@[simp] theorem State.logs_cur (s : State) (e : LogEntry) : (s.logs e).cur = s.cur := rfl
@[simp] theorem State.logs_awake (s : State) (e : LogEntry) : (s.logs e).awake = s.awake := rfl
@[simp] theorem State.logs_taken (s : State) (e : LogEntry) : (s.logs e).taken = s.taken := rfl
@[simp] theorem State.logs_pipes (s : State) (e : LogEntry) : (s.logs e).pipes = s.pipes := rfl
@[simp] theorem State.logs_yielded (s : State) (e : LogEntry) : (s.logs e).yielded = s.yielded := rfl
@[simp] theorem State.logs_rests (s : State) (e : LogEntry) : (s.logs e).rests = s.rests := rfl
@[simp] theorem State.logs_lag (s : State) (e : LogEntry) : (s.logs e).lag = s.lag := rfl
@[simp] theorem State.logs_nextId (s : State) (e : LogEntry) : (s.logs e).nextId = s.nextId := rfl
@[simp] theorem State.logs_fab (s : State) (e : LogEntry) : (s.logs e).fab = s.fab := rfl
@[simp] theorem State.logs_powered (s : State) (e : LogEntry) : (s.logs e).powered = s.powered := rfl
@[simp] theorem State.logs_regs (s : State) (e : LogEntry) : (s.logs e).regs = s.regs := rfl
@[simp] theorem State.logs_home (s : State) (e : LogEntry) : (s.logs e).home = s.home := rfl
@[simp] theorem State.logs_msc (s : State) (e : LogEntry) : (s.logs e).msc = s.msc := rfl
@[simp] theorem State.logs_parity (s : State) (e : LogEntry) : (s.logs e).parity = s.parity := rfl
@[simp] theorem State.logs_deltas (s : State) (e : LogEntry) : (s.logs e).deltas = s.deltas := rfl
@[simp] theorem State.logs_poison (s : State) (e : LogEntry) : (s.logs e).poison = s.poison := rfl
@[simp] theorem State.logs_checks (s : State) (e : LogEntry) : (s.logs e).checks = s.checks := rfl
@[simp] theorem State.logs_uncorr (s : State) (e : LogEntry) : (s.logs e).uncorr = s.uncorr := rfl
@[simp] theorem State.logs_parityBad (s : State) (e : LogEntry) : (s.logs e).parityBad = s.parityBad := rfl
@[simp] theorem State.logs_parityChecks (s : State) (e : LogEntry) : (s.logs e).parityChecks = s.parityChecks := rfl
@[simp] theorem State.logs_scrubs (s : State) (e : LogEntry) : (s.logs e).scrubs = s.scrubs := rfl
@[simp] theorem State.logs_owners (s : State) (e : LogEntry) : (s.logs e).owners = s.owners := rfl
@[simp] theorem State.logs_lost (s : State) (e : LogEntry) : (s.logs e).lost = s.lost := rfl
@[simp] theorem State.logs_loads (s : State) (e : LogEntry) : (s.logs e).loads = s.loads := rfl
@[simp] theorem State.logs_writes (s : State) (e : LogEntry) : (s.logs e).writes = s.writes := rfl
@[simp] theorem State.logs_marks (s : State) (e : LogEntry) : (s.logs e).marks = s.marks := rfl
@[simp] theorem State.logs_hbmq (s : State) (e : LogEntry) : (s.logs e).hbmq = s.hbmq := rfl
@[simp] theorem State.logs_wants (s : State) (e : LogEntry) : (s.logs e).wants = s.wants := rfl
@[simp] theorem State.logs_grants (s : State) (e : LogEntry) : (s.logs e).grants = s.grants := rfl
@[simp] theorem State.logs_crews (s : State) (e : LogEntry) : (s.logs e).crews = s.crews := rfl
@[simp] theorem State.logs_cards (s : State) (e : LogEntry) : (s.logs e).cards = s.cards := rfl
@[simp] theorem State.logs_gens (s : State) (e : LogEntry) : (s.logs e).gens = s.gens := rfl
@[simp] theorem State.logs_strays (s : State) (e : LogEntry) : (s.logs e).strays = s.strays := rfl
@[simp] theorem State.logs_l1 (s : State) (e : LogEntry) : (s.logs e).l1 = s.l1 := rfl
@[simp] theorem State.logs_tlb (s : State) (e : LogEntry) : (s.logs e).tlb = s.tlb := rfl
@[simp] theorem State.logs_icache (s : State) (e : LogEntry) : (s.logs e).icache = s.icache := rfl
@[simp] theorem State.logs_clusters (s : State) (e : LogEntry) : (s.logs e).clusters = s.clusters := rfl
@[simp] theorem State.logs_buckets (s : State) (e : LogEntry) : (s.logs e).buckets = s.buckets := rfl
@[simp] theorem State.logs_served (s : State) (e : LogEntry) : (s.logs e).served = s.served := rfl
@[simp] theorem State.logs_cardServed (s : State) (e : LogEntry) : (s.logs e).cardServed = s.cardServed := rfl
@[simp] theorem State.logs_walkers (s : State) (e : LogEntry) : (s.logs e).walkers = s.walkers := rfl
@[simp] theorem State.logs_parts (s : State) (e : LogEntry) : (s.logs e).parts = s.parts := rfl
@[simp] theorem State.logs_funcs (s : State) (e : LogEntry) : (s.logs e).funcs = s.funcs := rfl
@[simp] theorem State.logs_msix (s : State) (e : LogEntry) : (s.logs e).msix = s.msix := rfl
@[simp] theorem State.logs_ports (s : State) (e : LogEntry) : (s.logs e).ports = s.ports := rfl
@[simp] theorem State.logs_routes (s : State) (e : LogEntry) : (s.logs e).routes = s.routes := rfl
@[simp] theorem State.logs_links (s : State) (e : LogEntry) : (s.logs e).links = s.links := rfl
@[simp] theorem State.logs_answers (s : State) (e : LogEntry) : (s.logs e).answers = s.answers := rfl
@[simp] theorem State.logs_answered (s : State) (e : LogEntry) : (s.logs e).answered = s.answered := rfl
@[simp] theorem State.logs_posted (s : State) (e : LogEntry) : (s.logs e).posted = s.posted := rfl
@[simp] theorem State.logs_expired (s : State) (e : LogEntry) : (s.logs e).expired = s.expired := rfl
@[simp] theorem State.logs_downs (s : State) (e : LogEntry) : (s.logs e).downs = s.downs := rfl
@[simp] theorem State.logs_parked (s : State) (e : LogEntry) : (s.logs e).parked = s.parked := rfl
@[simp] theorem State.logs_insts (s : State) (e : LogEntry) : (s.logs e).insts = s.insts := rfl
@[simp] theorem State.logs_lwriter (s : State) (e : LogEntry) : (s.logs e).lwriter = s.lwriter := rfl
@[simp] theorem State.logs_clean (s : State) (e : LogEntry) : (s.logs e).clean = s.clean := rfl
@[simp] theorem State.logs_accClean (s : State) (e : LogEntry) : (s.logs e).accClean = s.accClean := rfl
@[simp] theorem State.logs_veil (s : State) (e : LogEntry) : (s.logs e).veil = s.veil := rfl
@[simp] theorem State.logs_coreReset (s : State) (e : LogEntry) : (s.logs e).coreReset = s.coreReset := rfl
@[simp] theorem State.logs_cc (s : State) (e : LogEntry) : (s.logs e).cc = s.cc := rfl

@[simp] theorem State.sendMsi_agenda (s : State) (fn v : Nat) : (s.sendMsi fn v).agenda = s.agenda := rfl
@[simp] theorem State.sendMsi_fresh (s : State) (fn v : Nat) : (s.sendMsi fn v).fresh = s.fresh := rfl
@[simp] theorem State.sendMsi_cur (s : State) (fn v : Nat) : (s.sendMsi fn v).cur = s.cur := rfl
@[simp] theorem State.sendMsi_awake (s : State) (fn v : Nat) : (s.sendMsi fn v).awake = s.awake := rfl
@[simp] theorem State.sendMsi_taken (s : State) (fn v : Nat) : (s.sendMsi fn v).taken = s.taken := rfl
@[simp] theorem State.sendMsi_pipes (s : State) (fn v : Nat) : (s.sendMsi fn v).pipes = s.pipes := rfl
@[simp] theorem State.sendMsi_yielded (s : State) (fn v : Nat) : (s.sendMsi fn v).yielded = s.yielded := rfl
@[simp] theorem State.sendMsi_rests (s : State) (fn v : Nat) : (s.sendMsi fn v).rests = s.rests := rfl
@[simp] theorem State.sendMsi_lag (s : State) (fn v : Nat) : (s.sendMsi fn v).lag = s.lag := rfl
@[simp] theorem State.sendMsi_nextId (s : State) (fn v : Nat) : (s.sendMsi fn v).nextId = s.nextId := rfl
@[simp] theorem State.sendMsi_fab (s : State) (fn v : Nat) : (s.sendMsi fn v).fab = s.fab := rfl
@[simp] theorem State.sendMsi_powered (s : State) (fn v : Nat) : (s.sendMsi fn v).powered = s.powered := rfl
@[simp] theorem State.sendMsi_regs (s : State) (fn v : Nat) : (s.sendMsi fn v).regs = s.regs := rfl
@[simp] theorem State.sendMsi_home (s : State) (fn v : Nat) : (s.sendMsi fn v).home = s.home := rfl
@[simp] theorem State.sendMsi_msc (s : State) (fn v : Nat) : (s.sendMsi fn v).msc = s.msc := rfl
@[simp] theorem State.sendMsi_parity (s : State) (fn v : Nat) : (s.sendMsi fn v).parity = s.parity := rfl
@[simp] theorem State.sendMsi_deltas (s : State) (fn v : Nat) : (s.sendMsi fn v).deltas = s.deltas := rfl
@[simp] theorem State.sendMsi_poison (s : State) (fn v : Nat) : (s.sendMsi fn v).poison = s.poison := rfl
@[simp] theorem State.sendMsi_checks (s : State) (fn v : Nat) : (s.sendMsi fn v).checks = s.checks := rfl
@[simp] theorem State.sendMsi_uncorr (s : State) (fn v : Nat) : (s.sendMsi fn v).uncorr = s.uncorr := rfl
@[simp] theorem State.sendMsi_parityBad (s : State) (fn v : Nat) : (s.sendMsi fn v).parityBad = s.parityBad := rfl
@[simp] theorem State.sendMsi_parityChecks (s : State) (fn v : Nat) : (s.sendMsi fn v).parityChecks = s.parityChecks := rfl
@[simp] theorem State.sendMsi_scrubs (s : State) (fn v : Nat) : (s.sendMsi fn v).scrubs = s.scrubs := rfl
@[simp] theorem State.sendMsi_owners (s : State) (fn v : Nat) : (s.sendMsi fn v).owners = s.owners := rfl
@[simp] theorem State.sendMsi_lost (s : State) (fn v : Nat) : (s.sendMsi fn v).lost = s.lost := rfl
@[simp] theorem State.sendMsi_loads (s : State) (fn v : Nat) : (s.sendMsi fn v).loads = s.loads := rfl
@[simp] theorem State.sendMsi_writes (s : State) (fn v : Nat) : (s.sendMsi fn v).writes = s.writes := rfl
@[simp] theorem State.sendMsi_marks (s : State) (fn v : Nat) : (s.sendMsi fn v).marks = s.marks := rfl
@[simp] theorem State.sendMsi_hbmq (s : State) (fn v : Nat) : (s.sendMsi fn v).hbmq = s.hbmq := rfl
@[simp] theorem State.sendMsi_wants (s : State) (fn v : Nat) : (s.sendMsi fn v).wants = s.wants := rfl
@[simp] theorem State.sendMsi_grants (s : State) (fn v : Nat) : (s.sendMsi fn v).grants = s.grants := rfl
@[simp] theorem State.sendMsi_crews (s : State) (fn v : Nat) : (s.sendMsi fn v).crews = s.crews := rfl
@[simp] theorem State.sendMsi_cards (s : State) (fn v : Nat) : (s.sendMsi fn v).cards = s.cards := rfl
@[simp] theorem State.sendMsi_gens (s : State) (fn v : Nat) : (s.sendMsi fn v).gens = s.gens := rfl
@[simp] theorem State.sendMsi_strays (s : State) (fn v : Nat) : (s.sendMsi fn v).strays = s.strays := rfl
@[simp] theorem State.sendMsi_l1 (s : State) (fn v : Nat) : (s.sendMsi fn v).l1 = s.l1 := rfl
@[simp] theorem State.sendMsi_tlb (s : State) (fn v : Nat) : (s.sendMsi fn v).tlb = s.tlb := rfl
@[simp] theorem State.sendMsi_icache (s : State) (fn v : Nat) : (s.sendMsi fn v).icache = s.icache := rfl
@[simp] theorem State.sendMsi_clusters (s : State) (fn v : Nat) : (s.sendMsi fn v).clusters = s.clusters := rfl
@[simp] theorem State.sendMsi_buckets (s : State) (fn v : Nat) : (s.sendMsi fn v).buckets = s.buckets := rfl
@[simp] theorem State.sendMsi_served (s : State) (fn v : Nat) : (s.sendMsi fn v).served = s.served := rfl
@[simp] theorem State.sendMsi_cardServed (s : State) (fn v : Nat) : (s.sendMsi fn v).cardServed = s.cardServed := rfl
@[simp] theorem State.sendMsi_walkers (s : State) (fn v : Nat) : (s.sendMsi fn v).walkers = s.walkers := rfl
@[simp] theorem State.sendMsi_parts (s : State) (fn v : Nat) : (s.sendMsi fn v).parts = s.parts := rfl
@[simp] theorem State.sendMsi_funcs (s : State) (fn v : Nat) : (s.sendMsi fn v).funcs = s.funcs := rfl
@[simp] theorem State.sendMsi_ports (s : State) (fn v : Nat) : (s.sendMsi fn v).ports = s.ports := rfl
@[simp] theorem State.sendMsi_routes (s : State) (fn v : Nat) : (s.sendMsi fn v).routes = s.routes := rfl
@[simp] theorem State.sendMsi_links (s : State) (fn v : Nat) : (s.sendMsi fn v).links = s.links := rfl
@[simp] theorem State.sendMsi_answers (s : State) (fn v : Nat) : (s.sendMsi fn v).answers = s.answers := rfl
@[simp] theorem State.sendMsi_answered (s : State) (fn v : Nat) : (s.sendMsi fn v).answered = s.answered := rfl
@[simp] theorem State.sendMsi_posted (s : State) (fn v : Nat) : (s.sendMsi fn v).posted = s.posted := rfl
@[simp] theorem State.sendMsi_expired (s : State) (fn v : Nat) : (s.sendMsi fn v).expired = s.expired := rfl
@[simp] theorem State.sendMsi_downs (s : State) (fn v : Nat) : (s.sendMsi fn v).downs = s.downs := rfl
@[simp] theorem State.sendMsi_parked (s : State) (fn v : Nat) : (s.sendMsi fn v).parked = s.parked := rfl
@[simp] theorem State.sendMsi_insts (s : State) (fn v : Nat) : (s.sendMsi fn v).insts = s.insts := rfl
@[simp] theorem State.sendMsi_lwriter (s : State) (fn v : Nat) : (s.sendMsi fn v).lwriter = s.lwriter := rfl
@[simp] theorem State.sendMsi_clean (s : State) (fn v : Nat) : (s.sendMsi fn v).clean = s.clean := rfl
@[simp] theorem State.sendMsi_accClean (s : State) (fn v : Nat) : (s.sendMsi fn v).accClean = s.accClean := rfl
@[simp] theorem State.sendMsi_veil (s : State) (fn v : Nat) : (s.sendMsi fn v).veil = s.veil := rfl
@[simp] theorem State.sendMsi_coreReset (s : State) (fn v : Nat) : (s.sendMsi fn v).coreReset = s.coreReset := rfl
@[simp] theorem State.sendMsi_cc (s : State) (fn v : Nat) : (s.sendMsi fn v).cc = s.cc := rfl
@[simp] theorem State.sendMsi_log (s : State) (fn v : Nat) : (s.sendMsi fn v).log = s.log := rfl

@[simp] theorem State.msi_agenda (s : State) (fn v : Nat) : (s.msi fn v).agenda = s.agenda := by unfold State.msi; split <;> rfl
@[simp] theorem State.msi_fresh (s : State) (fn v : Nat) : (s.msi fn v).fresh = s.fresh := by unfold State.msi; split <;> rfl
@[simp] theorem State.msi_cur (s : State) (fn v : Nat) : (s.msi fn v).cur = s.cur := by unfold State.msi; split <;> rfl
@[simp] theorem State.msi_awake (s : State) (fn v : Nat) : (s.msi fn v).awake = s.awake := by unfold State.msi; split <;> rfl
@[simp] theorem State.msi_taken (s : State) (fn v : Nat) : (s.msi fn v).taken = s.taken := by unfold State.msi; split <;> rfl
@[simp] theorem State.msi_pipes (s : State) (fn v : Nat) : (s.msi fn v).pipes = s.pipes := by unfold State.msi; split <;> rfl
@[simp] theorem State.msi_yielded (s : State) (fn v : Nat) : (s.msi fn v).yielded = s.yielded := by unfold State.msi; split <;> rfl
@[simp] theorem State.msi_rests (s : State) (fn v : Nat) : (s.msi fn v).rests = s.rests := by unfold State.msi; split <;> rfl
@[simp] theorem State.msi_lag (s : State) (fn v : Nat) : (s.msi fn v).lag = s.lag := by unfold State.msi; split <;> rfl
@[simp] theorem State.msi_nextId (s : State) (fn v : Nat) : (s.msi fn v).nextId = s.nextId := by unfold State.msi; split <;> rfl
@[simp] theorem State.msi_fab (s : State) (fn v : Nat) : (s.msi fn v).fab = s.fab := by unfold State.msi; split <;> rfl
@[simp] theorem State.msi_powered (s : State) (fn v : Nat) : (s.msi fn v).powered = s.powered := by unfold State.msi; split <;> rfl
@[simp] theorem State.msi_home (s : State) (fn v : Nat) : (s.msi fn v).home = s.home := by unfold State.msi; split <;> rfl
@[simp] theorem State.msi_msc (s : State) (fn v : Nat) : (s.msi fn v).msc = s.msc := by unfold State.msi; split <;> rfl
@[simp] theorem State.msi_parity (s : State) (fn v : Nat) : (s.msi fn v).parity = s.parity := by unfold State.msi; split <;> rfl
@[simp] theorem State.msi_deltas (s : State) (fn v : Nat) : (s.msi fn v).deltas = s.deltas := by unfold State.msi; split <;> rfl
@[simp] theorem State.msi_poison (s : State) (fn v : Nat) : (s.msi fn v).poison = s.poison := by unfold State.msi; split <;> rfl
@[simp] theorem State.msi_checks (s : State) (fn v : Nat) : (s.msi fn v).checks = s.checks := by unfold State.msi; split <;> rfl
@[simp] theorem State.msi_uncorr (s : State) (fn v : Nat) : (s.msi fn v).uncorr = s.uncorr := by unfold State.msi; split <;> rfl
@[simp] theorem State.msi_parityBad (s : State) (fn v : Nat) : (s.msi fn v).parityBad = s.parityBad := by unfold State.msi; split <;> rfl
@[simp] theorem State.msi_parityChecks (s : State) (fn v : Nat) : (s.msi fn v).parityChecks = s.parityChecks := by unfold State.msi; split <;> rfl
@[simp] theorem State.msi_scrubs (s : State) (fn v : Nat) : (s.msi fn v).scrubs = s.scrubs := by unfold State.msi; split <;> rfl
@[simp] theorem State.msi_owners (s : State) (fn v : Nat) : (s.msi fn v).owners = s.owners := by unfold State.msi; split <;> rfl
@[simp] theorem State.msi_lost (s : State) (fn v : Nat) : (s.msi fn v).lost = s.lost := by unfold State.msi; split <;> rfl
@[simp] theorem State.msi_loads (s : State) (fn v : Nat) : (s.msi fn v).loads = s.loads := by unfold State.msi; split <;> rfl
@[simp] theorem State.msi_writes (s : State) (fn v : Nat) : (s.msi fn v).writes = s.writes := by unfold State.msi; split <;> rfl
@[simp] theorem State.msi_marks (s : State) (fn v : Nat) : (s.msi fn v).marks = s.marks := by unfold State.msi; split <;> rfl
@[simp] theorem State.msi_hbmq (s : State) (fn v : Nat) : (s.msi fn v).hbmq = s.hbmq := by unfold State.msi; split <;> rfl
@[simp] theorem State.msi_wants (s : State) (fn v : Nat) : (s.msi fn v).wants = s.wants := by unfold State.msi; split <;> rfl
@[simp] theorem State.msi_grants (s : State) (fn v : Nat) : (s.msi fn v).grants = s.grants := by unfold State.msi; split <;> rfl
@[simp] theorem State.msi_crews (s : State) (fn v : Nat) : (s.msi fn v).crews = s.crews := by unfold State.msi; split <;> rfl
@[simp] theorem State.msi_cards (s : State) (fn v : Nat) : (s.msi fn v).cards = s.cards := by unfold State.msi; split <;> rfl
@[simp] theorem State.msi_gens (s : State) (fn v : Nat) : (s.msi fn v).gens = s.gens := by unfold State.msi; split <;> rfl
@[simp] theorem State.msi_strays (s : State) (fn v : Nat) : (s.msi fn v).strays = s.strays := by unfold State.msi; split <;> rfl
@[simp] theorem State.msi_l1 (s : State) (fn v : Nat) : (s.msi fn v).l1 = s.l1 := by unfold State.msi; split <;> rfl
@[simp] theorem State.msi_tlb (s : State) (fn v : Nat) : (s.msi fn v).tlb = s.tlb := by unfold State.msi; split <;> rfl
@[simp] theorem State.msi_icache (s : State) (fn v : Nat) : (s.msi fn v).icache = s.icache := by unfold State.msi; split <;> rfl
@[simp] theorem State.msi_clusters (s : State) (fn v : Nat) : (s.msi fn v).clusters = s.clusters := by unfold State.msi; split <;> rfl
@[simp] theorem State.msi_buckets (s : State) (fn v : Nat) : (s.msi fn v).buckets = s.buckets := by unfold State.msi; split <;> rfl
@[simp] theorem State.msi_served (s : State) (fn v : Nat) : (s.msi fn v).served = s.served := by unfold State.msi; split <;> rfl
@[simp] theorem State.msi_cardServed (s : State) (fn v : Nat) : (s.msi fn v).cardServed = s.cardServed := by unfold State.msi; split <;> rfl
@[simp] theorem State.msi_walkers (s : State) (fn v : Nat) : (s.msi fn v).walkers = s.walkers := by unfold State.msi; split <;> rfl
@[simp] theorem State.msi_parts (s : State) (fn v : Nat) : (s.msi fn v).parts = s.parts := by unfold State.msi; split <;> rfl
@[simp] theorem State.msi_funcs (s : State) (fn v : Nat) : (s.msi fn v).funcs = s.funcs := by unfold State.msi; split <;> rfl
@[simp] theorem State.msi_ports (s : State) (fn v : Nat) : (s.msi fn v).ports = s.ports := by unfold State.msi; split <;> rfl
@[simp] theorem State.msi_routes (s : State) (fn v : Nat) : (s.msi fn v).routes = s.routes := by unfold State.msi; split <;> rfl
@[simp] theorem State.msi_links (s : State) (fn v : Nat) : (s.msi fn v).links = s.links := by unfold State.msi; split <;> rfl
@[simp] theorem State.msi_answers (s : State) (fn v : Nat) : (s.msi fn v).answers = s.answers := by unfold State.msi; split <;> rfl
@[simp] theorem State.msi_answered (s : State) (fn v : Nat) : (s.msi fn v).answered = s.answered := by unfold State.msi; split <;> rfl
@[simp] theorem State.msi_posted (s : State) (fn v : Nat) : (s.msi fn v).posted = s.posted := by unfold State.msi; split <;> rfl
@[simp] theorem State.msi_expired (s : State) (fn v : Nat) : (s.msi fn v).expired = s.expired := by unfold State.msi; split <;> rfl
@[simp] theorem State.msi_downs (s : State) (fn v : Nat) : (s.msi fn v).downs = s.downs := by unfold State.msi; split <;> rfl
@[simp] theorem State.msi_parked (s : State) (fn v : Nat) : (s.msi fn v).parked = s.parked := by unfold State.msi; split <;> rfl
@[simp] theorem State.msi_insts (s : State) (fn v : Nat) : (s.msi fn v).insts = s.insts := by unfold State.msi; split <;> rfl
@[simp] theorem State.msi_lwriter (s : State) (fn v : Nat) : (s.msi fn v).lwriter = s.lwriter := by unfold State.msi; split <;> rfl
@[simp] theorem State.msi_clean (s : State) (fn v : Nat) : (s.msi fn v).clean = s.clean := by unfold State.msi; split <;> rfl
@[simp] theorem State.msi_accClean (s : State) (fn v : Nat) : (s.msi fn v).accClean = s.accClean := by unfold State.msi; split <;> rfl
@[simp] theorem State.msi_veil (s : State) (fn v : Nat) : (s.msi fn v).veil = s.veil := by unfold State.msi; split <;> rfl
@[simp] theorem State.msi_coreReset (s : State) (fn v : Nat) : (s.msi fn v).coreReset = s.coreReset := by unfold State.msi; split <;> rfl
@[simp] theorem State.msi_cc (s : State) (fn v : Nat) : (s.msi fn v).cc = s.cc := by unfold State.msi; split <;> rfl
@[simp] theorem State.msi_log (s : State) (fn v : Nat) : (s.msi fn v).log = s.log := by unfold State.msi; split <;> rfl

@[simp] theorem State.setReg_agenda (s : State) (r : Reg) (v : DWord) : (s.setReg r v).agenda = s.agenda := rfl
@[simp] theorem State.setReg_fresh (s : State) (r : Reg) (v : DWord) : (s.setReg r v).fresh = s.fresh := rfl
@[simp] theorem State.setReg_cur (s : State) (r : Reg) (v : DWord) : (s.setReg r v).cur = s.cur := rfl
@[simp] theorem State.setReg_awake (s : State) (r : Reg) (v : DWord) : (s.setReg r v).awake = s.awake := rfl
@[simp] theorem State.setReg_taken (s : State) (r : Reg) (v : DWord) : (s.setReg r v).taken = s.taken := rfl
@[simp] theorem State.setReg_pipes (s : State) (r : Reg) (v : DWord) : (s.setReg r v).pipes = s.pipes := rfl
@[simp] theorem State.setReg_yielded (s : State) (r : Reg) (v : DWord) : (s.setReg r v).yielded = s.yielded := rfl
@[simp] theorem State.setReg_rests (s : State) (r : Reg) (v : DWord) : (s.setReg r v).rests = s.rests := rfl
@[simp] theorem State.setReg_lag (s : State) (r : Reg) (v : DWord) : (s.setReg r v).lag = s.lag := rfl
@[simp] theorem State.setReg_nextId (s : State) (r : Reg) (v : DWord) : (s.setReg r v).nextId = s.nextId := rfl
@[simp] theorem State.setReg_fab (s : State) (r : Reg) (v : DWord) : (s.setReg r v).fab = s.fab := rfl
@[simp] theorem State.setReg_powered (s : State) (r : Reg) (v : DWord) : (s.setReg r v).powered = s.powered := rfl
@[simp] theorem State.setReg_home (s : State) (r : Reg) (v : DWord) : (s.setReg r v).home = s.home := rfl
@[simp] theorem State.setReg_msc (s : State) (r : Reg) (v : DWord) : (s.setReg r v).msc = s.msc := rfl
@[simp] theorem State.setReg_parity (s : State) (r : Reg) (v : DWord) : (s.setReg r v).parity = s.parity := rfl
@[simp] theorem State.setReg_deltas (s : State) (r : Reg) (v : DWord) : (s.setReg r v).deltas = s.deltas := rfl
@[simp] theorem State.setReg_poison (s : State) (r : Reg) (v : DWord) : (s.setReg r v).poison = s.poison := rfl
@[simp] theorem State.setReg_checks (s : State) (r : Reg) (v : DWord) : (s.setReg r v).checks = s.checks := rfl
@[simp] theorem State.setReg_uncorr (s : State) (r : Reg) (v : DWord) : (s.setReg r v).uncorr = s.uncorr := rfl
@[simp] theorem State.setReg_parityBad (s : State) (r : Reg) (v : DWord) : (s.setReg r v).parityBad = s.parityBad := rfl
@[simp] theorem State.setReg_parityChecks (s : State) (r : Reg) (v : DWord) : (s.setReg r v).parityChecks = s.parityChecks := rfl
@[simp] theorem State.setReg_scrubs (s : State) (r : Reg) (v : DWord) : (s.setReg r v).scrubs = s.scrubs := rfl
@[simp] theorem State.setReg_owners (s : State) (r : Reg) (v : DWord) : (s.setReg r v).owners = s.owners := rfl
@[simp] theorem State.setReg_lost (s : State) (r : Reg) (v : DWord) : (s.setReg r v).lost = s.lost := rfl
@[simp] theorem State.setReg_loads (s : State) (r : Reg) (v : DWord) : (s.setReg r v).loads = s.loads := rfl
@[simp] theorem State.setReg_writes (s : State) (r : Reg) (v : DWord) : (s.setReg r v).writes = s.writes := rfl
@[simp] theorem State.setReg_marks (s : State) (r : Reg) (v : DWord) : (s.setReg r v).marks = s.marks := rfl
@[simp] theorem State.setReg_hbmq (s : State) (r : Reg) (v : DWord) : (s.setReg r v).hbmq = s.hbmq := rfl
@[simp] theorem State.setReg_wants (s : State) (r : Reg) (v : DWord) : (s.setReg r v).wants = s.wants := rfl
@[simp] theorem State.setReg_grants (s : State) (r : Reg) (v : DWord) : (s.setReg r v).grants = s.grants := rfl
@[simp] theorem State.setReg_crews (s : State) (r : Reg) (v : DWord) : (s.setReg r v).crews = s.crews := rfl
@[simp] theorem State.setReg_cards (s : State) (r : Reg) (v : DWord) : (s.setReg r v).cards = s.cards := rfl
@[simp] theorem State.setReg_gens (s : State) (r : Reg) (v : DWord) : (s.setReg r v).gens = s.gens := rfl
@[simp] theorem State.setReg_strays (s : State) (r : Reg) (v : DWord) : (s.setReg r v).strays = s.strays := rfl
@[simp] theorem State.setReg_l1 (s : State) (r : Reg) (v : DWord) : (s.setReg r v).l1 = s.l1 := rfl
@[simp] theorem State.setReg_tlb (s : State) (r : Reg) (v : DWord) : (s.setReg r v).tlb = s.tlb := rfl
@[simp] theorem State.setReg_icache (s : State) (r : Reg) (v : DWord) : (s.setReg r v).icache = s.icache := rfl
@[simp] theorem State.setReg_clusters (s : State) (r : Reg) (v : DWord) : (s.setReg r v).clusters = s.clusters := rfl
@[simp] theorem State.setReg_buckets (s : State) (r : Reg) (v : DWord) : (s.setReg r v).buckets = s.buckets := rfl
@[simp] theorem State.setReg_served (s : State) (r : Reg) (v : DWord) : (s.setReg r v).served = s.served := rfl
@[simp] theorem State.setReg_cardServed (s : State) (r : Reg) (v : DWord) : (s.setReg r v).cardServed = s.cardServed := rfl
@[simp] theorem State.setReg_walkers (s : State) (r : Reg) (v : DWord) : (s.setReg r v).walkers = s.walkers := rfl
@[simp] theorem State.setReg_parts (s : State) (r : Reg) (v : DWord) : (s.setReg r v).parts = s.parts := rfl
@[simp] theorem State.setReg_funcs (s : State) (r : Reg) (v : DWord) : (s.setReg r v).funcs = s.funcs := rfl
@[simp] theorem State.setReg_msix (s : State) (r : Reg) (v : DWord) : (s.setReg r v).msix = s.msix := rfl
@[simp] theorem State.setReg_ports (s : State) (r : Reg) (v : DWord) : (s.setReg r v).ports = s.ports := rfl
@[simp] theorem State.setReg_routes (s : State) (r : Reg) (v : DWord) : (s.setReg r v).routes = s.routes := rfl
@[simp] theorem State.setReg_links (s : State) (r : Reg) (v : DWord) : (s.setReg r v).links = s.links := rfl
@[simp] theorem State.setReg_answers (s : State) (r : Reg) (v : DWord) : (s.setReg r v).answers = s.answers := rfl
@[simp] theorem State.setReg_answered (s : State) (r : Reg) (v : DWord) : (s.setReg r v).answered = s.answered := rfl
@[simp] theorem State.setReg_posted (s : State) (r : Reg) (v : DWord) : (s.setReg r v).posted = s.posted := rfl
@[simp] theorem State.setReg_expired (s : State) (r : Reg) (v : DWord) : (s.setReg r v).expired = s.expired := rfl
@[simp] theorem State.setReg_downs (s : State) (r : Reg) (v : DWord) : (s.setReg r v).downs = s.downs := rfl
@[simp] theorem State.setReg_parked (s : State) (r : Reg) (v : DWord) : (s.setReg r v).parked = s.parked := rfl
@[simp] theorem State.setReg_insts (s : State) (r : Reg) (v : DWord) : (s.setReg r v).insts = s.insts := rfl
@[simp] theorem State.setReg_lwriter (s : State) (r : Reg) (v : DWord) : (s.setReg r v).lwriter = s.lwriter := rfl
@[simp] theorem State.setReg_clean (s : State) (r : Reg) (v : DWord) : (s.setReg r v).clean = s.clean := rfl
@[simp] theorem State.setReg_accClean (s : State) (r : Reg) (v : DWord) : (s.setReg r v).accClean = s.accClean := rfl
@[simp] theorem State.setReg_veil (s : State) (r : Reg) (v : DWord) : (s.setReg r v).veil = s.veil := rfl
@[simp] theorem State.setReg_coreReset (s : State) (r : Reg) (v : DWord) : (s.setReg r v).coreReset = s.coreReset := rfl
@[simp] theorem State.setReg_cc (s : State) (r : Reg) (v : DWord) : (s.setReg r v).cc = s.cc := rfl
@[simp] theorem State.setReg_log (s : State) (r : Reg) (v : DWord) : (s.setReg r v).log = s.log := rfl

@[simp] theorem State.setField_agenda (s : State) (r : Reg) (lo n v : Nat) : (s.setField r lo n v).agenda = s.agenda := rfl
@[simp] theorem State.setField_fresh (s : State) (r : Reg) (lo n v : Nat) : (s.setField r lo n v).fresh = s.fresh := rfl
@[simp] theorem State.setField_cur (s : State) (r : Reg) (lo n v : Nat) : (s.setField r lo n v).cur = s.cur := rfl
@[simp] theorem State.setField_awake (s : State) (r : Reg) (lo n v : Nat) : (s.setField r lo n v).awake = s.awake := rfl
@[simp] theorem State.setField_taken (s : State) (r : Reg) (lo n v : Nat) : (s.setField r lo n v).taken = s.taken := rfl
@[simp] theorem State.setField_pipes (s : State) (r : Reg) (lo n v : Nat) : (s.setField r lo n v).pipes = s.pipes := rfl
@[simp] theorem State.setField_yielded (s : State) (r : Reg) (lo n v : Nat) : (s.setField r lo n v).yielded = s.yielded := rfl
@[simp] theorem State.setField_rests (s : State) (r : Reg) (lo n v : Nat) : (s.setField r lo n v).rests = s.rests := rfl
@[simp] theorem State.setField_lag (s : State) (r : Reg) (lo n v : Nat) : (s.setField r lo n v).lag = s.lag := rfl
@[simp] theorem State.setField_nextId (s : State) (r : Reg) (lo n v : Nat) : (s.setField r lo n v).nextId = s.nextId := rfl
@[simp] theorem State.setField_fab (s : State) (r : Reg) (lo n v : Nat) : (s.setField r lo n v).fab = s.fab := rfl
@[simp] theorem State.setField_powered (s : State) (r : Reg) (lo n v : Nat) : (s.setField r lo n v).powered = s.powered := rfl
@[simp] theorem State.setField_home (s : State) (r : Reg) (lo n v : Nat) : (s.setField r lo n v).home = s.home := rfl
@[simp] theorem State.setField_msc (s : State) (r : Reg) (lo n v : Nat) : (s.setField r lo n v).msc = s.msc := rfl
@[simp] theorem State.setField_parity (s : State) (r : Reg) (lo n v : Nat) : (s.setField r lo n v).parity = s.parity := rfl
@[simp] theorem State.setField_deltas (s : State) (r : Reg) (lo n v : Nat) : (s.setField r lo n v).deltas = s.deltas := rfl
@[simp] theorem State.setField_poison (s : State) (r : Reg) (lo n v : Nat) : (s.setField r lo n v).poison = s.poison := rfl
@[simp] theorem State.setField_checks (s : State) (r : Reg) (lo n v : Nat) : (s.setField r lo n v).checks = s.checks := rfl
@[simp] theorem State.setField_uncorr (s : State) (r : Reg) (lo n v : Nat) : (s.setField r lo n v).uncorr = s.uncorr := rfl
@[simp] theorem State.setField_parityBad (s : State) (r : Reg) (lo n v : Nat) : (s.setField r lo n v).parityBad = s.parityBad := rfl
@[simp] theorem State.setField_parityChecks (s : State) (r : Reg) (lo n v : Nat) : (s.setField r lo n v).parityChecks = s.parityChecks := rfl
@[simp] theorem State.setField_scrubs (s : State) (r : Reg) (lo n v : Nat) : (s.setField r lo n v).scrubs = s.scrubs := rfl
@[simp] theorem State.setField_owners (s : State) (r : Reg) (lo n v : Nat) : (s.setField r lo n v).owners = s.owners := rfl
@[simp] theorem State.setField_lost (s : State) (r : Reg) (lo n v : Nat) : (s.setField r lo n v).lost = s.lost := rfl
@[simp] theorem State.setField_loads (s : State) (r : Reg) (lo n v : Nat) : (s.setField r lo n v).loads = s.loads := rfl
@[simp] theorem State.setField_writes (s : State) (r : Reg) (lo n v : Nat) : (s.setField r lo n v).writes = s.writes := rfl
@[simp] theorem State.setField_marks (s : State) (r : Reg) (lo n v : Nat) : (s.setField r lo n v).marks = s.marks := rfl
@[simp] theorem State.setField_hbmq (s : State) (r : Reg) (lo n v : Nat) : (s.setField r lo n v).hbmq = s.hbmq := rfl
@[simp] theorem State.setField_wants (s : State) (r : Reg) (lo n v : Nat) : (s.setField r lo n v).wants = s.wants := rfl
@[simp] theorem State.setField_grants (s : State) (r : Reg) (lo n v : Nat) : (s.setField r lo n v).grants = s.grants := rfl
@[simp] theorem State.setField_crews (s : State) (r : Reg) (lo n v : Nat) : (s.setField r lo n v).crews = s.crews := rfl
@[simp] theorem State.setField_cards (s : State) (r : Reg) (lo n v : Nat) : (s.setField r lo n v).cards = s.cards := rfl
@[simp] theorem State.setField_gens (s : State) (r : Reg) (lo n v : Nat) : (s.setField r lo n v).gens = s.gens := rfl
@[simp] theorem State.setField_strays (s : State) (r : Reg) (lo n v : Nat) : (s.setField r lo n v).strays = s.strays := rfl
@[simp] theorem State.setField_l1 (s : State) (r : Reg) (lo n v : Nat) : (s.setField r lo n v).l1 = s.l1 := rfl
@[simp] theorem State.setField_tlb (s : State) (r : Reg) (lo n v : Nat) : (s.setField r lo n v).tlb = s.tlb := rfl
@[simp] theorem State.setField_icache (s : State) (r : Reg) (lo n v : Nat) : (s.setField r lo n v).icache = s.icache := rfl
@[simp] theorem State.setField_clusters (s : State) (r : Reg) (lo n v : Nat) : (s.setField r lo n v).clusters = s.clusters := rfl
@[simp] theorem State.setField_buckets (s : State) (r : Reg) (lo n v : Nat) : (s.setField r lo n v).buckets = s.buckets := rfl
@[simp] theorem State.setField_served (s : State) (r : Reg) (lo n v : Nat) : (s.setField r lo n v).served = s.served := rfl
@[simp] theorem State.setField_cardServed (s : State) (r : Reg) (lo n v : Nat) : (s.setField r lo n v).cardServed = s.cardServed := rfl
@[simp] theorem State.setField_walkers (s : State) (r : Reg) (lo n v : Nat) : (s.setField r lo n v).walkers = s.walkers := rfl
@[simp] theorem State.setField_parts (s : State) (r : Reg) (lo n v : Nat) : (s.setField r lo n v).parts = s.parts := rfl
@[simp] theorem State.setField_funcs (s : State) (r : Reg) (lo n v : Nat) : (s.setField r lo n v).funcs = s.funcs := rfl
@[simp] theorem State.setField_msix (s : State) (r : Reg) (lo n v : Nat) : (s.setField r lo n v).msix = s.msix := rfl
@[simp] theorem State.setField_ports (s : State) (r : Reg) (lo n v : Nat) : (s.setField r lo n v).ports = s.ports := rfl
@[simp] theorem State.setField_routes (s : State) (r : Reg) (lo n v : Nat) : (s.setField r lo n v).routes = s.routes := rfl
@[simp] theorem State.setField_links (s : State) (r : Reg) (lo n v : Nat) : (s.setField r lo n v).links = s.links := rfl
@[simp] theorem State.setField_answers (s : State) (r : Reg) (lo n v : Nat) : (s.setField r lo n v).answers = s.answers := rfl
@[simp] theorem State.setField_answered (s : State) (r : Reg) (lo n v : Nat) : (s.setField r lo n v).answered = s.answered := rfl
@[simp] theorem State.setField_posted (s : State) (r : Reg) (lo n v : Nat) : (s.setField r lo n v).posted = s.posted := rfl
@[simp] theorem State.setField_expired (s : State) (r : Reg) (lo n v : Nat) : (s.setField r lo n v).expired = s.expired := rfl
@[simp] theorem State.setField_downs (s : State) (r : Reg) (lo n v : Nat) : (s.setField r lo n v).downs = s.downs := rfl
@[simp] theorem State.setField_parked (s : State) (r : Reg) (lo n v : Nat) : (s.setField r lo n v).parked = s.parked := rfl
@[simp] theorem State.setField_insts (s : State) (r : Reg) (lo n v : Nat) : (s.setField r lo n v).insts = s.insts := rfl
@[simp] theorem State.setField_lwriter (s : State) (r : Reg) (lo n v : Nat) : (s.setField r lo n v).lwriter = s.lwriter := rfl
@[simp] theorem State.setField_clean (s : State) (r : Reg) (lo n v : Nat) : (s.setField r lo n v).clean = s.clean := rfl
@[simp] theorem State.setField_accClean (s : State) (r : Reg) (lo n v : Nat) : (s.setField r lo n v).accClean = s.accClean := rfl
@[simp] theorem State.setField_veil (s : State) (r : Reg) (lo n v : Nat) : (s.setField r lo n v).veil = s.veil := rfl
@[simp] theorem State.setField_coreReset (s : State) (r : Reg) (lo n v : Nat) : (s.setField r lo n v).coreReset = s.coreReset := rfl
@[simp] theorem State.setField_cc (s : State) (r : Reg) (lo n v : Nat) : (s.setField r lo n v).cc = s.cc := rfl
@[simp] theorem State.setField_log (s : State) (r : Reg) (lo n v : Nat) : (s.setField r lo n v).log = s.log := rfl

@[simp] theorem State.pushWrite_agenda (s : State) (w : Write) : (s.pushWrite w).agenda = s.agenda := rfl
@[simp] theorem State.pushWrite_fresh (s : State) (w : Write) : (s.pushWrite w).fresh = s.fresh := rfl
@[simp] theorem State.pushWrite_cur (s : State) (w : Write) : (s.pushWrite w).cur = s.cur := rfl
@[simp] theorem State.pushWrite_awake (s : State) (w : Write) : (s.pushWrite w).awake = s.awake := rfl
@[simp] theorem State.pushWrite_taken (s : State) (w : Write) : (s.pushWrite w).taken = s.taken := rfl
@[simp] theorem State.pushWrite_pipes (s : State) (w : Write) : (s.pushWrite w).pipes = s.pipes := rfl
@[simp] theorem State.pushWrite_yielded (s : State) (w : Write) : (s.pushWrite w).yielded = s.yielded := rfl
@[simp] theorem State.pushWrite_rests (s : State) (w : Write) : (s.pushWrite w).rests = s.rests := rfl
@[simp] theorem State.pushWrite_lag (s : State) (w : Write) : (s.pushWrite w).lag = s.lag := rfl
@[simp] theorem State.pushWrite_nextId (s : State) (w : Write) : (s.pushWrite w).nextId = s.nextId := rfl
@[simp] theorem State.pushWrite_fab (s : State) (w : Write) : (s.pushWrite w).fab = s.fab := rfl
@[simp] theorem State.pushWrite_powered (s : State) (w : Write) : (s.pushWrite w).powered = s.powered := rfl
@[simp] theorem State.pushWrite_regs (s : State) (w : Write) : (s.pushWrite w).regs = s.regs := rfl
@[simp] theorem State.pushWrite_home (s : State) (w : Write) : (s.pushWrite w).home = s.home := rfl
@[simp] theorem State.pushWrite_msc (s : State) (w : Write) : (s.pushWrite w).msc = s.msc := rfl
@[simp] theorem State.pushWrite_parity (s : State) (w : Write) : (s.pushWrite w).parity = s.parity := rfl
@[simp] theorem State.pushWrite_deltas (s : State) (w : Write) : (s.pushWrite w).deltas = s.deltas := rfl
@[simp] theorem State.pushWrite_poison (s : State) (w : Write) : (s.pushWrite w).poison = s.poison := rfl
@[simp] theorem State.pushWrite_checks (s : State) (w : Write) : (s.pushWrite w).checks = s.checks := rfl
@[simp] theorem State.pushWrite_uncorr (s : State) (w : Write) : (s.pushWrite w).uncorr = s.uncorr := rfl
@[simp] theorem State.pushWrite_parityBad (s : State) (w : Write) : (s.pushWrite w).parityBad = s.parityBad := rfl
@[simp] theorem State.pushWrite_parityChecks (s : State) (w : Write) : (s.pushWrite w).parityChecks = s.parityChecks := rfl
@[simp] theorem State.pushWrite_scrubs (s : State) (w : Write) : (s.pushWrite w).scrubs = s.scrubs := rfl
@[simp] theorem State.pushWrite_owners (s : State) (w : Write) : (s.pushWrite w).owners = s.owners := rfl
@[simp] theorem State.pushWrite_lost (s : State) (w : Write) : (s.pushWrite w).lost = s.lost := rfl
@[simp] theorem State.pushWrite_loads (s : State) (w : Write) : (s.pushWrite w).loads = s.loads := rfl
@[simp] theorem State.pushWrite_marks (s : State) (w : Write) : (s.pushWrite w).marks = s.marks := rfl
@[simp] theorem State.pushWrite_hbmq (s : State) (w : Write) : (s.pushWrite w).hbmq = s.hbmq := rfl
@[simp] theorem State.pushWrite_wants (s : State) (w : Write) : (s.pushWrite w).wants = s.wants := rfl
@[simp] theorem State.pushWrite_grants (s : State) (w : Write) : (s.pushWrite w).grants = s.grants := rfl
@[simp] theorem State.pushWrite_crews (s : State) (w : Write) : (s.pushWrite w).crews = s.crews := rfl
@[simp] theorem State.pushWrite_cards (s : State) (w : Write) : (s.pushWrite w).cards = s.cards := rfl
@[simp] theorem State.pushWrite_gens (s : State) (w : Write) : (s.pushWrite w).gens = s.gens := rfl
@[simp] theorem State.pushWrite_strays (s : State) (w : Write) : (s.pushWrite w).strays = s.strays := rfl
@[simp] theorem State.pushWrite_l1 (s : State) (w : Write) : (s.pushWrite w).l1 = s.l1 := rfl
@[simp] theorem State.pushWrite_tlb (s : State) (w : Write) : (s.pushWrite w).tlb = s.tlb := rfl
@[simp] theorem State.pushWrite_icache (s : State) (w : Write) : (s.pushWrite w).icache = s.icache := rfl
@[simp] theorem State.pushWrite_clusters (s : State) (w : Write) : (s.pushWrite w).clusters = s.clusters := rfl
@[simp] theorem State.pushWrite_buckets (s : State) (w : Write) : (s.pushWrite w).buckets = s.buckets := rfl
@[simp] theorem State.pushWrite_served (s : State) (w : Write) : (s.pushWrite w).served = s.served := rfl
@[simp] theorem State.pushWrite_cardServed (s : State) (w : Write) : (s.pushWrite w).cardServed = s.cardServed := rfl
@[simp] theorem State.pushWrite_walkers (s : State) (w : Write) : (s.pushWrite w).walkers = s.walkers := rfl
@[simp] theorem State.pushWrite_parts (s : State) (w : Write) : (s.pushWrite w).parts = s.parts := rfl
@[simp] theorem State.pushWrite_funcs (s : State) (w : Write) : (s.pushWrite w).funcs = s.funcs := rfl
@[simp] theorem State.pushWrite_msix (s : State) (w : Write) : (s.pushWrite w).msix = s.msix := rfl
@[simp] theorem State.pushWrite_ports (s : State) (w : Write) : (s.pushWrite w).ports = s.ports := rfl
@[simp] theorem State.pushWrite_routes (s : State) (w : Write) : (s.pushWrite w).routes = s.routes := rfl
@[simp] theorem State.pushWrite_links (s : State) (w : Write) : (s.pushWrite w).links = s.links := rfl
@[simp] theorem State.pushWrite_answers (s : State) (w : Write) : (s.pushWrite w).answers = s.answers := rfl
@[simp] theorem State.pushWrite_answered (s : State) (w : Write) : (s.pushWrite w).answered = s.answered := rfl
@[simp] theorem State.pushWrite_posted (s : State) (w : Write) : (s.pushWrite w).posted = s.posted := rfl
@[simp] theorem State.pushWrite_expired (s : State) (w : Write) : (s.pushWrite w).expired = s.expired := rfl
@[simp] theorem State.pushWrite_downs (s : State) (w : Write) : (s.pushWrite w).downs = s.downs := rfl
@[simp] theorem State.pushWrite_parked (s : State) (w : Write) : (s.pushWrite w).parked = s.parked := rfl
@[simp] theorem State.pushWrite_insts (s : State) (w : Write) : (s.pushWrite w).insts = s.insts := rfl
@[simp] theorem State.pushWrite_lwriter (s : State) (w : Write) : (s.pushWrite w).lwriter = s.lwriter := rfl
@[simp] theorem State.pushWrite_clean (s : State) (w : Write) : (s.pushWrite w).clean = s.clean := rfl
@[simp] theorem State.pushWrite_accClean (s : State) (w : Write) : (s.pushWrite w).accClean = s.accClean := rfl
@[simp] theorem State.pushWrite_veil (s : State) (w : Write) : (s.pushWrite w).veil = s.veil := rfl
@[simp] theorem State.pushWrite_coreReset (s : State) (w : Write) : (s.pushWrite w).coreReset = s.coreReset := rfl
@[simp] theorem State.pushWrite_cc (s : State) (w : Write) : (s.pushWrite w).cc = s.cc := rfl
@[simp] theorem State.pushWrite_log (s : State) (w : Write) : (s.pushWrite w).log = s.log := rfl

end Sys2Proof.Machine
end

