-- ==== Sys2Proof/Laws/Issue.lean ====
section
/-!
SUPPORT. What the issue of a register instruction can do: each member's thread changes by its own update, and nothing
else of the state does.
-/
namespace Sys2Proof.Machine
open Sys2Proof

theorem Crew.SameBut.rfl (c : Crew) : c.SameBut c := by cases c; simp [Crew.SameBut]

theorem Crew.SameBut.trans {a b c : Crew} (h : a.SameBut b) (k : b.SameBut c) : a.SameBut c := by
  unfold Crew.SameBut at *; rw [k, h]

theorem State.SameBut.rfl (s : State) : s.SameBut s := by
  refine ⟨by cases s; simp, fun c => ?_⟩
  cases s.crew c <;> simp [Crew.SameBut.rfl]

theorem State.SameBut.trans {a b c : State} (h : a.SameBut b) (k : b.SameBut c) : a.SameBut c := by
  refine ⟨by rw [k.1, h.1], fun n => ?_⟩
  have h2 := h.2 n
  have k2 := k.2 n
  cases ha : a.crew n <;> cases hb : b.crew n <;> cases hc : c.crew n <;> simp_all
  exact Crew.SameBut.trans h2 k2

theorem State.crew_putCrew (s : State) (c d : Nat) (x : Crew) : (s.putCrew c x).crew d = if d = c then some x else s.crew d := by
  simp only [State.crew, State.putCrew, FMap.get_set]

theorem Crew.thread_putThread (c : Crew) (i j : Nat) (t : Thread) :
    (c.putThread i t).thread j = if j = i then some t else c.thread j := by
  simp only [Crew.thread, Crew.putThread, FMap.get_set]

theorem State.crew_of_thread {s : State} {r : ThreadRef} {t : Thread} (h : s.thread r = some t) :
    ∃ c, s.crew r.crew = some c ∧ c.thread r.tid = some t := by
  unfold State.thread at h
  cases hc : s.crew r.crew with
  | none => simp [hc] at h
  | some c => exact ⟨c, Eq.refl _, by simpa [hc] using h⟩

/-- A thread that was written reads as written; every other thread reads as before. -/
theorem State.thread_putThread {s : State} {r : ThreadRef} {t : Thread} (h : s.thread r = some t) (u : Thread) (q : ThreadRef) :
    (s.putThread r u).thread q = if q = r then some u else s.thread q := by
  obtain ⟨c, hc, -⟩ := State.crew_of_thread h
  unfold State.putThread State.onCrew
  simp only [hc, State.thread, State.crew_putCrew]
  by_cases h1 : q.crew = r.crew
  · simp only [h1, if_true, Option.bind_some, Crew.thread_putThread]
    by_cases h2 : q.tid = r.tid
    · simp [h2, show q = r by cases q; cases r; simp_all]
    · simp [h2, show q ≠ r by rintro e; exact h2 (by rw [e]), hc]
  · simp [h1, show q ≠ r by rintro e; exact h1 (by rw [e])]

theorem State.sameBut_putThread (s : State) (r : ThreadRef) (u : Thread) : s.SameBut (s.putThread r u) := by
  unfold State.putThread State.onCrew
  cases hc : s.crew r.crew with
  | none => exact State.SameBut.rfl s
  | some c =>
    refine ⟨by cases s; simp [State.putCrew], fun n => ?_⟩
    rw [State.crew_putCrew]
    by_cases h : n = r.crew
    · subst h; simp [hc, Crew.SameBut, Crew.putThread]
    · simp only [h, if_false]
      cases s.crew n <;> simp [Crew.SameBut.rfl]

theorem State.member_regOp {s : State} {i : Instr} {g : Guard} {upd : Thread → Thread} {tid : Nat} {t : Thread}
    (h : s.thread ⟨s.cur.crew, tid⟩ = some t) (ht : t.ready g (usesOf i) ≠ .trap) :
    s.member i g (fun s r t => s.putThread r ((upd t).advance s.cur.next)) tid =
      s.putThread ⟨s.cur.crew, tid⟩ (memberUpd i g upd s.cur.next t) := by
  unfold State.member memberUpd
  simp only [h]
  cases hr : t.ready g (usesOf i) <;> simp_all [Thread.advance, Thread.wait]

/-- The issue of a register instruction whose members exist and do not trap: each member's thread is updated, the others
and the rest of the state stay. -/
theorem State.regOp_spec (s : State) (i : Instr) (g : Guard) (upd : Thread → Thread) (hn : s.cur.members.Nodup)
    (hm : ∀ tid ∈ s.cur.members, ∃ t, s.thread ⟨s.cur.crew, tid⟩ = some t ∧ t.ready g (usesOf i) ≠ .trap) :
    s.SameBut (s.regOp i g upd) ∧
    ∀ q, (s.regOp i g upd).thread q =
      if q.crew = s.cur.crew ∧ q.tid ∈ s.cur.members then (s.thread q).map (memberUpd i g upd s.cur.next) else s.thread q := by
  unfold State.regOp State.issue
  generalize hl : s.cur.members = l at hn hm
  clear hl
  induction l generalizing s with
  | nil => exact ⟨State.SameBut.rfl s, fun q => by simp⟩
  | cons tid l ih =>
    obtain ⟨t, ht, hr⟩ := hm tid (by simp)
    rw [List.nodup_cons] at hn
    rw [List.foldl_cons, State.member_regOp ht hr]
    have hcur : (s.putThread ⟨s.cur.crew, tid⟩ (memberUpd i g upd s.cur.next t)).cur = s.cur := by simp
    have hth := State.thread_putThread ht (memberUpd i g upd s.cur.next t)
    have := ih (s.putThread ⟨s.cur.crew, tid⟩ (memberUpd i g upd s.cur.next t)) hn.2 (fun u hu => by
      rw [hcur, hth]
      have : u ≠ tid := fun e => hn.1 (e ▸ hu)
      simp only [ThreadRef.mk.injEq, true_and, this, if_false]
      exact hm u (by simp [hu]))
    rw [hcur] at this
    refine ⟨State.SameBut.trans (State.sameBut_putThread _ _ _) this.1, fun q => ?_⟩
    rw [this.2 q, hth]
    by_cases hq : q = ⟨s.cur.crew, tid⟩
    · subst hq; simp [hn.1, ht]
    · simp only [hq, if_false]
      by_cases h1 : q.crew = s.cur.crew
      · have : q.tid ≠ tid := fun e => hq (by cases q; simp_all)
        simp [h1, this]
      · simp [h1]

/-- The last of two writes of a thread is the one that counts. -/
@[simp] theorem State.putThread_putThread (s : State) (r : ThreadRef) (t u : Thread) :
    (s.putThread r t).putThread r u = s.putThread r u := by
  unfold State.putThread State.onCrew
  cases hc : s.crew r.crew with
  | none => simp [hc]
  | some c =>
    have h : (s.putCrew r.crew (c.putThread r.tid t)).crew r.crew = some (c.putThread r.tid t) := by
      simp [State.crew_putCrew]
    simp only [h]
    simp [State.putCrew, Crew.putThread]

theorem State.onThread_of {s : State} {r : ThreadRef} {t : Thread} (h : s.thread r = some t) (f : Thread → Thread) :
    s.onThread r f = s.putThread r (f t) := by simp [State.onThread, h]

theorem State.crew_putThread {s : State} {r : ThreadRef} {c : Crew} (h : s.crew r.crew = some c) (t : Thread) (d : Nat) :
    (s.putThread r t).crew d = if d = r.crew then some (c.putThread r.tid t) else s.crew d := by
  simp [State.putThread, State.onCrew, h, State.crew_putCrew]

/-- A group of one ready thread executes the instruction's own meaning. -/
theorem State.issue_single {s : State} {r : ThreadRef} {th : Thread} {i : Instr} {g : Guard} (h : s.Single r th i g)
    (body : State → ThreadRef → Thread → State) : s.issue i g body = body s r th := by
  obtain ⟨hc, hm, ht, hr⟩ := h
  have e : (⟨s.cur.crew, r.tid⟩ : ThreadRef) = r := by rw [hc]
  simp [State.issue, hm, State.member, e, ht, hr]

/-- The same where the members of a group wait behind one that stays. -/
theorem State.issueOrdered_single {s : State} {r : ThreadRef} {th : Thread} {i : Instr} {g : Guard} (h : s.Single r th i g)
    (body : State → ThreadRef → Thread → State) : s.issueOrdered i g body = body s r th := by
  obtain ⟨hc, hm, ht, hr⟩ := h
  have e : (⟨s.cur.crew, r.tid⟩ : ThreadRef) = r := by rw [hc]
  simp only [State.issueOrdered, hm, List.foldl_cons, List.foldl_nil, List.isEmpty_nil, if_true, State.member, e, ht, hr]
  split <;> rfl

theorem State.onlyThread_putThread {s : State} {r : ThreadRef} {t : Thread} (h : s.thread r = some t) (u : Thread) :
    s.OnlyThread (s.putThread r u) r :=
  ⟨State.sameBut_putThread s r u, fun q hq => by rw [State.thread_putThread h]; simp [hq]⟩

theorem State.thread_putThread_self {s : State} {r : ThreadRef} {t : Thread} (h : s.thread r = some t) (u : Thread) :
    (s.putThread r u).thread r = some u := by rw [State.thread_putThread h]; simp

/-- A register instruction of one ready thread. -/
theorem State.regOp_single {s : State} {r : ThreadRef} {th : Thread} {i : Instr} {g : Guard} (h : s.Single r th i g)
    (upd : Thread → Thread) : s.regOp i g upd = s.putThread r ((upd th).advance s.cur.next) := by
  unfold State.regOp; rw [State.issue_single h]

end Sys2Proof.Machine
end

