-- ==== Sys2Proof/Laws/Mem.lean ====
section
/-!
SUPPORT. The memories: what a write of bytes changes, and that every operation on home memory, on memory-side data and
on parity keeps their canonical form.
-/
namespace Sys2Proof.Machine
open Sys2Proof

theorem memInv_iff (s : State) : MemInv s ↔ s.home.wf = true ∧ s.msc.wf = true ∧ s.parity.wf = true := by
  simp [MemInv, State.memWf, and_assoc]

/-- The memories have their canonical form after reset. -/
theorem memInv_reset : MemInv State.reset := by decide

/-- A change that leaves the three memories alone keeps the invariant. -/
theorem MemInv.of_eq {s t : State} (h : MemInv s) (h1 : t.home = s.home) (h2 : t.msc = s.msc) (h3 : t.parity = s.parity) :
    MemInv t := by
  simp only [memInv_iff, h1, h2, h3] at *; exact h

/-- Adding a delta keeps the parity's canonical form. -/
theorem wf_addParity (p : FMap Byte) (k : Nat) (d : List Byte) (h : p.wf = true) : (addParity p k d).wf = true :=
  FMap.wf_setList _ _ _ h

theorem memInv_writeHome (s : State) (pa : Nat) (bs : List Byte) (h : MemInv s) : MemInv (s.writeHome pa bs) := by
  simp only [memInv_iff] at *; exact ⟨FMap.wf_setList _ _ _ h.1, h.2⟩

theorem memInv_writeUnit (s : State) (owner cls pa : Nat) (bs : List Byte) (h : MemInv s) :
    MemInv (s.writeUnit owner cls pa bs) := by
  simp only [State.writeUnit]
  split
  · exact h.of_eq rfl rfl rfl
  · exact (memInv_writeHome _ pa bs (h.of_eq rfl rfl rfl)).of_eq rfl rfl rfl

theorem memInv_veilOver (s : State) (lo n : Nat) (h : MemInv s) : MemInv (s.veilOver lo n) := by
  simp only [memInv_iff, State.veilOver] at *; exact ⟨FMap.wf_keep _ _ h.1, h.2⟩

theorem memInv_logs (s : State) (e : LogEntry) (h : MemInv s) : MemInv (s.logs e) := h.of_eq rfl rfl rfl

theorem memInv_applyPiece (s : State) (w : Write) (p : Nat × List Byte) (h : MemInv s) : MemInv (s.applyPiece w p) := by
  have h1 := (memInv_iff s).1 h
  simp only [State.applyPiece]
  split
  · exact (memInv_iff _).2 ⟨h1.1, FMap.wf_setList _ _ _ h1.2.1, wf_addParity _ _ _ h1.2.2⟩
  · split <;> exact (memInv_iff _).2 ⟨h1.1, FMap.wf_setList _ _ _ h1.2.1, h1.2.2⟩

theorem memInv_parityAnew (s : State) (pa : Nat) (h : MemInv s) : MemInv (s.parityAnew pa) := by
  have h1 := (memInv_iff s).1 h
  unfold State.parityAnew
  dsimp only
  split
  · exact h
  · generalize s.dataParity _ _ 64 = d
    rw [memInv_iff]
    exact ⟨h1.1, h1.2.1, FMap.wf_setList _ _ _ h1.2.2⟩

theorem memInv_meetBad (s : State) (ks : List Nat) (h : MemInv s) : MemInv (s.meetBad ks) := h.of_eq rfl rfl rfl

theorem memInv_poisonRun (s : State) (pa n : Nat) (h : MemInv s) : MemInv (s.poisonRun pa n) := h.of_eq rfl rfl rfl

/-- A fold of steps that keep the invariant keeps it. -/
theorem memInv_foldl {α : Type} (f : State → α → State) (hf : ∀ s a, MemInv s → MemInv (f s a)) (l : List α) (s : State)
    (h : MemInv s) : MemInv (l.foldl f s) := by
  induction l generalizing s with
  | nil => exact h
  | cons a l ih => exact ih _ (hf s a h)

/-- A write stores its bytes and leaves every other byte of home memory. -/
theorem writeHome_get (s : State) (pa : Nat) (bs : List Byte) (a : Nat) :
    (s.writeHome pa bs).home.get a = if h : pa ≤ a ∧ a - pa < bs.length then bs[a - pa]'h.2 else s.home.get a := by
  simp only [State.writeHome]
  split
  · rename_i h
    have := FMap.get_setList_same bs s.home pa (a - pa) h.2
    simpa [show pa + (a - pa) = a by omega] using this
  · rename_i h
    exact FMap.get_setList_other bs s.home pa a (by omega)

/-- What a unit stores is in home memory at once, unless it must wait at its home slice: then it changes no memory. -/
theorem writeUnit_home (s : State) (owner cls pa : Nat) (bs : List Byte) :
    (s.writeUnit owner cls pa bs).home = if s.unitHeld pa bs.length then s.home else (s.writeHome pa bs).home := by
  simp only [State.writeUnit]
  split <;> rfl

/-- No veil is left over a run that has been written. -/
theorem not_mem_unveil (vs : List Veil) (lo hi a : Nat) (h : lo ≤ a ∧ a < hi) :
    ∀ v ∈ unveil vs lo hi, ¬(v.lo ≤ a ∧ a < v.hi) := by
  intro v hv
  simp only [unveil, List.mem_flatMap] at hv
  obtain ⟨u, -, hu⟩ := hv
  split at hu
  · simp only [List.mem_singleton] at hu; subst hu; omega
  · simp only [List.mem_append] at hu
    obtain hu | hu := hu <;> split at hu <;> simp only [List.mem_singleton, List.not_mem_nil] at hu <;> subst hu <;> simp <;> omega

/-- A byte of a run reads as it was written. -/
theorem storedByte_writeHome (s : State) (pa : Nat) (bs : List Byte) (i : Nat) (h : i < bs.length) :
    (s.writeHome pa bs).storedByte (pa + i) = bs[i] := by
  have e := not_mem_unveil s.veil pa (pa + bs.length) (pa + i) ⟨by omega, by omega⟩
  have hv : (unveil s.veil pa (pa + bs.length)).find? (fun v => decide (v.lo ≤ pa + i) && decide (pa + i < v.hi)) = none := by
    rw [List.find?_eq_none]; intro v hv; have := e v hv; simpa using this
  simp only [State.storedByte, State.writeHome, hv]
  have := writeHome_get s pa bs (pa + i)
  simp only [State.writeHome] at this
  rw [this]
  simp [h]

/-- Reading a run after writing it gives what was written. -/
theorem rawBytes_writeHome (s : State) (pa : Nat) (bs : List Byte) : (s.writeHome pa bs).rawBytes pa bs.length = bs := by
  apply List.ext_getElem
  · simp [State.rawBytes]
  · intro i h1 h2
    simp only [State.rawBytes, List.getElem_map, List.getElem_range]
    exact storedByte_writeHome s pa bs i h2

end Sys2Proof.Machine
end

