-- ==== Sys2Proof/Laws/PerInstr.lean ====
section
/-!
SUPPORT. Per instruction: the opcode that its row of Table 6-5 gives it reads back as the same instruction, and an event has
no opcode.
-/
namespace Sys2Proof.Laws

/-- An instruction with words has an opcode that, with its fields, names it again; an event has none (R82, R91). -/
def Words.Statement (i : Instr) : Prop :=
  (∀ f, i.fields = some f → ∃ op, i.opcode = some op ∧ Instr.ofOpcode op f = some i) ∧ (i.fields = none → i.opcode = none)

theorem Words.of_row {i : Instr} {g : Fields} {op : BitVec 8} (h : i.fields = some g) (ho : i.opcode = some op)
    (hi : Instr.ofOpcode op g = some i) : Words.Statement i :=
  ⟨fun f hf => ⟨op, ho, by rw [h] at hf; cases hf; exact hi⟩, fun hn => by rw [h] at hn; cases hn⟩

theorem Words.of_event {i : Instr} (h : i.fields = none) (ho : i.opcode = none) : Words.Statement i :=
  ⟨fun f hf => (by rw [h] at hf; cases hf), fun _ => ho⟩

theorem Words.iadd (f : Fields) : Words.Statement (.iadd f) := Words.of_row rfl rfl rfl
theorem Words.isub (f : Fields) : Words.Statement (.isub f) := Words.of_row rfl rfl rfl
theorem Words.imul (f : Fields) : Words.Statement (.imul f) := Words.of_row rfl rfl rfl
theorem Words.imad (f : Fields) : Words.Statement (.imad f) := Words.of_row rfl rfl rfl
theorem Words.idiv (f : Fields) : Words.Statement (.idiv f) := Words.of_row rfl rfl rfl
theorem Words.irem (f : Fields) : Words.Statement (.irem f) := Words.of_row rfl rfl rfl
theorem Words.imin (f : Fields) : Words.Statement (.imin f) := Words.of_row rfl rfl rfl
theorem Words.imax (f : Fields) : Words.Statement (.imax f) := Words.of_row rfl rfl rfl
theorem Words.iabs (f : Fields) : Words.Statement (.iabs f) := Words.of_row rfl rfl rfl
theorem Words.lea (f : Fields) : Words.Statement (.lea f) := Words.of_row rfl rfl rfl
theorem Words.shl (f : Fields) : Words.Statement (.shl f) := Words.of_row rfl rfl rfl
theorem Words.shr (f : Fields) : Words.Statement (.shr f) := Words.of_row rfl rfl rfl
theorem Words.rot (f : Fields) : Words.Statement (.rot f) := Words.of_row rfl rfl rfl
theorem Words.lop3 (f : Fields) : Words.Statement (.lop3 f) := Words.of_row rfl rfl rfl
theorem Words.bfx (f : Fields) : Words.Statement (.bfx f) := Words.of_row rfl rfl rfl
theorem Words.bfi (f : Fields) : Words.Statement (.bfi f) := Words.of_row rfl rfl rfl
theorem Words.popc (f : Fields) : Words.Statement (.popc f) := Words.of_row rfl rfl rfl
theorem Words.clz (f : Fields) : Words.Statement (.clz f) := Words.of_row rfl rfl rfl
theorem Words.brev (f : Fields) : Words.Statement (.brev f) := Words.of_row rfl rfl rfl
theorem Words.bytep (f : Fields) : Words.Statement (.bytep f) := Words.of_row rfl rfl rfl
theorem Words.sel (f : Fields) : Words.Statement (.sel f) := Words.of_row rfl rfl rfl
theorem Words.mov (f : Fields) : Words.Statement (.mov f) := Words.of_row rfl rfl rfl
theorem Words.movi (f : Fields) : Words.Statement (.movi f) := Words.of_row rfl rfl rfl
theorem Words.iaddc (f : Fields) : Words.Statement (.iaddc f) := Words.of_row rfl rfl rfl
theorem Words.idp4 (f : Fields) : Words.Statement (.idp4 f) := Words.of_row rfl rfl rfl
theorem Words.icmp (f : Fields) : Words.Statement (.icmp f) := Words.of_row rfl rfl rfl
theorem Words.fcmp (f : Fields) : Words.Statement (.fcmp f) := Words.of_row rfl rfl rfl
theorem Words.plop (f : Fields) : Words.Statement (.plop f) := Words.of_row rfl rfl rfl
theorem Words.p2g (f : Fields) : Words.Statement (.p2g f) := Words.of_row rfl rfl rfl
theorem Words.g2p (f : Fields) : Words.Statement (.g2p f) := Words.of_row rfl rfl rfl
theorem Words.vote (f : Fields) : Words.Statement (.vote f) := Words.of_row rfl rfl rfl
theorem Words.shfl (f : Fields) : Words.Statement (.shfl f) := Words.of_row rfl rfl rfl
theorem Words.matchLanes (f : Fields) : Words.Statement (.matchLanes f) := Words.of_row rfl rfl rfl
theorem Words.elect (f : Fields) : Words.Statement (.elect f) := Words.of_row rfl rfl rfl
theorem Words.bred (f : Fields) : Words.Statement (.bred f) := Words.of_row rfl rfl rfl
theorem Words.bscan (f : Fields) : Words.Statement (.bscan f) := Words.of_row rfl rfl rfl
theorem Words.fbred (f : Fields) : Words.Statement (.fbred f) := Words.of_row rfl rfl rfl
theorem Words.meld (f : Fields) : Words.Statement (.meld f) := Words.of_row rfl rfl rfl
theorem Words.barc (f : Fields) : Words.Statement (.barc f) := Words.of_row rfl rfl rfl
theorem Words.bandwaitTimeout (crew : Nat) : Words.Statement (.bandwaitTimeout crew) := Words.of_event rfl rfl
theorem Words.nop (f : Fields) : Words.Statement (.nop f) := Words.of_row rfl rfl rfl
theorem Words.bra (f : Fields) : Words.Statement (.bra f) := Words.of_row rfl rfl rfl
theorem Words.brx (f : Fields) : Words.Statement (.brx f) := Words.of_row rfl rfl rfl
theorem Words.call (f : Fields) : Words.Statement (.call f) := Words.of_row rfl rfl rfl
theorem Words.ret (f : Fields) : Words.Statement (.ret f) := Words.of_row rfl rfl rfl
theorem Words.exit (f : Fields) : Words.Statement (.exit f) := Words.of_row rfl rfl rfl
theorem Words.yield (f : Fields) : Words.Statement (.yield f) := Words.of_row rfl rfl rfl
theorem Words.waita (f : Fields) : Words.Statement (.waita f) := Words.of_row rfl rfl rfl
theorem Words.waitaReread (crew tid : Nat) : Words.Statement (.waitaReread crew tid) := Words.of_event rfl rfl
theorem Words.sleep (f : Fields) : Words.Statement (.sleep f) := Words.of_row rfl rfl rfl
theorem Words.sleepExpire (crew tid : Nat) : Words.Statement (.sleepExpire crew tid) := Words.of_event rfl rfl
theorem Words.trap (f : Fields) : Words.Statement (.trap f) := Words.of_row rfl rfl rfl
theorem Words.brk (f : Fields) : Words.Statement (.brk f) := Words.of_row rfl rfl rfl
theorem Words.gets (f : Fields) : Words.Statement (.gets f) := Words.of_row rfl rfl rfl
theorem Words.sets (f : Fields) : Words.Statement (.sets f) := Words.of_row rfl rfl rfl
theorem Words.draw (f : Fields) : Words.Statement (.draw f) := Words.of_row rfl rfl rfl
theorem Words.append (f : Fields) : Words.Statement (.append f) := Words.of_row rfl rfl rfl
theorem Words.retire (f : Fields) : Words.Statement (.retire f) := Words.of_row rfl rfl rfl
theorem Words.bndset (f : Fields) : Words.Statement (.bndset f) := Words.of_row rfl rfl rfl
theorem Words.nestq (f : Fields) : Words.Statement (.nestq f) := Words.of_row rfl rfl rfl
theorem Words.fadd (f : Fields) : Words.Statement (.fadd f) := Words.of_row rfl rfl rfl
theorem Words.fmul (f : Fields) : Words.Statement (.fmul f) := Words.of_row rfl rfl rfl
theorem Words.ffma (f : Fields) : Words.Statement (.ffma f) := Words.of_row rfl rfl rfl
theorem Words.fmin (f : Fields) : Words.Statement (.fmin f) := Words.of_row rfl rfl rfl
theorem Words.fmax (f : Fields) : Words.Statement (.fmax f) := Words.of_row rfl rfl rfl
theorem Words.frcp (f : Fields) : Words.Statement (.frcp f) := Words.of_row rfl rfl rfl
theorem Words.frsq (f : Fields) : Words.Statement (.frsq f) := Words.of_row rfl rfl rfl
theorem Words.fsqrt (f : Fields) : Words.Statement (.fsqrt f) := Words.of_row rfl rfl rfl
theorem Words.fexp2 (f : Fields) : Words.Statement (.fexp2 f) := Words.of_row rfl rfl rfl
theorem Words.flog2 (f : Fields) : Words.Statement (.flog2 f) := Words.of_row rfl rfl rfl
theorem Words.fsin (f : Fields) : Words.Statement (.fsin f) := Words.of_row rfl rfl rfl
theorem Words.fcos (f : Fields) : Words.Statement (.fcos f) := Words.of_row rfl rfl rfl
theorem Words.ftanh (f : Fields) : Words.Statement (.ftanh f) := Words.of_row rfl rfl rfl
theorem Words.fdiv (f : Fields) : Words.Statement (.fdiv f) := Words.of_row rfl rfl rfl
theorem Words.hadd2 (f : Fields) : Words.Statement (.hadd2 f) := Words.of_row rfl rfl rfl
theorem Words.hmul2 (f : Fields) : Words.Statement (.hmul2 f) := Words.of_row rfl rfl rfl
theorem Words.hfma2 (f : Fields) : Words.Statement (.hfma2 f) := Words.of_row rfl rfl rfl
theorem Words.hdot2 (f : Fields) : Words.Statement (.hdot2 f) := Words.of_row rfl rfl rfl
theorem Words.fclass (f : Fields) : Words.Statement (.fclass f) := Words.of_row rfl rfl rfl
theorem Words.frnd (f : Fields) : Words.Statement (.frnd f) := Words.of_row rfl rfl rfl
theorem Words.cvti (f : Fields) : Words.Statement (.cvti f) := Words.of_row rfl rfl rfl
theorem Words.cvtf (f : Fields) : Words.Statement (.cvtf f) := Words.of_row rfl rfl rfl
theorem Words.qt8 (f : Fields) : Words.Statement (.qt8 f) := Words.of_row rfl rfl rfl
theorem Words.qt6 (f : Fields) : Words.Statement (.qt6 f) := Words.of_row rfl rfl rfl
theorem Words.dqt8 (f : Fields) : Words.Statement (.dqt8 f) := Words.of_row rfl rfl rfl
theorem Words.dqt6 (f : Fields) : Words.Statement (.dqt6 f) := Words.of_row rfl rfl rfl
theorem Words.amax (f : Fields) : Words.Statement (.amax f) := Words.of_row rfl rfl rfl
theorem Words.fgete (f : Fields) : Words.Statement (.fgete f) := Words.of_row rfl rfl rfl
theorem Words.pack (f : Fields) : Words.Statement (.pack f) := Words.of_row rfl rfl rfl
theorem Words.unpk (f : Fields) : Words.Statement (.unpk f) := Words.of_row rfl rfl rfl
theorem Words.ld (f : Fields) : Words.Statement (.ld f) := Words.of_row rfl rfl rfl
theorem Words.st (f : Fields) : Words.Statement (.st f) := Words.of_row rfl rfl rfl
theorem Words.lds (f : Fields) : Words.Statement (.lds f) := Words.of_row rfl rfl rfl
theorem Words.sts (f : Fields) : Words.Statement (.sts f) := Words.of_row rfl rfl rfl
theorem Words.ldp (f : Fields) : Words.Statement (.ldp f) := Words.of_row rfl rfl rfl
theorem Words.stp (f : Fields) : Words.Statement (.stp f) := Words.of_row rfl rfl rfl
theorem Words.loadDataLands (id : Nat) : Words.Statement (.loadDataLands id) := Words.of_event rfl rfl
theorem Words.storeAcknowledged (id : Nat) : Words.Statement (.storeAcknowledged id) := Words.of_event rfl rfl
theorem Words.atom (f : Fields) : Words.Statement (.atom f) := Words.of_row rfl rfl rfl
theorem Words.acas (f : Fields) : Words.Statement (.acas f) := Words.of_row rfl rfl rfl
theorem Words.red (f : Fields) : Words.Statement (.red f) := Words.of_row rfl rfl rfl
theorem Words.fence (f : Fields) : Words.Statement (.fence f) := Words.of_row rfl rfl rfl
theorem Words.cinv (f : Fields) : Words.Statement (.cinv f) := Words.of_row rfl rfl rfl
theorem Words.cwb (f : Fields) : Words.Statement (.cwb f) := Words.of_row rfl rfl rfl
theorem Words.txb (f : Fields) : Words.Statement (.txb f) := Words.of_row rfl rfl rfl
theorem Words.txc (f : Fields) : Words.Statement (.txc f) := Words.of_row rfl rfl rfl
theorem Words.txa (f : Fields) : Words.Statement (.txa f) := Words.of_row rfl rfl rfl
theorem Words.txs (f : Fields) : Words.Statement (.txs f) := Words.of_row rfl rfl rfl
theorem Words.prefm (f : Fields) : Words.Statement (.prefm f) := Words.of_row rfl rfl rfl
theorem Words.spmk (f : Fields) : Words.Statement (.spmk f) := Words.of_row rfl rfl rfl
theorem Words.spwt (f : Fields) : Words.Statement (.spwt f) := Words.of_row rfl rfl rfl
theorem Words.mma (f : Fields) : Words.Statement (.mma f) := Words.of_row rfl rfl rfl
theorem Words.mmas (f : Fields) : Words.Statement (.mmas f) := Words.of_row rfl rfl rfl
theorem Words.mrsc (f : Fields) : Words.Statement (.mrsc f) := Words.of_row rfl rfl rfl
theorem Words.accrd (f : Fields) : Words.Statement (.accrd f) := Words.of_row rfl rfl rfl
theorem Words.accwr (f : Fields) : Words.Statement (.accwr f) := Words.of_row rfl rfl rfl
theorem Words.accz (f : Fields) : Words.Statement (.accz f) := Words.of_row rfl rfl rfl
theorem Words.wmark (f : Fields) : Words.Statement (.wmark f) := Words.of_row rfl rfl rfl
theorem Words.mwait (f : Fields) : Words.Statement (.mwait f) := Words.of_row rfl rfl rfl
theorem Words.cpyt (f : Fields) : Words.Statement (.cpyt f) := Words.of_row rfl rfl rfl
theorem Words.cpyl (f : Fields) : Words.Statement (.cpyl f) := Words.of_row rfl rfl rfl
theorem Words.cpym (f : Fields) : Words.Statement (.cpym f) := Words.of_row rfl rfl rfl
theorem Words.kick (f : Fields) : Words.Statement (.kick f) := Words.of_row rfl rfl rfl
theorem Words.cwait (f : Fields) : Words.Statement (.cwait f) := Words.of_row rfl rfl rfl
theorem Words.binit (f : Fields) : Words.Statement (.binit f) := Words.of_row rfl rfl rfl
theorem Words.barr (f : Fields) : Words.Statement (.barr f) := Words.of_row rfl rfl rfl
theorem Words.bwait (f : Fields) : Words.Statement (.bwait f) := Words.of_row rfl rfl rfl
theorem Words.coll (f : Fields) : Words.Statement (.coll f) := Words.of_row rfl rfl rfl
theorem Words.fopen (f : Fields) : Words.Statement (.fopen f) := Words.of_row rfl rfl rfl
theorem Words.fadv (f : Fields) : Words.Statement (.fadv f) := Words.of_row rfl rfl rfl
theorem Words.fseek (f : Fields) : Words.Statement (.fseek f) := Words.of_row rfl rfl rfl
theorem Words.ftest (f : Fields) : Words.Statement (.ftest f) := Words.of_row rfl rfl rfl
theorem Words.fget (f : Fields) : Words.Statement (.fget f) := Words.of_row rfl rfl rfl
theorem Words.fclose (f : Fields) : Words.Statement (.fclose f) := Words.of_row rfl rfl rfl
theorem Words.sopen (f : Fields) : Words.Statement (.sopen f) := Words.of_row rfl rfl rfl
theorem Words.snext (f : Fields) : Words.Statement (.snext f) := Words.of_row rfl rfl rfl
theorem Words.stest (f : Fields) : Words.Statement (.stest f) := Words.of_row rfl rfl rfl
theorem Words.sclose (f : Fields) : Words.Statement (.sclose f) := Words.of_row rfl rfl rfl
theorem Words.illegalFetch (cause : DecodeFault) : Words.Statement (.illegalFetch cause) := Words.of_event rfl rfl
theorem Words.notifyWrite (fn off size : Nat) (value : DWord) : Words.Statement (.notifyWrite fn off size value) := Words.of_event rfl rfl
theorem Words.qcmdEnable (fn queue : Nat) : Words.Statement (.qcmdEnable fn queue) := Words.of_event rfl rfl
theorem Words.qcmdDisable (fn queue : Nat) : Words.Statement (.qcmdDisable fn queue) := Words.of_event rfl rfl
theorem Words.qcmdReservedOp (fn queue : Nat) : Words.Statement (.qcmdReservedOp fn queue) := Words.of_event rfl rfl
theorem Words.slotRead (fn queue : Nat) : Words.Statement (.slotRead fn queue) := Words.of_event rfl rfl
theorem Words.pktNop (fn queue : Nat) : Words.Statement (.pktNop fn queue) := Words.of_event rfl rfl
theorem Words.pktInstall (fn queue : Nat) : Words.Statement (.pktInstall fn queue) := Words.of_event rfl rfl
theorem Words.installStallEnd (fn queue : Nat) : Words.Statement (.installStallEnd fn queue) := Words.of_event rfl rfl
theorem Words.pktAppend (fn queue : Nat) : Words.Statement (.pktAppend fn queue) := Words.of_event rfl rfl
theorem Words.appendStallEnd (fn queue : Nat) : Words.Statement (.appendStallEnd fn queue) := Words.of_event rfl rfl
theorem Words.pktCopy (fn queue : Nat) : Words.Statement (.pktCopy fn queue) := Words.of_event rfl rfl
theorem Words.pktSignal (fn queue : Nat) : Words.Statement (.pktSignal fn queue) := Words.of_event rfl rfl
theorem Words.pktWait (fn queue : Nat) : Words.Statement (.pktWait fn queue) := Words.of_event rfl rfl
theorem Words.waitReread (fn queue : Nat) : Words.Statement (.waitReread fn queue) := Words.of_event rfl rfl
theorem Words.pktFence (fn queue : Nat) : Words.Statement (.pktFence fn queue) := Words.of_event rfl rfl
theorem Words.pktLink (fn queue : Nat) : Words.Statement (.pktLink fn queue) := Words.of_event rfl rfl
theorem Words.segmentStallEnd (fn queue : Nat) : Words.Statement (.segmentStallEnd fn queue) := Words.of_event rfl rfl
theorem Words.pktTimestamp (fn queue : Nat) : Words.Statement (.pktTimestamp fn queue) := Words.of_event rfl rfl
theorem Words.packetComplete (fn queue idx : Nat) : Words.Statement (.packetComplete fn queue idx) := Words.of_event rfl rfl
theorem Words.retireEvent (crew : Nat) : Words.Statement (.retireEvent crew) := Words.of_event rfl rfl
theorem Words.bndsetEvent (crew tid : Nat) : Words.Statement (.bndsetEvent crew tid) := Words.of_event rfl rfl
theorem Words.rowOpen (part : Nat) : Words.Statement (.rowOpen part) := Words.of_event rfl rfl
theorem Words.pointRelease (part : Nat) : Words.Statement (.pointRelease part) := Words.of_event rfl rfl
theorem Words.nestCompletion (part nest : Nat) : Words.Statement (.nestCompletion part nest) := Words.of_event rfl rfl
theorem Words.completionWriteAck (part nest : Nat) : Words.Statement (.completionWriteAck part nest) := Words.of_event rfl rfl
theorem Words.crewStart (core pick : Nat) : Words.Statement (.crewStart core pick) := Words.of_event rfl rfl
theorem Words.residentCrewStart (core pick : Nat) : Words.Statement (.residentCrewStart core pick) := Words.of_event rfl rfl
theorem Words.crewResourcesFreed (crew : Nat) : Words.Statement (.crewResourcesFreed crew) := Words.of_event rfl rfl
theorem Words.worldSwitch (part : Nat) : Words.Statement (.worldSwitch part) := Words.of_event rfl rfl
theorem Words.worldSwitchDone (part : Nat) : Words.Statement (.worldSwitchDone part) := Words.of_event rfl rfl
theorem Words.vacancyExit (part : Nat) : Words.Statement (.vacancyExit part) := Words.of_event rfl rfl
theorem Words.kittyIdle (cluster : Nat) : Words.Statement (.kittyIdle cluster) := Words.of_event rfl rfl
theorem Words.kittyLend (part : Nat) : Words.Statement (.kittyLend part) := Words.of_event rfl rfl
theorem Words.revocationDone (cluster : Nat) : Words.Statement (.revocationDone cluster) := Words.of_event rfl rfl
theorem Words.prevokeWrite (part : Nat) (value : BitVec 16) : Words.Statement (.prevokeWrite part value) := Words.of_event rfl rfl
theorem Words.clusterFail (cluster : Nat) : Words.Statement (.clusterFail cluster) := Words.of_event rfl rfl
theorem Words.pcfgWrite (value : Word) : Words.Statement (.pcfgWrite value) := Words.of_event rfl rfl
theorem Words.partsApplyDone : Words.Statement .partsApplyDone := Words.of_event rfl rfl
theorem Words.vfpartWrite (fn : Nat) (value : Word) : Words.Statement (.vfpartWrite fn value) := Words.of_event rfl rfl
theorem Words.calWrite (slot : Nat) (value : Word) : Words.Statement (.calWrite slot value) := Words.of_event rfl rfl
theorem Words.psliceWrite (part entry : Nat) (value : Word) : Words.Statement (.psliceWrite part entry value) := Words.of_event rfl rfl
theorem Words.pkittyWrite (part : Nat) (value : DWord) : Words.Statement (.pkittyWrite part value) := Words.of_event rfl rfl
theorem Words.tlbiWrite (value : DWord) : Words.Statement (.tlbiWrite value) := Words.of_event rfl rfl
theorem Words.tlbiDone : Words.Statement .tlbiDone := Words.of_event rfl rfl
theorem Words.hostTlbFence (sel : TlbSel) : Words.Statement (.hostTlbFence sel) := Words.of_event rfl rfl
theorem Words.focmdSet (value : DWord) : Words.Statement (.focmdSet value) := Words.of_event rfl rfl
theorem Words.focmdSetDone : Words.Statement .focmdSetDone := Words.of_event rfl rfl
theorem Words.focmdRead (value : DWord) : Words.Statement (.focmdRead value) := Words.of_event rfl rfl
theorem Words.focmdRefused (value : DWord) : Words.Statement (.focmdRefused value) := Words.of_event rfl rfl
theorem Words.fwinEnable (win : Nat) (value : Word) : Words.Statement (.fwinEnable win value) := Words.of_event rfl rfl
theorem Words.fwinEnableDone (win : Nat) : Words.Statement (.fwinEnableDone win) := Words.of_event rfl rfl
theorem Words.fwinDisable (win : Nat) (value : Word) : Words.Statement (.fwinDisable win value) := Words.of_event rfl rfl
theorem Words.fwinDisableDone (win : Nat) : Words.Statement (.fwinDisableDone win) := Words.of_event rfl rfl
theorem Words.homeWritePerform (w : HomeWrite) : Words.Statement (.homeWritePerform w) := Words.of_event rfl rfl
theorem Words.sharedCacheFill (fn pa : Nat) : Words.Statement (.sharedCacheFill fn pa) := Words.of_event rfl rfl
theorem Words.mscWriteApply (id : Nat) : Words.Statement (.mscWriteApply id) := Words.of_event rfl rfl
theorem Words.parityDeltaApply (id : Nat) : Words.Statement (.parityDeltaApply id) := Words.of_event rfl rfl
theorem Words.stackLost (stack : Nat) : Words.Statement (.stackLost stack) := Words.of_event rfl rfl
theorem Words.memctlDeclare (value : Word) : Words.Statement (.memctlDeclare value) := Words.of_event rfl rfl
theorem Words.scrubSector (stack off : Nat) (found : SectorState) : Words.Statement (.scrubSector stack off found) := Words.of_event rfl rfl
theorem Words.channelGrant (stack : Nat) : Words.Statement (.channelGrant stack) := Words.of_event rfl rfl
theorem Words.hotctlEnable (fn : Nat) (value : Word) : Words.Statement (.hotctlEnable fn value) := Words.of_event rfl rfl
theorem Words.accctlWrite (value : DWord) : Words.Statement (.accctlWrite value) := Words.of_event rfl rfl
theorem Words.lzctlWrite (value : Word) : Words.Statement (.lzctlWrite value) := Words.of_event rfl rfl
theorem Words.lzctlDrainDone : Words.Statement .lzctlDrainDone := Words.of_event rfl rfl
theorem Words.cardStart (id : Nat) : Words.Statement (.cardStart id) := Words.of_event rfl rfl
theorem Words.cardLineLands (id line : Nat) : Words.Statement (.cardLineLands id line) := Words.of_event rfl rfl
theorem Words.matrixBlockFinal (id : Nat) : Words.Statement (.matrixBlockFinal id) := Words.of_event rfl rfl
theorem Words.cardComplete (id : Nat) : Words.Statement (.cardComplete id) := Words.of_event rfl rfl
theorem Words.cardPagePause (id : Nat) : Words.Statement (.cardPagePause id) := Words.of_event rfl rfl
theorem Words.cardAbandon (id : Nat) (cause : Cause) : Words.Statement (.cardAbandon id cause) := Words.of_event rfl rfl
theorem Words.engineHang (core : Nat) : Words.Statement (.engineHang core) := Words.of_event rfl rfl
theorem Words.tokenTick (cluster : Nat) : Words.Statement (.tokenTick cluster) := Words.of_event rfl rfl
theorem Words.crewSaveEnd (crew : Nat) : Words.Statement (.crewSaveEnd crew) := Words.of_event rfl rfl
theorem Words.faultRecordDrain (fn : Nat) : Words.Statement (.faultRecordDrain fn) := Words.of_event rfl rfl
theorem Words.faultMsi (fn : Nat) : Words.Statement (.faultMsi fn) := Words.of_event rfl rfl
theorem Words.crewRestore (crew core : Nat) : Words.Statement (.crewRestore crew core) := Words.of_event rfl rfl
theorem Words.crewcmdResume (fn : Nat) (value : DWord) : Words.Statement (.crewcmdResume fn value) := Words.of_event rfl rfl
theorem Words.crewcmdSkip (fn : Nat) (value : DWord) : Words.Statement (.crewcmdSkip fn value) := Words.of_event rfl rfl
theorem Words.crewcmdAbort (fn : Nat) (value : DWord) : Words.Statement (.crewcmdAbort fn value) := Words.of_event rfl rfl
theorem Words.crewcmdPageok (fn : Nat) (value : DWord) : Words.Statement (.crewcmdPageok fn value) := Words.of_event rfl rfl
theorem Words.crewcmdPagefail (fn : Nat) (value : DWord) : Words.Statement (.crewcmdPagefail fn value) := Words.of_event rfl rfl
theorem Words.crewcmdDrop (fn : Nat) (value : DWord) : Words.Statement (.crewcmdDrop fn value) := Words.of_event rfl rfl
theorem Words.flrRequest (fn : Nat) : Words.Statement (.flrRequest fn) := Words.of_event rfl rfl
theorem Words.flrTeardownDone (fn : Nat) : Words.Statement (.flrTeardownDone fn) := Words.of_event rfl rfl
theorem Words.portTrain (port peerRank peerPort : Nat) (lanes : Byte) : Words.Statement (.portTrain port peerRank peerPort lanes) := Words.of_event rfl rfl
theorem Words.laneRetire (port lane : Nat) : Words.Statement (.laneRetire port lane) := Words.of_event rfl rfl
theorem Words.portRetrainDone (port : Nat) : Words.Statement (.portRetrainDone port) := Words.of_event rfl rfl
theorem Words.routeRewrite (port : Nat) : Words.Statement (.routeRewrite port) := Words.of_event rfl rfl
theorem Words.flitReceive (port : Nat) (flit : Flit) : Words.Statement (.flitReceive port flit) := Words.of_event rfl rfl
theorem Words.peerRequest (pkt : PeerPacket) : Words.Statement (.peerRequest pkt) := Words.of_event rfl rfl
theorem Words.peerReadrsp (tag : Nat) (data : List Byte) (poison : Bool) : Words.Statement (.peerReadrsp tag data poison) := Words.of_event rfl rfl
theorem Words.peerWriteack (tag : Nat) : Words.Statement (.peerWriteack tag) := Words.of_event rfl rfl
theorem Words.peerAtomrsp (tag : Nat) (old : DWord) : Words.Statement (.peerAtomrsp tag old) := Words.of_event rfl rfl
theorem Words.peerFault (tag : Nat) (cause : Cause) : Words.Statement (.peerFault tag cause) := Words.of_event rfl rfl
theorem Words.peerTimeout (tag : Nat) : Words.Statement (.peerTimeout tag) := Words.of_event rfl rfl
theorem Words.cdata (fn group inst member : Nat) (share : Contribution) : Words.Statement (.cdata fn group inst member share) := Words.of_event rfl rfl
theorem Words.collTimeout (fn group inst : Nat) : Words.Statement (.collTimeout fn group inst) := Words.of_event rfl rfl
theorem Words.wportCrcerrClear (port : Nat) (value : DWord) : Words.Statement (.wportCrcerrClear port value) := Words.of_event rfl rfl
theorem Words.thermalWarn (die : Nat) : Words.Statement (.thermalWarn die) := Words.of_event rfl rfl
theorem Words.thermalHalt : Words.Statement .thermalHalt := Words.of_event rfl rfl
theorem Words.thermalResume : Words.Statement .thermalResume := Words.of_event rfl rfl
theorem Words.thermalPowerOff : Words.Statement .thermalPowerOff := Words.of_event rfl rfl
theorem Words.stateTableCommit : Words.Statement .stateTableCommit := Words.of_event rfl rfl
theorem Words.ccFailover : Words.Statement .ccFailover := Words.of_event rfl rfl
theorem Words.fwctlStage (value : Word) (image : Image) : Words.Statement (.fwctlStage value image) := Words.of_event rfl rfl
theorem Words.fwctlTakeover : Words.Statement .fwctlTakeover := Words.of_event rfl rfl
theorem Words.fwctlCommit : Words.Statement .fwctlCommit := Words.of_event rfl rfl
theorem Words.fwctlDiscard : Words.Statement .fwctlDiscard := Words.of_event rfl rfl
theorem Words.fwctlInvalid (value : Word) : Words.Statement (.fwctlInvalid value) := Words.of_event rfl rfl
theorem Words.fwCommandDone : Words.Statement .fwCommandDone := Words.of_event rfl rfl
theorem Words.getVersion (req : SpdmRequest) : Words.Statement (.getVersion req) := Words.of_event rfl rfl
theorem Words.getCapabilities (req : SpdmRequest) : Words.Statement (.getCapabilities req) := Words.of_event rfl rfl
theorem Words.negotiateAlgorithms (req : SpdmRequest) : Words.Statement (.negotiateAlgorithms req) := Words.of_event rfl rfl
theorem Words.getDigests (req : SpdmRequest) : Words.Statement (.getDigests req) := Words.of_event rfl rfl
theorem Words.getCertificate (req : SpdmRequest) : Words.Statement (.getCertificate req) := Words.of_event rfl rfl
theorem Words.challenge (req : SpdmRequest) : Words.Statement (.challenge req) := Words.of_event rfl rfl
theorem Words.getMeasurements (req : SpdmRequest) : Words.Statement (.getMeasurements req) := Words.of_event rfl rfl
theorem Words.unsupportedRequest (req : SpdmRequest) : Words.Statement (.unsupportedRequest req) := Words.of_event rfl rfl
theorem Words.powerOnReset : Words.Statement .powerOnReset := Words.of_event rfl rfl
theorem Words.calibrationDone (res : Calibration) : Words.Statement (.calibrationDone res) := Words.of_event rfl rfl
theorem Words.memoryInitDone (failed : BitVec 12) (count : Nat) : Words.Statement (.memoryInitDone failed count) := Words.of_event rfl rfl
theorem Words.jtagInstruction (code : JtagCode) : Words.Statement (.jtagInstruction code) := Words.of_event rfl rfl
theorem Words.registerWrite (bar fn off size : Nat) (value : DWord) : Words.Statement (.registerWrite bar fn off size value) := Words.of_event rfl rfl
theorem Words.powerLoss : Words.Statement .powerLoss := Words.of_event rfl rfl
theorem Words.frctlEnable (fn : Nat) (value : Word) : Words.Statement (.frctlEnable fn value) := Words.of_event rfl rfl
theorem Words.cxlBackInvalidate (pa : Nat) : Words.Statement (.cxlBackInvalidate pa) := Words.of_event rfl rfl

end Sys2Proof.Laws
end

