-- ==== Sys2Proof/Laws/Reg.lean ====
section
/-!
SUPPORT. Laws of the registers of the BARs: a register reads as written, and a write leaves the others alone.
-/
namespace Sys2Proof.Machine
open Sys2Proof

theorem State.parts'_setReg (s : State) {r : Reg} (v : DWord) (h : r.key ≠ Reg.pcfg.key) :
    (s.setReg r v).parts' = s.parts' := by
  unfold State.parts' State.setReg
  simp only [FMap.get_set_other _ _ (Ne.symm h)]

theorem State.reg_setReg (s : State) {r : Reg} (v : DWord) (h : r.key ≠ Reg.pcfg.key) : (s.setReg r v).reg r = v := by
  unfold State.reg regValue
  rw [State.parts'_setReg s v h]
  unfold State.setReg
  simp only [FMap.get_set_same]
  split
  · next e => simp [e]
  · rfl

theorem State.reg_setReg_pcfg (s : State) (v : DWord) : (s.setReg .pcfg v).reg .pcfg = v := by
  unfold State.reg regValue State.setReg
  simp only [FMap.get_set_same]
  split
  · next e => simpa [Reg.reset] using e.symm
  · rfl

theorem State.reg_setReg_other (s : State) {r q : Reg} (v : DWord) (h : r.key ≠ Reg.pcfg.key) (hq : q.key ≠ r.key) :
    (s.setReg r v).reg q = s.reg q := by
  unfold State.reg regValue
  rw [State.parts'_setReg s v h]
  unfold State.setReg
  simp only [FMap.get_set_other _ _ hq]

/-- A number cut at a field: what stands above, in and below it. -/
theorem cut_field (old lo n : Nat) :
    ∃ q r a, r < 2 ^ n ∧ a < 2 ^ lo ∧ old = (q * 2 ^ n + r) * 2 ^ lo + a ∧ old / 2 ^ lo % 2 ^ n = r :=
  ⟨old / 2 ^ lo / 2 ^ n, old / 2 ^ lo % 2 ^ n, old % 2 ^ lo, Nat.mod_lt _ (Nat.two_pow_pos n), Nat.mod_lt _ (Nat.two_pow_pos lo), by
    rw [Nat.mul_comm _ (2 ^ n), Nat.div_add_mod, Nat.mul_comm, Nat.div_add_mod], rfl⟩

/-- Replacing a field keeps what stands above and below it. -/
theorem put_cut (old lo n v : Nat) : ∃ q a, a < 2 ^ lo ∧ q * (2 ^ n * 2 ^ lo) ≤ old ∧
    old - old / 2 ^ lo % 2 ^ n * 2 ^ lo + v % 2 ^ n * 2 ^ lo = (q * 2 ^ n + v % 2 ^ n) * 2 ^ lo + a := by
  obtain ⟨q, r, a, -, ha, ho, hr⟩ := cut_field old lo n
  rw [hr]
  have e : (q * 2 ^ n + r) * 2 ^ lo = q * (2 ^ n * 2 ^ lo) + r * 2 ^ lo := by ring
  have e2 : (q * 2 ^ n + v % 2 ^ n) * 2 ^ lo = q * (2 ^ n * 2 ^ lo) + v % 2 ^ n * 2 ^ lo := by ring
  refine ⟨q, a, ha, ?_, ?_⟩
  · rw [ho, e]; omega
  · rw [ho, e, e2]; omega

/-- Replacing one field of a number. -/
theorem put_field (old lo n v : Nat) :
    (old - old / 2 ^ lo % 2 ^ n * 2 ^ lo + v % 2 ^ n * 2 ^ lo) / 2 ^ lo % 2 ^ n = v % 2 ^ n := by
  obtain ⟨q, a, ha, -, h⟩ := put_cut old lo n v
  rw [h, Nat.add_comm _ a, Nat.add_mul_div_right _ _ (Nat.two_pow_pos lo), Nat.div_eq_of_lt ha, Nat.zero_add, Nat.mul_comm,
    Nat.mul_add_mod, Nat.mod_mod]

theorem put_field_lt (old lo n v : Nat) (h : lo + n ≤ 64) (ho : old < 2 ^ 64) :
    old - old / 2 ^ lo % 2 ^ n * 2 ^ lo + v % 2 ^ n * 2 ^ lo < 2 ^ 64 := by
  obtain ⟨q, a, ha, hq, e⟩ := put_cut old lo n v
  rw [e]
  have h64 : 2 ^ 64 = 2 ^ (64 - (n + lo)) * (2 ^ n * 2 ^ lo) := by rw [← Nat.pow_add, ← Nat.pow_add]; congr 1; omega
  have hpos : 0 < 2 ^ n * 2 ^ lo := Nat.mul_pos (Nat.two_pow_pos n) (Nat.two_pow_pos lo)
  have hq1 : q < 2 ^ (64 - (n + lo)) := by
    by_contra hc
    have := Nat.mul_le_mul_right (2 ^ n * 2 ^ lo) (Nat.not_lt.mp hc)
    omega
  have h1 := Nat.mul_le_mul_right (2 ^ n * 2 ^ lo) hq1
  have h2 := Nat.mul_le_mul_right (2 ^ lo) (Nat.mod_lt v (Nat.two_pow_pos n))
  rw [h64]
  calc (q * 2 ^ n + v % 2 ^ n) * 2 ^ lo + a = q * (2 ^ n * 2 ^ lo) + (v % 2 ^ n * 2 ^ lo + a) := by ring
    _ < q * (2 ^ n * 2 ^ lo) + 2 ^ n * 2 ^ lo := by
      have : (v % 2 ^ n).succ * 2 ^ lo = v % 2 ^ n * 2 ^ lo + 2 ^ lo := by rw [Nat.succ_mul]
      omega
    _ = q.succ * (2 ^ n * 2 ^ lo) := by rw [Nat.succ_mul]
    _ ≤ _ := h1

theorem State.field_setField (s : State) {r : Reg} (lo n v : Nat) (h : r.key ≠ Reg.pcfg.key) (hw : lo + n ≤ 64) :
    (s.setField r lo n v).field r lo n = v % 2 ^ n := by
  unfold State.field State.setField
  rw [State.reg_setReg s _ h, BitVec.toNat_ofNat, Nat.mod_eq_of_lt (put_field_lt _ lo n v hw (s.reg r).isLt), put_field]

theorem State.field_setField_pcfg (s : State) (lo n v : Nat) (hw : lo + n ≤ 64) :
    (s.setField .pcfg lo n v).field .pcfg lo n = v % 2 ^ n := by
  unfold State.field State.setField
  rw [State.reg_setReg_pcfg, BitVec.toNat_ofNat, Nat.mod_eq_of_lt (put_field_lt _ lo n v hw (s.reg .pcfg).isLt), put_field]

/-- Replacing a field leaves a field below or above it alone. -/
theorem put_field_disjoint (old lo n v a b : Nat) (h : a + b ≤ lo ∨ lo + n ≤ a) :
    (old - old / 2 ^ lo % 2 ^ n * 2 ^ lo + v % 2 ^ n * 2 ^ lo) / 2 ^ a % 2 ^ b = old / 2 ^ a % 2 ^ b := by
  obtain ⟨q, r, x, hr, hx, ho, hr'⟩ := cut_field old lo n
  have e : old - old / 2 ^ lo % 2 ^ n * 2 ^ lo + v % 2 ^ n * 2 ^ lo = (q * 2 ^ n + v % 2 ^ n) * 2 ^ lo + x := by
    have e1 : (q * 2 ^ n + r) * 2 ^ lo = q * (2 ^ n * 2 ^ lo) + r * 2 ^ lo := by ring
    have e2 : (q * 2 ^ n + v % 2 ^ n) * 2 ^ lo = q * (2 ^ n * 2 ^ lo) + v % 2 ^ n * 2 ^ lo := by ring
    rw [hr', ho, e1, e2]; omega
  rw [e, ho]
  rcases h with h | h
  · have low (y : Nat) : (y * 2 ^ lo + x) / 2 ^ a % 2 ^ b = x / 2 ^ a % 2 ^ b := by
      have hp : 2 ^ lo = 2 ^ (lo - a - b) * 2 ^ b * 2 ^ a := by rw [← Nat.pow_add, ← Nat.pow_add]; congr 1; omega
      have : y * 2 ^ lo + x = x + y * (2 ^ (lo - a - b) * 2 ^ b) * 2 ^ a := by rw [hp]; ring
      rw [this, Nat.add_mul_div_right _ _ (Nat.two_pow_pos a), ← Nat.mul_assoc, Nat.add_mul_mod_self_right]
    rw [low, low]
  · have high (y : Nat) (hy : y < 2 ^ n) : ((q * 2 ^ n + y) * 2 ^ lo + x) / 2 ^ a = q / 2 ^ (a - (lo + n)) := by
      have hp : 2 ^ a = 2 ^ lo * 2 ^ n * 2 ^ (a - (lo + n)) := by rw [← Nat.pow_add, ← Nat.pow_add]; congr 1; omega
      rw [hp, ← Nat.div_div_eq_div_mul, ← Nat.div_div_eq_div_mul, Nat.add_comm, Nat.add_mul_div_right _ _ (Nat.two_pow_pos lo),
        Nat.div_eq_of_lt hx, Nat.zero_add, Nat.add_comm, Nat.add_mul_div_right _ _ (Nat.two_pow_pos n), Nat.div_eq_of_lt hy,
        Nat.zero_add]
    rw [high _ (Nat.mod_lt _ (Nat.two_pow_pos n)), high _ hr]

theorem State.field_setField_disjoint (s : State) {r : Reg} (lo n v a b : Nat) (h : r.key ≠ Reg.pcfg.key) (hw : lo + n ≤ 64)
    (hd : a + b ≤ lo ∨ lo + n ≤ a) : (s.setField r lo n v).field r a b = s.field r a b := by
  unfold State.field State.setField
  rw [State.reg_setReg s _ h, BitVec.toNat_ofNat, Nat.mod_eq_of_lt (put_field_lt _ lo n v hw (s.reg r).isLt),
    put_field_disjoint _ _ _ _ _ _ hd]

theorem State.field_setField_other (s : State) {r q : Reg} (lo n v a b : Nat) (h : r.key ≠ Reg.pcfg.key) (hq : q.key ≠ r.key) :
    (s.setField r lo n v).field q a b = s.field q a b := by
  unfold State.field
  rw [show s.setField r lo n v = s.setReg r _ from rfl, State.reg_setReg_other s _ h hq]

end Sys2Proof.Machine
end

