-- ==== Sys2Proof/Laws/Thread.lean ====
section
/-!
SUPPORT. What writing a register, a pair or a predicate of a thread changes, and how integer results are written.
-/
namespace Sys2Proof.Machine
open Sys2Proof

theorem Thread.setReg_get (t : Thread) (d : BitVec 7) (v : Word) (k : Nat) :
    (t.setReg d v).regs.get k = if d ≠ 127 ∧ k = d.toNat then v else t.regs.get k := by
  unfold Thread.setReg; split <;> simp_all [FMap.get_set]
theorem Thread.setReg_eq (t : Thread) (d : BitVec 7) (v : Word) : t.setReg d v = { t with regs := (t.setReg d v).regs } := by
  unfold Thread.setReg; split <;> rfl
theorem Thread.setPair_eq (t : Thread) (d : BitVec 7) (v : DWord) : t.setPair d v = { t with regs := (t.setPair d v).regs } := by
  unfold Thread.setPair; split <;> rfl
theorem Thread.setPair_get (t : Thread) (d : BitVec 7) (v : DWord) (k : Nat) :
    (t.setPair d v).regs.get k = if d ≠ 127 ∧ k = d.toNat then v.extractLsb' 0 32
      else if d ≠ 127 ∧ k = d.toNat + 1 then v.extractLsb' 32 32 else t.regs.get k := by
  unfold Thread.setPair; split
  · simp_all
  · simp_all only [ne_eq, not_false_eq_true, true_and, FMap.get_set]
    split <;> split <;> simp_all
theorem Thread.setPred_eq (t : Thread) (d : BitVec 3) (v : Bool) : t.setPred d v = { t with preds := (t.setPred d v).preds } := by
  unfold Thread.setPred; split <;> rfl
theorem Thread.setPred_get (t : Thread) (d : BitVec 3) (v : Bool) (k : Nat) :
    (t.setPred d v).preds.get k = if d ≠ 7 ∧ k = d.toNat then v else t.preds.get k := by
  unfold Thread.setPred; split <;> simp_all [FMap.get_set]
theorem ofInt_setWidth (x : Int) : (BitVec.ofInt 64 x).setWidth 32 = BitVec.ofInt 32 x := by
  apply BitVec.eq_of_toNat_eq; simp [BitVec.toNat_ofInt]; omega

/-- An integer result of 32 or 64 bits is its bits modulo 2^w. -/
theorem Thread.putInt_raw (t : Thread) (d : BitVec 7) (ty : Ty) (h : tyWidth ty = 32 ∨ tyWidth ty = 64) (x : Int) :
    t.putInt d ty x = t.putRaw d ty.is64 (BitVec.ofInt 64 x) := by
  unfold Thread.putInt Thread.putRaw intWord
  cases ty <;> simp [tyWidth, Ty.is64, ofInt_setWidth] at *

end Sys2Proof.Machine
end

