-- ==== Sys2Proof/Tests/Slice0.lean ====
section
/-!
SUPPORT. Tests: words that the spec prints, an ill-formed term for each check, results of single steps whose expected
values come from the spec, and for every obligation with hypotheses a state and operands that meet them.
-/
set_option Elab.async false

namespace Sys2Proof.Machine.Tests
open Sys2Proof

/-! ## Words of the spec's listings -/

/-- Fields with a true guard and no immediate. -/
def flds (d a b c : BitVec 7) (fn : BitVec 8) (ty : Ty) : Fields := ⟨⟨false, 7⟩, d, a, b, c, 0, fn, ty, .none, 0, 0, .none⟩

/-- Chapter 0: `iadd.s32 g3, g1, g2`. -/
theorem test_word_iadd : decodeTableWord 64 0x010000002020DC05 = some (.iadd (flds 3 1 2 0 0 .s32)) := by decide +kernel
/-- Chapter 6: `iadd.s32 g3, g1, 0x1F40`. -/
theorem test_word_iadd_imm : decodeTableWord 96 (0x010000000020DC06 + 2 ^ 64 * 0x1F40) =
    some (.iadd { flds 3 1 0 0 0 .s32 with ext := .imm32 0x1F40 }) := by decide +kernel
/-- Chapter 6: `(!p2) imad.s32 g5, g6, g7!, g8`. -/
theorem test_word_imad : decodeTableWord 64 0x0100084070C16811 =
    some (.imad { flds 5 6 7 8 0 .s32 with g := ⟨true, 2⟩, ew := 2 }) := by decide +kernel
/-- Chapter 6: `movi.b64 g4:g5, 0x40_0002_0000`. -/
theorem test_word_movi : decodeTableWord 128 (0x0060000000011C5F + 2 ^ 64 * 0x4000020000) =
    some (.movi { flds 4 0 0 0 0 .b64 with ext := .imm64 0x4000020000 }) := by decide +kernel
/-- Chapter 8: `lop3.b32 g9, g1, g2, g3, 0xAC`. -/
theorem test_word_lop3 : decodeTableWord 64 0x0055801820225C39 = some (.lop3 (flds 9 1 2 3 0xAC .b32)) := by decide +kernel
/-- Chapter 8: `icmp.ge.and.z32 p1, g4, g5, !p2`. -/
theorem test_word_icmp : decodeTableWord 64 0x4134A00050805C81 =
    some (.icmp { flds 1 4 5 0 0xA5 .z32 with x := 1 }) := by decide +kernel
/-- Chapter 8: `vote.ballot g6, p3`. -/
theorem test_word_vote : decodeTableWord 64 0x0000600000619C95 = some (.vote (flds 6 3 0 0 3 .b8)) := by decide +kernel
/-- Chapter 8: `bra loop`, 64 bytes back. -/
theorem test_word_bra : decodeTableWord 96 (0x1D06 + 2 ^ 64 * 0xFFFFFFC0) =
    some (.bra { flds 0 0 0 0 0 .b8 with ext := .imm32 0xFFFFFFC0 }) := by decide +kernel
/-- Chapter 8: `draw.try.q1 g16, p4`. -/
theorem test_word_draw : decodeTableWord 64 0x4004A00000041D31 = some (.draw { flds 16 0 0 0 0x25 .b8 with x := 1 }) := by
  decide +kernel
/-- Chapter 9: `cvti.rz.s32.f32 g7, g3` and `qt8.sr.f32 g10, g4, g5, g6`. -/
theorem test_word_convert : decodeTableWord 64 0x1101C0000061DE01 = some (.cvti { flds 7 3 0 0 0x0E .s32 with rm := 1 }) ∧
    decodeTableWord 64 0x41C0003050829E09 = some (.qt8 { flds 10 4 5 6 0 .f32 with x := 1 }) := by decide +kernel
/-- Chapter 10: `ffma.rd.f32 g8, g1, g2, g3`, `fadd.nb.f32 g5, g6, 1.5` and `hdot2.f16 g9, g1, g2, g3`. -/
theorem test_word_float : decodeTableWord 64 0x21C0001820221D89 = some (.ffma { flds 8 1 2 3 0 .f32 with rm := 2 }) ∧
    decodeTableWord 96 (0x01C0400000C15D82 + 2 ^ 64 * 0x3FC00000) =
      some (.fadd { flds 5 6 0 0 2 .f32 with ext := .imm32 0x3FC00000 }) ∧
    decodeTableWord 64 0x0180001820225DC5 = some (.hdot2 (flds 9 1 2 3 0 .f16)) := by decide +kernel
/-- Chapter 12: `ld.v4.b32 g8, [g4+0x20]`, `atom.add.device.s32 g7, [g4], g6` and `fseek.z32 fr1, g6`. -/
theorem test_word_memory : decodeTableWord 96 (0x8040000000821E82 + 2 ^ 64 * 0x20) =
      some (.ld { flds 8 4 0 0 0 .b32 with x := 2, ext := .imm32 0x20 }) ∧
    decodeTableWord 64 0x070000006081DE99 = some (.atom { flds 7 4 6 0 0 .s32 with sc := .device }) ∧
    decodeTableWord 64 0x0120000860001FAD = some (.fseek (flds 0 0 6 1 0 .z32)) := by decide +kernel
/-- Chapter 22: `ldp.b32 g8, [p:g5]` and `stp.b32 [p:g3], gz`; Chapter 25: `st.v4.b32 [g10], g12`. -/
theorem test_word_stores : decodeTableWord 64 0x0040000000A21E91 = some (.ldp (flds 8 5 0 0 0 .b32)) ∧
    decodeTableWord 64 0x00400007F0601E95 = some (.stp (flds 0 3 127 0 0 .b32)) ∧
    decodeTableWord 64 0x80400000C1401E85 = some (.st { flds 0 10 12 0 0 .b32 with x := 2 }) := by decide +kernel
/-- Chapter 13: `(p1) mma g2, b:g32, g22:g23`, `accrd.v4.f32 g12, g6, g7`, `accz g6, 32` and `mwait 0x7`. -/
theorem test_word_matrix : decodeTableWord 64 0x400000B200400701 =
      some (.mma { flds 0 2 32 22 0 .b8 with g := ⟨false, 1⟩, x := 1 }) ∧
    decodeTableWord 64 0x81C0000070C31F0D = some (.accrd { flds 12 6 7 0 0 .f32 with x := 2 }) ∧
    decodeTableWord 96 (0x0000000000C01F16 + 2 ^ 64 * 0x20) = some (.accz { flds 0 6 0 0 0 .b8 with ext := .imm32 0x20 }) ∧
    decodeTableWord 64 0x0000E00000001F1D = some (.mwait (flds 0 0 0 0 7 .b8)) := by decide +kernel
/-- Chapter 14: `(p1) cpyt` with its offset 0x100, and `bwait.acq.core [l:g6], g7`. -/
theorem test_word_cards : decodeTableWord 128 (0x0000805060800783 + 2 ^ 64 * 0x100) =
      some (.cpyt { flds 0 4 6 10 4 .b8 with g := ⟨false, 1⟩, ext := .imm64 0x100 }) ∧
    decodeTableWord 64 0x1320000070C01F9D = some (.bwait { flds 0 6 7 0 0 .z32 with sc := .core, rm := 1 }) := by decide +kernel
/-- Chapter 16: `fence.ar.device`, `cinv.all` and `cwb.line [g4]`; Chapter 17: `txb.esc fail` and `txs g9`. -/
theorem test_word_order : decodeTableWord 64 0x3600000000001EA5 = some (.fence { flds 0 0 0 0 0 .b8 with sc := .device, rm := 3 }) ∧
    decodeTableWord 64 0x0000200000001EA9 = some (.cinv (flds 0 0 0 0 1 .b8)) ∧
    decodeTableWord 64 0x0000200000801EAD = some (.cwb (flds 0 4 0 0 1 .b8)) ∧
    decodeTableWord 96 (0x0000200000001EB2 + 2 ^ 64 * 0x80) = some (.txb { flds 0 0 0 0 1 .b8 with ext := .imm32 0x80 }) ∧
    decodeTableWord 64 0x0000000000025EBD = some (.txs (flds 9 0 0 0 0 .b8)) := by decide +kernel
/-- Chapter 23: `shfl.xor.b32 g10, g8, g6` and `meld gz, g11`; Chapter 24: `waita.acq.system.b32 g7, [g4], g7`. -/
theorem test_word_bands : decodeTableWord 64 0x0040600061029C99 = some (.shfl (flds 10 8 6 0 3 .b32)) ∧
    decodeTableWord 64 0x01200000017FDCB1 = some (.meld (flds 127 11 0 0 0 .z32)) ∧
    decodeTableWord 64 0x1A4000007081DD1D = some (.waita { flds 7 4 7 0 0 .b32 with sc := .system, rm := 1 }) := by decide +kernel
/-- Chapter 6: the NOPs of 64 and 96 bits, and a word with LEN 0b00, which is illegal (Table 6-1). -/
theorem test_word_nop : decodeTableWord 64 0x1D01 = some (.nop (flds 0 0 0 0 0 .b8)) ∧
    decodeTableWord 96 0x1D02 = some (.nop { flds 0 0 0 0 0 .b8 with ext := .imm32 0 }) ∧
    decodeTableWord 64 0 = none := by decide +kernel
/-- R85: an instruction that cannot lie whole in its fetch block faults FETCHALIGN. -/
theorem test_fetchalign : decode (leBytes 4 0x1D01) = .error .fetchAlign ∧ decode (leBytes 8 0x1D02) = .error .fetchAlign := by
  decide +kernel
/-- Opcode 0x00 is unassigned (R91, R93). -/
theorem test_unassigned : decode (leBytes 8 0x1C01) = .error .illegal := by decide +kernel

/-! ## WellFormed: an ill-formed term for each check -/

theorem test_wf_len : (Instr.brx { flds 0 4 0 0 0 .b8 with ext := .imm32 0 }).wellFormed = false := by decide +kernel
theorem test_wf_type : (Instr.iadd (flds 3 1 2 0 0 .f32)).wellFormed = false := by decide +kernel
theorem test_wf_fn : (Instr.idiv (flds 3 1 2 0 1 .s32)).wellFormed = false := by decide +kernel
theorem test_wf_scope : (Instr.iadd { flds 3 1 2 0 0 .s32 with sc := .core }).wellFormed = false := by decide +kernel
theorem test_wf_rm : (Instr.fmin { flds 3 1 2 0 0 .f32 with rm := 1 }).wellFormed = false := by decide +kernel
theorem test_wf_x : (Instr.iadd { flds 3 1 2 0 0 .s32 with x := 1 }).wellFormed = false := by decide +kernel
theorem test_wf_ext : (Instr.bra { flds 0 0 0 0 0 .b8 with ext := .imm32 2 }).wellFormed = false := by decide +kernel
theorem test_wf_guard : (Instr.nop { flds 0 0 0 0 0 .b8 with g := ⟨true, 7⟩ }).wellFormed = false := by decide +kernel
theorem test_wf_unused : (Instr.iadd (flds 3 1 2 1 0 .s32)).wellFormed = false := by decide +kernel
theorem test_wf_odd_pair : (Instr.iadd (flds 4 1 2 0 0 .s64)).wellFormed = false := by decide +kernel
theorem test_wf_pair_126 : (Instr.iadd (flds 126 2 4 0 0 .s64)).wellFormed = false := by decide +kernel
theorem test_wf_block : (Instr.draw (flds 12 0 0 0 0 .b8)).wellFormed = false := by decide +kernel
theorem test_wf_predicate : (Instr.icmp (flds 8 1 2 0 0 .s32)).wellFormed = false := by decide +kernel
theorem test_wf_cursor : (Instr.fclose (flds 0 0 0 4 0 .b8)).wellFormed = false := by decide +kernel
theorem test_wf_ew_unused : (Instr.iadd { flds 3 1 2 0 0 .s32 with ew := 4 }).wellFormed = false := by decide +kernel
theorem test_wf_ew_immediate : (Instr.iadd { flds 3 1 0 0 0 .s32 with ew := 2, ext := .imm32 5 }).wellFormed = false := by
  decide +kernel
theorem test_wf_event : Instr.powerLoss.wellFormed = false := by decide +kernel
/-- R83: SC codes 6 and 7 are illegal (Table 6-3). -/
theorem test_reserved_scope : decode (leBytes 8 0x0D0000006081DE99) = .error .illegal ∧
    decode (leBytes 8 0x0F0000006081DE99) = .error .illegal := by decide +kernel

/-- R88: a register at or above REGS is illegal for the crew, though the word decodes. -/
theorem test_regs_limit : (Instr.iadd (flds 24 1 2 0 0 .s32)).regsOk 24 = false ∧
    (Instr.iadd (flds 23 1 2 0 0 .s32)).regsOk 24 = true := by decide +kernel

/-! ## One step on a small state -/

/-- A thread at `codeBase` whose registers are those listed. -/
def th (regs : FMap Word) : Thread := { plainThread (BitVec.ofNat 64 codeBase) with regs := regs }

/-- A device whose one crew has one thread. -/
def one (t : Thread) : State := { State.reset with
  crews := [(1, some { plainCrew with threads := [(0, some t)] })], cur := ⟨1, [0], t.pc, t.pc + 8, 0⟩ }

/-- The thread, and its crew. -/
def me : ThreadRef := ⟨1, 0⟩
def crewOf (t : Thread) : Crew := { plainCrew with threads := [(0, some t)] }

/-- A register of a thread after an instruction, for a state with a next one. -/
def State.after (i : Instr) (s : State) : State := match exec i s with | .next t => t | _ => s
def regAfter (i : Instr) (regs : FMap Word) (k : Nat) : Option Word :=
  ((State.after i (one (th regs))).thread me).map (·.regs.get k)

/-- R123: a count of the whole width or more: SHL gives zero and SHR of an s type the sign bits. -/
theorem test_shift_by_width : regAfter (.shl (flds 3 1 2 0 0 .b32)) [(1, 0x80000001), (2, 32)] 3 = some 0 ∧
    regAfter (.shr (flds 3 1 2 0 0 .s32)) [(1, 0x80000001), (2, 40)] 3 = some 0xFFFFFFFF := by decide +kernel
/-- R122: division by zero, and min_TY by −1. -/
theorem test_divide_corners : regAfter (.idiv (flds 3 1 2 0 0 .s32)) [(1, 7)] 3 = some 0xFFFFFFFF ∧
    regAfter (.irem (flds 3 1 2 0 0 .s32)) [(1, 7)] 3 = some 7 ∧
    regAfter (.idiv (flds 3 1 2 0 0 .s32)) [(1, 0x80000000), (2, 0xFFFFFFFF)] 3 = some 0x80000000 := by decide +kernel
/-- R122: truncation toward zero: −7 by 2 is −3, and the remainder −1. -/
theorem test_divide_truncates : regAfter (.idiv (flds 3 1 2 0 0 .s32)) [(1, 0xFFFFFFF9), (2, 2)] 3 = some 0xFFFFFFFD ∧
    regAfter (.irem (flds 3 1 2 0 0 .s32)) [(1, 0xFFFFFFF9), (2, 2)] 3 = some 0xFFFFFFFF := by decide +kernel
/-- Table 8-2: the saturating sum, and the high product of two negative numbers. -/
theorem test_saturate_and_high : regAfter (.iadd (flds 3 1 2 0 1 .s32)) [(1, 0x7FFFFFFF), (2, 1)] 3 = some 0x7FFFFFFF ∧
    regAfter (.imul (flds 3 1 2 0 1 .s32)) [(1, 0xFFFFFFFF), (2, 0xFFFFFFFF)] 3 = some 0 := by decide +kernel
/-- The spec's 128-bit addition under R127, its low half. -/
theorem test_carry_out : regAfter (.iaddc (flds 10 2 6 0 0x0F .z64)) [(2, 0xFFFFFFFF), (3, 0xFFFFFFFF), (6, 1)] 10 = some 0 ∧
    ((State.after (.iaddc (flds 10 2 6 0 0x0F .z64)) (one (th [(2, 0xFFFFFFFF), (3, 0xFFFFFFFF), (6, 1)]))).thread me).map
      (·.pred 1) = some true := by decide +kernel
/-- The spec's BYTEP under R126: a = 0x8844_2211, b = 1, c = 0x3000_1004 give 0xFF11_0001. -/
theorem test_bytep : regAfter (.bytep (flds 3 1 2 4 0 .b32)) [(1, 0x88442211), (2, 1), (4, 0x30001004)] 3 = some 0xFF110001 := by
  decide +kernel
/-- Table 8-10: 0xAC selects a where c is 1 and b elsewhere. -/
theorem test_lop3_select : regAfter (.lop3 (flds 3 1 2 4 0xAC .b32)) [(1, 0x12345678), (2, 0x9ABCDEF0), (4, 0xFFFF0000)] 3 =
    some 0x1234DEF0 := by decide +kernel
/-- R130: a compare with NaN is false, and its counterpart that takes NaN true. -/
theorem test_compare_nan : ((State.after (.fcmp (flds 1 1 2 0 2 .f32)) (one (th [(1, 0x7FC00000)]))).thread me).map (·.pred 1) =
      some false ∧
    ((State.after (.fcmp (flds 1 1 2 0 10 .f32)) (one (th [(1, 0x7FC00000)]))).thread me).map (·.pred 1) = some true := by
  decide +kernel
/-- The spec's HDOT2: (2048, 1) by (1, 1) plus 0.5 is 2049.5. -/
theorem test_hdot2 : regAfter (.hdot2 (flds 3 1 2 4 0 .f16)) [(1, 0x3C006800), (2, 0x3C003C00), (4, 0x3F000000)] 3 =
    some 0x45001800 := by decide +kernel
/-- IEEE 754: 1 by 3 in binary32 to nearest, and 2^24 + 1 to the even significand (Table 10-6). -/
theorem test_round_nearest : regAfter (.fdiv (flds 3 1 2 0 0 .f32)) [(1, 0x3F800000), (2, 0x40400000)] 3 = some 0x3EAAAAAB ∧
    regAfter (.fadd (flds 3 1 2 0 0 .f32)) [(1, 0x4B800000), (2, 0x3F800000)] 3 = some 0x4B800000 := by decide +kernel
/-- R167: −∞ clamps to min_TY, NaN gives 0. -/
theorem test_cvti_specials : regAfter (.cvti (flds 3 1 0 0 0x0E .s32)) [(1, 0xFF800000)] 3 = some 0x80000000 ∧
    regAfter (.cvti (flds 3 1 0 0 0x0E .s32)) [(1, 0x7FC00000)] 3 = some 0 := by decide +kernel
/-- Table 10-5: +0 is class 4 and a signalling NaN class 8. -/
theorem test_fclass : regAfter (.fclass (flds 3 1 0 0 0 .f32)) [] 3 = some 16 ∧
    regAfter (.fclass (flds 3 1 0 0 0 .f32)) [(1, 0x7F800001)] 3 = some 256 := by decide +kernel
/-- The spec's address of Chapter 15: parity on stack 4, data on stack 0 at offset 0x1A7AAC080. -/
theorem test_stripes : stripeOf 0x1234567880 = 3470680 ∧ parityStack (stripeOf 0x1234567880) = 4 ∧
    stackOf 0x1234567880 = 0 ∧ stackOff 0x1234567880 = 0x1A7AAC080 := by decide +kernel
/-- The spec's route of Chapter 18, from rank 3 to rank 40. -/
theorem test_route : firstPort 3 40 = 2 ∧ wiredTo 3 2 = (6, 12) ∧ firstPort 6 40 = 17 ∧ (wiredTo 6 17).1 = 44 ∧
    firstPort 44 40 = 11 ∧ (wiredTo 44 11).1 = 40 := by decide +kernel
/-- The spec's private address of Chapter 11: word 7 of thread 5 in a crew of 48. -/
theorem test_private_place : privOffset 64 5 28 = (7 * 64 + 5) * 4 := by decide +kernel
/-- R138: a taken branch goes to its own address plus the offset. -/
theorem test_branch : ((State.after (.bra { flds 0 0 0 0 0 .b8 with ext := .imm32 0xFFFFFFC0 })
    (one (th []))).thread me).map (·.pc) = some (BitVec.ofNat 64 (codeBase - 64)) := by decide +kernel
/-- R89: a load marks its destination empty, and an instruction that reads it waits. -/
theorem test_empty_waits : ((State.after (.ld (flds 7 4 0 0 0 .b32)) (one (th [(5, 0x1000)]))).thread me).map (·.empty.get 7) =
      some true ∧
    ((State.after (.iadd (flds 3 7 7 0 0 .s32)) (one { th [] with empty := [(7, true)] })).thread me).map (·.status) =
      some .waiting := by decide +kernel
/-- R142: TRAP saves its cause and code with the address of the instruction. -/
theorem test_trap : ((State.after (.trap { flds 0 0 0 0 0 .b8 with ext := .imm32 9 }) (one (th []))).crew 1).bind (·.save) =
    some { kind := 2, cause := .trap, code := 9, tid := some 0, pc := BitVec.ofNat 64 codeBase, faddr := 0, faulters := [0]
           next := BitVec.ofNat 64 (codeBase + 8), deferred := false, dest := [] } := by decide +kernel
/-- The machine runs a placed instruction as its first one. -/
theorem test_first_step : (match step (State.reset.withFetchWord 96 (0x010000000000DC06 + 2 ^ 64 * 5)) with
    | .next t => (t.thread me).map (·.regs.get 3)
    | _ => none) = some 5 := by decide +kernel

/-! ## States that meet the hypotheses of the statements -/

theorem single (t : Thread) (i : Instr) (g : Guard) (h : t.ready g (usesOf i) = .go) : (one t).Single me t i g :=
  ⟨rfl, rfl, rfl, h⟩

/-- A device whose one crew has two threads, which issue together; the second is in lane 1. -/
def two (t u : Thread) : State := { State.reset with
  crews := [(1, some { plainCrew with threads := [(0, some t), (1, some { u with pos := 1 })] })]
  cur := ⟨1, [0, 1], t.pc, t.pc + 8, 0⟩ }
def pairOf (t u : Thread) : Crew := { plainCrew with threads := [(0, some t), (1, some { u with pos := 1 })] }

/-- A group of two, of which one waits at an empty register and one executes. -/
theorem witness_groups : intEffect (.iadd (flds 3 1 2 0 0 .s32)) ≠ none ∧ threadEffect (.icmp (flds 1 1 2 0 0 .s32)) ≠ none ∧
    numEffect (.fadd (flds 3 1 2 0 0 .f32)) ≠ none ∧
    (two (th []) { th [] with empty := [(1, true)] }).cur.members.Nodup ∧
    ∀ tid ∈ (two (th []) { th [] with empty := [(1, true)] }).cur.members,
      ∃ t, (two (th []) { th [] with empty := [(1, true)] }).thread ⟨1, tid⟩ = some t ∧
        t.ready ⟨false, 7⟩ (usesOf (.iadd (flds 3 1 2 0 0 .s32))) ≠ .trap := by
  refine ⟨by simp [intEffect], by simp [threadEffect], by simp [numEffect], by decide, ?_⟩
  intro tid h
  simp only [two, List.mem_cons, List.not_mem_nil, or_false] at h
  rcases h with rfl | rfl
  · exact ⟨_, rfl, by decide +kernel⟩
  · exact ⟨_, rfl, by decide +kernel⟩

theorem witness_frame : intEffect (.iadd (flds 127 1 2 0 0 .s32)) ≠ none ∧ (Instr.iadd (flds 127 1 2 0 0 .s32)).wellFormed = true := by
  simp only [intEffect]; decide +kernel

/-- One ready thread executes each of these; the forms are well formed. -/
theorem witness_register_results : ∀ i ∈ ([
      .iadd (flds 3 1 2 0 1 .s32), .isub (flds 4 2 6 0 0 .z64), .imul (flds 4 1 2 0 2 .s32), .imad (flds 3 1 2 5 1 .z32),
      .imin (flds 127 1 2 0 0 .s32), .imax (flds 4 2 6 0 0 .s64), .iabs (flds 3 1 0 0 1 .s32), .lea (flds 4 2 1 0 7 .s32),
      .mov (flds 3 1 0 0 0 .b32), .movi { flds 4 0 0 0 0 .b64 with ext := .imm64 5 }, .popc (flds 3 2 0 0 0 .b64),
      .clz (flds 3 1 0 0 0 .b32), .brev (flds 3 1 0 0 0 .b32), .sel (flds 3 1 2 0 0x0F .b32), .idiv (flds 3 1 2 0 0 .s32),
      .irem (flds 4 2 6 0 0 .z64), .shl (flds 3 1 2 0 0 .b32), .shr (flds 4 2 1 0 0 .s64), .rot (flds 3 1 2 0 1 .b32),
      .lop3 (flds 3 1 2 4 0x96 .b32), .plop (flds 1 2 3 4 0xEE .b8), .iaddc (flds 4 2 6 0 0x0A .z64),
      .icmp { flds 1 1 2 0 0x25 .s32 with x := 3 }, .fcmp (flds 7 1 2 0 13 .f16), .p2g (flds 3 0 0 0 0 .b32),
      .g2p (flds 0 1 2 0 0 .b32), .fmin (flds 3 1 2 0 0x40 .f32), .fmax (flds 3 1 2 0 0 .bf16), .frcp (flds 3 1 0 0 0 .f32),
      .frsq (flds 3 1 0 0 0 .f32), .fexp2 (flds 3 1 0 0 0 .f32), .flog2 (flds 3 1 0 0 0 .f32), .fsin (flds 3 1 0 0 0 .f32),
      .fcos (flds 3 1 0 0 0 .f32), .ftanh (flds 3 1 0 0 0 .f32), .cvti (flds 3 1 0 0 14 .s32),
      .cvti { flds 3 1 0 0 8 .s8 with x := 1 }] : List Instr),
    i.wellFormed = true ∧ (th []).ready ⟨false, 7⟩ (usesOf i) = .go := by decide +kernel

/-- The cases of CLZ, BREV, SHL, SHR, ROT, LOP3 and P2G that give their results bit by bit. -/
theorem witness_bits : (∃ n, n ≤ 32 ∧ (∀ i, 32 - n ≤ i → i < 32 → (th []).srcA (flds 3 1 0 0 0 .b32) = 0) ∧ n = 32) ∧
    (∀ i : Fin 64, ((5 : DWord) <<< 3).getLsbD i = (decide (i.val < 64) && decide (3 ≤ i.val) && (5 : DWord).getLsbD (i - 3))) := by
  refine ⟨⟨32, by omega, fun _ _ _ => by decide +kernel, rfl⟩, by decide +kernel⟩

/-- Every case of the operands of FMIN and FMAX, and boundary inputs of the approximate functions. -/
theorem witness_numbers : (fmtOf .f32).decode 0x7FC00000 = .nan ∧ (fmtOf .f32).decode 0x3F800000 ≠ .nan ∧
    (0x7F800000 < (0x7F800001 : Nat) % 2 ^ 31) ∧ (0x001FFFFF : Nat) % 2 ^ 31 < 0x00200000 ∧ (0x80000000 : Nat) % 2 ^ 31 = 0 ∧
    0x80000000 < (0x80000001 : Nat) ∧ 0x43000000 ≤ (0x43000000 : Nat) ∧ (0xC3160000 : Nat) ≤ 0xFF800000 ∧
    (0x39FFFFFF : Nat) % 2 ^ 31 < 0x3A000000 ∧ Ty.isFloat (cvtSrc (flds 3 1 0 0 14 .s32)) = true ∧
    Ty.isFloat (cvtSrc (flds 3 1 0 0 8 .s8)) = false ∧ numOf .f32 0x7F800000 = .inf false ∧ numOf .f32 0x7FC00000 = .nan ∧
    (∃ n m e, numOf .f32 0x3F800000 = .fin n m e) := by
  repeat' apply And.intro
  all_goals first | decide +kernel | exact ⟨_, _, _, rfl⟩

/-! ### Control and collectives -/

/-- A false guard; an empty destination; an empty source without and with its EW bit. -/
theorem witness_guards : perMember (.iadd (flds 3 1 2 0 0 .s32)) ≠ none ∧
    (one (th [])).cur.crew = me.crew ∧ (one (th [])).cur.members = [me.tid] ∧ (one (th [])).thread me = some (th []) ∧
    (let f : Fields := { flds 3 1 2 0 0 .s32 with g := ⟨true, 0⟩ }
     ((if f.g.pred = 7 then true else (({ th [] with preds := [(0, true)] } : Thread).preds.get f.g.pred.toNat)) != f.g.neg) = false) ∧
    (∃ k ∈ (usesOf (.iadd (flds 3 1 2 0 0 .s32))).dst, (({ th [] with empty := [(3, true)] } : Thread).empty.get k) = true) ∧
    (∃ x ∈ (usesOf (.iadd (flds 3 1 2 0 0 .s32))).srcs, x.2 = false ∧
      ∃ k ∈ x.1, (({ th [] with empty := [(1, true)] } : Thread).empty.get k) = true) ∧
    (∃ x ∈ (usesOf (.iadd { flds 3 1 2 0 0 .s32 with ew := 1 })).srcs, x.2 = true ∧
      ∃ k ∈ x.1, (({ th [] with empty := [(1, true)] } : Thread).empty.get k) = true) := by
  decide +kernel

/-- Control instructions of one ready thread. -/
theorem witness_control : ∀ i ∈ ([
      .bra { flds 0 0 0 0 0 .b8 with ext := .imm32 8 }, .brx (flds 0 4 0 0 0 .b8), .ret (flds 0 4 0 0 0 .b8),
      .call { flds 4 0 0 0 0 .b8 with ext := .imm32 8 }, .call (flds 4 4 0 0 1 .b8), .retire (flds 0 0 0 0 0 .b8),
      .exit (flds 0 0 0 0 0 .b8), .sleep { flds 0 0 0 0 0 .z32 with ext := .imm32 9 },
      .trap { flds 0 0 0 0 0 .b8 with ext := .imm32 255 }, .brk (flds 0 0 0 0 0 .b8), .gets (flds 3 0 0 0 0x0B .b32),
      .gets (flds 4 0 0 0 0x19 .b64), .sets { flds 0 0 0 0 0x1C .b32 with ext := .imm32 2 }, .sets (flds 0 1 0 0 0x1D .b32)]
      : List Instr), i.wellFormed = true ∧ (th []).ready ⟨false, 7⟩ (usesOf i) = .go := by decide +kernel

theorem witness_thread_ends : (one (th [])).crew me.crew = some (crewOf (th [])) ∧ (th []).tx.state = .outside ∧
    (one (th [])).released me = true ∧ (th []).errs = [] ∧ (crewOf (th [])).save = none := by decide +kernel

theorem witness_sleep_expire : (one { th [] with status := .sleeping 0 }).thread ⟨1, 0⟩ = some { th [] with status := .sleeping 0 } ∧
    (0 : Nat) ≤ (one (th [])).fab := by decide +kernel

/-- An address of the capacity tier, and a thread that holds it in g4 and g5. -/
def va : Nat := codeBase + 0x1000
def gth : Thread := th [(4, 0x1000), (5, 0x1000)]
/-- The result of a translation, and the state that it leaves. -/
def tgOf (s : State) (a : Nat) (n : Need) (at_ : Bool) : Target :=
  match (s.translate 0 0 a n at_).1 with | .ok t => t | .error _ => ⟨0, .pma, false⟩
def stOf (s : State) (a : Nat) (n : Need) (at_ : Bool) : State := (s.translate 0 0 a n at_).2

/-- R141: a WAITA that issues, on a word that differs from b (g7 is 0 and so is memory; with g6 = 1 it differs), and one that
is read again. -/
theorem witness_waita :
    (let f : Fields := { flds 7 4 7 0 0 .b32 with sc := .device }
     let s1 := stOf (one gth) va .read false
     let tg := tgOf (one gth) va .read false
     gth.ready f.g (usesOf (.waita f)) = .go ∧ (one gth).crew 1 = some (crewOf gth) ∧ gth.tx.state = .outside ∧
       (gth.globalAddr f).toNat = va ∧ va % tyBytes f.ty = 0 ∧
       (one gth).translate (crewOf gth).cluster (crewOf gth).fn va .read false = (.ok tg, s1) ∧ s1.viewBusy tg.pa = false ∧
       tg.peer = false ∧ s1.acqPending me = false ∧ tg.kind ≠ .io ∧ (s1.arenaOf 0 va).isNone = true ∧ s1.writePending me tg.pa 4 = false ∧
       s1.marked (tg.pa / 128) (some me) true = false ∧ s1.homeBusy tg.pa = false ∧ s1.ownedBy (ownerCode 0) tg.pa = true ∧
       s1.runBad tg.pa 4 = false ∧ BitVec.ofNat 64 (s1.valueAt tg.pa 4) = gth.srcB f f.ty ∧
       BitVec.ofNat 64 (s1.valueAt tg.pa 4) ≠ ({ gth with regs := [(7, 1)] } : Thread).srcB f f.ty) ∧
    (let t : Thread := { gth with status := .waita va va 4 0 7 .none 0 }
     (one t).thread me = some t ∧ (one t).crew 1 = some (crewOf t) ∧ (crewOf t).loc.isSome = true ∧ (crewOf t).save = none ∧
       (one t).isPeer va = false ∧ (one t).homeBusy va = false ∧ regionOf va ≠ .view ∧ (one t).marked (va / 128) (some me) true = false ∧
       (one t).ownedBy (ownerCode 0) va = true ∧ (one t).runBad va 4 = false) := by decide +kernel

/-- R111: two threads, all of band 0, at a collective, one with a false guard; no thread in another band. -/
theorem witness_band_collective :
    (let f : Fields := { flds 1 0 0 0 1 .b8 with g := ⟨false, 0⟩ }
     let u : Thread := { th [] with preds := [(0, true)] }
     let c := pairOf u (th [])
     bandColl (.vote f) = some f ∧ (two u (th [])).crew (two u (th [])).cur.crew = some c ∧ c.threads.wf = true ∧
       c.liveThreads.filter (fun t => t.2.pos / 32 == 0) ≠ [] ∧ (two u (th [])).cur.members.Nodup ∧
       (two u (th [])).cur.members = (c.liveThreads.filter (fun t => t.2.pos / 32 == 0)).map (·.1) ∧
       ∀ t ∈ c.liveThreads, t.2.pc = BitVec.ofNat 64 codeBase ∧
         (t.2.ready f.g (usesOf (.vote f)) = .go ∨ t.2.ready f.g (usesOf (.vote f)) = .off)) ∧
    ∀ k, k ≠ 0 → ∀ t ∈ (pairOf (th []) (th [])).liveThreads, t.2.pos / 32 ≠ k := by
  refine ⟨by decide +kernel, ?_⟩
  intro k hk t ht
  have h : ∀ t ∈ (pairOf (th []) (th [])).liveThreads, t.2.pos / 32 = 0 := by decide +kernel
  rw [h t ht]; omega

/-- R111: the other thread of the band has not come. -/
theorem witness_incomplete_collective :
    ({ two (th []) (th []) with cur := ⟨1, [0], 0, 8, 0⟩ } : State).Single me (th []) (.vote (flds 1 0 0 0 1 .b8)) ⟨false, 7⟩ ∧
    ({ two (th []) (th []) with cur := ⟨1, [0], 0, 8, 0⟩ } : State).crew me.crew = some (pairOf (th []) (th [])) ∧
    (pairOf (th []) (th [])).threads.wf = true ∧
    ∀ k, (∀ t ∈ (pairOf (th []) (th [])).liveThreads, t.2.pos / 32 ≠ k) ∨
      ∃ t ∈ (pairOf (th []) (th [])).liveThreads, t.1 ≠ me.tid ∧ t.2.pos / 32 = k ∧ atRendezvous t.2 = none := by
  refine ⟨⟨rfl, rfl, rfl, by decide +kernel⟩, rfl, by decide +kernel, ?_⟩
  intro k
  by_cases h : k = 0
  · subst h; exact .inr ⟨(1, { th [] with pos := 1 }), by decide +kernel, by decide, by decide +kernel, by decide +kernel⟩
  · left
    intro t ht
    have h0 : ∀ t ∈ (pairOf (th []) (th [])).liveThreads, t.2.pos / 32 = 0 := by decide +kernel
    rw [h0 t ht]; omega

/-- R133: participants in two lanes, a destination that is no constant, and a source lane of SHFL that takes part. -/
theorem witness_collective_results :
    (let ps : List Part := [⟨0, 0, th [(1, 5)]⟩, ⟨31, 1, { th [(1, 7)] with pos := 31 }⟩]
     (∀ p ∈ ps, p.lane < 32) ∧ ps.Pairwise (fun a b => a.lane ≠ b.lane) ∧
       (∃ p ∈ ps, p.lane = (th []).pos % 32 / 32 * 32 + ((th []).srcBi { flds 3 1 0 0 0 .b32 with ext := .imm32 31 } .b32).toNat % 2 ^ 32 % 32) ∧
       (3 : BitVec 7) ≠ 127 ∧ (3 : BitVec 7).extractLsb' 0 3 ≠ 7) := by decide +kernel

/-- R136: both threads of a crew at BARC, plain and with its release, and at MELD. -/
theorem witness_crew_collectives :
    (let c := pairOf (th []) (th [(1, 3)])
     let s := two (th []) (th [(1, 3)])
     s.crew s.cur.crew = some c ∧ c.threads.wf = true ∧ c.liveThreads ≠ [] ∧ s.cur.members.Nodup ∧
       s.cur.members = c.liveThreads.map (·.1) ∧ c.liveThreads.Pairwise (fun t u => t.2.pos ≠ u.2.pos) ∧
       ∀ t ∈ c.liveThreads, t.2.pc = BitVec.ofNat 64 codeBase ∧ t.2.pos / 32 < 32 ∧
         t.2.ready ⟨false, 7⟩ (usesOf (.barc { flds 0 0 0 0 0 .b8 with sc := .core, rm := 3 })) = .go ∧
         t.2.tx.state ≠ .transactional ∧ t.2.errs = [] ∧ s.released ⟨s.cur.crew, t.1⟩ = true ∧
         t.2.ready ⟨false, 7⟩ (usesOf (.meld (flds 3 1 0 0 0 .z32))) = .go) := by decide +kernel

/-- R114: a rendezvous that has stood since cycle 0, at its limit. -/
theorem witness_bandwait :
    (let t : Thread := arrived (.vote (flds 1 0 0 0 1 .b8)) true (th [])
     let c : Crew := { crewOf t with rend := [(0, some 0)] }
     let s : State := { one t with crews := [(1, some c)], fab := 2 ^ 20 * Config.fabPerCycle }
     s.crew 1 = some c ∧ c.loc.isSome = true ∧ c.save = none ∧ ((0, some 0) : Nat × Option Nat) ∈ c.rend ∧
       0 + 2 ^ 20 * Config.fabPerCycle ≤ s.fab ∧ lowestWaiting c = some (0, t)) := by decide +kernel

/-! ### Memory -/

/-- A thread's access to memory passes its checks. -/
theorem access (t : Thread) (i : Instr) (f : Fields) (n : Nat) (need : Need) (at_ : Bool)
    (h : t.ready f.g (usesOf i) = .go) (ha : (t.globalAddr f).toNat % n = 0)
    (ht : (one t).translate (crewOf t).cluster (crewOf t).fn (t.globalAddr f).toNat need at_ =
      (.ok (tgOf (one t) (t.globalAddr f).toNat need at_), stOf (one t) (t.globalAddr f).toNat need at_))
    (hv : (stOf (one t) (t.globalAddr f).toNat need at_).viewBusy (tgOf (one t) (t.globalAddr f).toNat need at_).pa = false) :
    (one t).Access (stOf (one t) (t.globalAddr f).toNat need at_) me t i f n need at_ (crewOf t)
      (tgOf (one t) (t.globalAddr f).toNat need at_) :=
  ⟨single t i f.g h, rfl, ha, ht, hv⟩

/-- R204, R205: a load and a `.rel` store of one thread. -/
theorem witness_global_access :
    (one gth).Access (stOf (one gth) va .read false) me gth (.ld (flds 7 4 0 0 0 .b32)) (flds 7 4 0 0 0 .b32) 4 .read false
      (crewOf gth) (tgOf (one gth) va .read false) ∧
    (one gth).Access (stOf (one gth) va .write false) me gth (.st { flds 0 4 7 0 0 .b32 with sc := .device, rm := 2 })
      { flds 0 4 7 0 0 .b32 with sc := .device, rm := 2 } 4 .write false (crewOf gth) (tgOf (one gth) va .write false) ∧
    gth.tx.state ≠ .transactional ∧ (stOf (one gth) va .read false).acqPending me = false ∧
    (stOf (one gth) va .write false).acqPending me = false ∧
    (stOf (one gth) va .write false).readPending me .global (tgOf (one gth) va .write false).pa 4 = false ∧
    (stOf (one gth) va .write false).released me = true ∧ gth.errs = [] ∧
    ((stOf (one gth) va .write false).arenaOf 0 va).isNone = true ∧
    (one gth).l1Holds (crewOf gth) gth (flds 7 4 0 0 0 .b32) = none := by
  refine ⟨access gth _ _ _ _ _ ?_ ?_ ?_ ?_, access gth _ _ _ _ _ ?_ ?_ ?_ ?_, ?_⟩ <;> decide +kernel

/-- R193: a load that its core's L1 holds, and the same load with the line evicted. -/
theorem witness_l1_hit :
    (let f := flds 7 4 0 0 0 .b32
     let x : L1Line := {
       core := 0, vline := va / 128, vmid := (one gth).vmid 0, asid := (one gth).asid 0, pline := va / 128, page := va / 4096 * 4096
       psize := 4096, kind := .pma, valid := 15, data := [] }
     let s : State := { one gth with l1 := [x] }
     let s0 := ({ s with fresh := s.fresh + 1 } : State).dropL1 (fun (y : L1Line) => y.core == 0 && y.pline == x.pline)
     s.l1Holds (crewOf gth) gth f = some x ∧ (va : Nat) % 4 = 0 ∧ s.acqPending me = false ∧
       s.readPending me .global (x.pline * 128 + va % 128) 4 = false ∧
       s0.translate 0 0 va .read false = (.ok (tgOf s0 va .read false), stOf s0 va .read false) ∧
       (stOf s0 va .read false).viewBusy (tgOf s0 va .read false).pa = false) := by decide +kernel

/-- R198: a local access at the top of LOCAL. -/
theorem witness_local_access :
    (let t := th [(4, BitVec.ofNat 32 (Config.localBytes - 4))]
     let f := flds 7 4 7 0 0 .b32
     (one t).crew 1 = some (crewOf t) ∧ t.localAddr f % 4 = 0 ∧ t.localAddr f + 4 ≤ (crewOf t).rcd.localBytes ∧
       (one t).localEmpty 1 (t.localAddr f) 4 = false ∧ (one t).acqPending me = false ∧ (one t).objectsMet 1 (t.localAddr f) 4 = [] ∧
       t.ready f.g (usesOf (.lds (flds 7 4 0 0 0 .b32))) = .go ∧ t.ready f.g (usesOf (.sts (flds 0 4 7 0 0 .b32))) = .go ∧
       (t.storeBytes (flds 0 4 7 0 0 .b32)).length = 4) := by decide +kernel

/-- A thread with the offset of the last private word, and a device whose function 0 keeps private memory in the capacity
tier and has its page in a TLB. -/
def pth : Thread := th [(4, 60)]
def privS (n : Need) : State :=
  let s : State := { one pth with regs := [((Reg.fpriv 0).key, some (BitVec.ofNat 64 codeBase))] }
  stOf s (s.privAddr (crewOf pth) (privOffset (crewOf pth).stride 0 60)) n false

/-- R186: private accesses at the top of PRIV, of words that the L1 does not hold. -/
theorem witness_private_access : ∀ n ∈ [Need.read, Need.write],
    (privS n).crew 1 = some (crewOf pth) ∧ me.tid < (crewOf pth).stride ∧ pth.localAddr (flds 7 4 7 0 0 .b32) = 60 ∧
      pth.ready ⟨false, 7⟩ (usesOf (.ldp (flds 7 4 0 0 0 .b32))) = .go ∧ pth.ready ⟨false, 7⟩ (usesOf (.stp (flds 0 4 7 0 0 .b32))) = .go ∧
      60 + 4 ≤ (crewOf pth).rcd.priv * 4 ∧ pth.tx.state ≠ .transactional ∧ (privS n).privHeld (crewOf pth) 0 60 4 n = none ∧
      (let x := (privS n).privTranslate (crewOf pth) n ((privS n).privWords (crewOf pth) 0 60 4)
       x.1.toOption.isSome = true ∧
         ∀ tgs, x.1 = .ok tgs →
           let v : State := { x.2 with l1 := x.2.besides (crewOf pth) tgs }
           let offs := privOffsets (crewOf pth).stride 0 60 4
           x.2.PrivCalm me (crewOf pth) 60 4 tgs ∧ privFill (crewOf pth) offs tgs v.homeBusy = false ∧
             v.privFault (crewOf pth) offs tgs = none ∧
             (let y := v.putCrew 1 ((crewOf pth).putOwn (v.privTag (crewOf pth)) offs tgs [1, 2, 3, 4])
              (y.l1.filter (fun (l : L1Line) => l.core == 0)).length + (y.privLines 0).length ≤ Config.l1Lines)) := by
  intro n hn
  simp only [List.mem_cons, List.not_mem_nil, or_false] at hn
  rcases hn with rfl | rfl
  all_goals
    repeat' apply And.intro
    all_goals first | decide +kernel | (intro tgs h; cases h; simp only [State.PrivCalm]; decide +kernel)

/-- The crew of `pth` with the last word of PRIV dirty in the L1. -/
def heldCrew : Crew :=
  let o := privOffset (crewOf pth).stride 0 60
  let pa := codeBase + o
  { crewOf pth with
    own := [(o, some 1), (o + 1, some 2), (o + 2, some 3), (o + 3, some 4)]
    ownPa := [(o, pa), (o + 1, pa + 1), (o + 2, pa + 2), (o + 3, pa + 3)]
    tags := [(o / 128, some { vmid := (one pth).vmid 0, asid := (one pth).asid 0, pline := pa / 128, page := pa / 4096 * 4096
                              psize := 4096, kind := .pma })] }
def heldS : State := (privS .read).putCrew 1 heldCrew

/-- R193: a private word that the L1 holds, found before any translation. -/
theorem witness_private_hit :
    (heldS.privHeld heldCrew 0 60 4 .read).isSome = true ∧
    ∀ tgs, heldS.privHeld heldCrew 0 60 4 .read = some tgs →
      (let s0 := (heldS.choose 2).2
       let x := s0.privTranslate heldCrew .read (heldS.privWords heldCrew 0 60 4)
       x.1 = .ok tgs ∧ s0.PrivCalm me heldCrew 60 4 tgs ∧ x.2.PrivCalm me heldCrew 60 4 tgs) := by
  refine ⟨by decide +kernel, ?_⟩
  intro tgs h
  cases h
  simp only [State.PrivCalm]
  decide +kernel

/-- A read of the thread `me` in flight, and a write of it at an address. -/
def aLoad (pa : Nat) : Load := { mkLoad 7 me gth (flds 7 4 0 0 0 .b32) .global va pa with form := 0 }
def aWrite (pa : Nat) (bytes : List Byte) : Write := {
  id := 9, by_ := .thread me, owner := 2, space := .global, va := va, pa := pa, bytes := bytes, kind := .pma, stage := .issued
  atom := none, lazy := false, pc := 0, grp := 0, tag := none, sent := 0, old := none, core := some 0 }
/-- HBM frame 0 belongs to function 0. -/
def owned : FMap (Option Byte) := [(0, some 2)]

/-- R204: data that have come, and data read at their home slice. -/
theorem witness_landing : ∀ l ∈ [{ aLoad va with data := some [1, 2, 3, 4] }, { aLoad va with form := 2 },
      { aLoad va with acq := .device }],
    (let s : State := { one gth with loads := [l] }
     s.loads.find? (fun (o : Load) => o.id == l.id && !o.poison) = some l ∧ s.crew l.who.crew = some (crewOf gth) ∧
       s.thread l.who = some gth ∧ gth.tx.state ≠ .irrevocable ∧ (crewOf gth).loc.isSome = true ∧ s.loadHeld l = false ∧
       l.form % 2 = 0 ∧ l.space = .global ∧ s.homeBusy l.pa = false ∧ regionOf l.pa ≠ .view ∧ (s.arenaOf 0 l.va).isNone = true ∧ (l.data = none → l.form = 2 ∨ l.kind = .io ∨ wideScope l.acq = true) ∧ l.atomic = false ∧ l.sync = false ∧
       l.cmp = none ∧ s.writePending l.who l.pa (l.width * l.count) = false ∧ s.marked (l.pa / 128) (some l.who) true = false ∧
       s.ownedBy (ownerCode 0) l.pa = true ∧ s.runBad l.pa (l.width * l.count) = false) := by decide +kernel

/-- R283: a load that finds no copy in its L1, at the end of a line. -/
theorem witness_load_miss :
    (let l := aLoad (va + 124)
     let l := { l with va := va + 124 }
     l.form = 0 ∧ l.kind ≠ .io ∧ wideScope l.acq = false ∧ (one gth).l1Find (crewOf gth).core 0 l.va = none ∧
       ((one gth).arenaOf 0 l.va).isNone = true ∧ (crewOf gth).own = [] ∧ (one gth).l1 = [] ∧ (one gth).privLines 0 = [] ∧
       0 < l.width * l.count ∧ l.pa % 128 + l.width * l.count ≤ 128 ∧ l.va % 128 = l.pa % 128 ∧
       ∀ k, k < 4 → (one gth).runBad (l.pa / 128 * 128 + 64 * (k / 2)) 64 = false) := by decide +kernel

/-- R282: a write of a whole sector, and a host agent's byte at the end of a sector. -/
theorem witness_home_write :
    (let w := aWrite va (List.replicate 64 5)
     let s : State := { one gth with writes := [w] }
     s.writes.find? (fun (o : Write) => o.id == w.id) = some w ∧ s.mayPerform w = true ∧ s.ownedBy w.owner w.pa = true ∧
       s.checks = [] ∧ w.atom = none ∧ regionOf w.pa ≠ .view ∧ s.thread me = some gth ∧ gth.tx.state ≠ .irrevocable ∧
       (w.pa ≤ 64 * (va / 64) ∧ 64 * (va / 64) + 64 ≤ w.pa + w.bytes.length)) ∧
    regionOf 63 = .hbm ∧ regionOf (va + 63) = .capacity ∧ (63 : Nat) % 64 + 1 ≤ 64 ∧ (one gth).marked 0 none false = false := by
  decide +kernel

/-- R164: the last two elements of one group of a T6 view and the first of the next. -/
theorem witness_view_write :
    (let w : Window := { n := 0, base := 0x10000000000, size := 65536, codes := 0, scales := 0, t6 := true, noScale := true }
     w.t6 = true ∧ ([1, 2, 3] : List Byte) ≠ [] ∧ (w.group 3).1 = 0 ∧ (w.group 4).1 = 3 ∧
       ((one gth).viewWrite w 2 [1, 2, 3]).2.length = 6) := by decide +kernel

/-- R212: an atomic that may be performed. -/
theorem witness_atomic_home :
    (let a : AtomOp := { op := 0, ty := .s32, b := 1, c := 0, d := none, acq := .none }
     let w : Write := { aWrite va (List.replicate 4 0) with atom := some a }
     let s : State := { one gth with writes := [w] }
     s.writes.find? (fun (o : Write) => o.id == w.id) = some w ∧ s.mayPerform w = true ∧ s.ownedBy w.owner w.pa = true ∧
       s.checks = [] ∧ (s.arenaOf (ownerFn w.owner) w.va).isNone = true ∧ w.atom = some a ∧ regionOf w.pa ≠ .view ∧ s.runBad w.pa w.bytes.length = false ∧ gth.tx.state ≠ .irrevocable) := by
  decide +kernel

/-- R210: every integer type differs from f32. -/
theorem witness_atomic_values : Ty.s32 ≠ .f32 ∧ Ty.z64 ≠ .f32 := by decide

/-- R264: a write that has settled in each of the three ways. -/
theorem witness_settled : ∀ w ∈ [{ aWrite 64 [1] with stage := .applied }, { aWrite 64 [1] with stage := .delta, lazy := true },
      { aWrite va [1] with stage := .home }],
    (let s : State := { one gth with writes := [w] }
     s.writes.find? (fun (o : Write) => o.id == w.id) = some w ∧ w.by_ = .thread me ∧ w.space ≠ .peer ∧
       (w.stage = .applied ∨ w.stage = .delta ∧ w.lazy = true ∨ w.stage = .home ∧ regionOf w.pa = .capacity)) := by decide +kernel

/-- R263: a write of two units at its memory-side cache, and a delta at the end of a unit. -/
theorem witness_parity :
    (let w : Write := { aWrite 2047 [1, 2] with stage := .home }
     let s : State := { one gth with writes := [w] }
     s.writes.find? (fun (o : Write) => o.id == w.id) = some w ∧ w.stage = .home ∧ regionOf w.pa = .hbm ∧ s.lost = [] ∧
       w.bytes ≠ [] ∧ w.bytes.length ≤ 2048 ∧ s.mscBehind w = false ∧ (unitPieces w.pa w.bytes).all s.pieceMayGo = true ∧ s.checks = []) ∧
    (let d : Delta := { write := 9, stack := 1, stripe := 0, off := 2046, bytes := [1, 2], pa := 2046, lazy := false, owner := 2
                        by_ := .thread me }
     let s : State := { one gth with deltas := [d] }
     s.deltas.find? (fun (x : Delta) => x.write == d.write) = some d ∧ d.off + d.bytes.length ≤ 2048 ∧
       (∀ k ∈ d.sectors, s.parityChecks.get k = 0) ∧ (s.deltas.erase d).all (fun x => x.write != d.write) = true) := by decide +kernel

theorem parityMatches_reset : ParityMatches State.reset := by
  intro stripe b _
  have h : ∀ k : Nat, FMap.get ([] : FMap Byte) k = 0 := fun _ => rfl
  simp [State.reset, h, List.range, List.range.loop]

/-- A device whose start-up is complete. -/
def readyS : State := { one gth with regs := [(Reg.devstat.key, some 0x80000000)] }

/-- R266: the last stack, lost first and lost second; declared by MEMCTL. -/
theorem witness_stack_loss : ∀ l ∈ [[], [3]],
    (let s : State := { readyS with lost := l }
     (11 : Nat) < 12 ∧ s.isLost 11 = false ∧ s.deltas = [] ∧ s.writes = [] ∧ s.field (.msiCtl 64 2) 0 1 = 1 ∧ s.ready = true ∧ (0x8B : Word).toNat % 16 = 11 ∧
       (0x8B : Word).getLsbD 7 = true) := by decide +kernel

/-- R271: a parity sector that does not match its data. -/
theorem witness_scrub :
    (let s : State := { one gth with parity := [(2047, 1)] }
     (1984 : Nat) < 2048 ∧ 1984 % 64 = 0 ∧ s.field .memctl 31 1 = 1 ∧ s.lost = [] ∧ s.stripeDirty 0 = false ∧ s.checks = [] ∧ s.parityBad = [] ∧ s.parityChecks = [] ∧
       s.parity.getList (parityKey 0 1984) 64 ≠ s.dataParity 0 1984 64) := by decide +kernel

/-- R277: the top class, and a lower one whose turn it is. -/
theorem witness_channel :
    (let a : HbmReq := ⟨1, 0, 0, 0, 5⟩
     let b : HbmReq := ⟨2, 0, 0, 2, 3⟩
     let s : State := { one gth with hbmq := [a, b] }
     let t : State := { s with grants := [(0, 16)] }
     s.waitingClasses 0 = [0, 2] ∧ earliest (s.hbmq.filter (fun x => x.stack == 0 && x.cls == 0)) = some a ∧
       max 1 (t.field .memctl 16 8) ≤ t.grants.get 0 ∧ earliest (t.hbmq.filter (fun x => x.stack == 0 && x.cls == 2)) = some b) := by
  decide +kernel

/-- R279: a fill of a frame of function 0. -/
theorem witness_fill : (let s : State := { one gth with owners := owned }
    regionOf 0 = .hbm ∧ s.homeBusy 0 = false ∧ s.ownedBy (ownerCode 0) 0 = true ∧ s.countHeld 0 0 = false) ∧
    (let s : State := { one gth with owners := owned, loads := [aLoad 0] }
     s.loads.any (fun (l : Load) => l.space == .global && l.pa / 64 == 0 && s.fnOf l.who.crew == 0) = true) := by
  decide +kernel

/-- The registers of the memory system. -/
theorem witness_memory_registers : readyS.ready = true ∧ (0x80000000 : Word).getLsbD 31 = true ∧
    readyS.field (.hotctl 0) 31 1 = 0 ∧ readyS.tableOwned 0 = false ∧ (0 : DWord).getLsbD 63 = false ∧
    ((readyS.reg .lzctl) &&& ~~~((1 : Word).setWidth 64) &&& Reg.lzctl.rw) = 0 ∧
    (({ readyS with regs := [(Reg.lzctl.key, some 1), (Reg.devstat.key, some 0x80000000)] } : State).reg .lzctl &&&
      ~~~((0 : Word).setWidth 64) &&& Reg.lzctl.rw) ≠ 0 ∧
    (let s : State := { readyS with regs := [(Reg.lzctl.key, some 0x80000000), (Reg.devstat.key, some 0x80000000)] }
     s.field .lzctl 31 1 = 1 ∧ s.lazyDraining = false) := by decide +kernel

/-! ### Order, transactions, cursors, work -/

/-- A thread in a transaction, in its trump, and one at its threshold. -/
def txth : Thread := { gth with tx := { (default : Tx) with state := .transactional, target := 0x40 } }
def irth : Thread := { gth with tx := { (default : Tx) with state := .irrevocable, target := 0x40 } }
def escth : Thread := { gth with tx := { (default : Tx) with count := 8 } }

/-- A read that gave its bytes; a step of a transaction that did not abort. -/
def gotBytes : ReadOut → Bool | .ok _ => true | _ => false
def txOk {α : Type} : TxOut α → Bool | .ok _ => true | _ => false

/-- Instructions of one ready thread. -/
theorem witness_order_ready : ∀ i ∈ ([
      .fence { flds 0 0 0 0 0 .b8 with sc := .device, rm := 1 }, .fence { flds 0 0 0 0 0 .b8 with sc := .cluster, rm := 2 },
      .fence { flds 0 0 0 0 0 .b8 with sc := .system, rm := 3 }, .cinv (flds 0 0 0 0 1 .b8), .cinv (flds 0 4 0 0 0 .b8),
      .cwb (flds 0 0 0 0 0 .b8), .cwb (flds 0 4 0 0 1 .b8), .prefm (flds 0 4 0 0 0 .b8), .spmk (flds 0 1 2 0 1 .z32),
      .spmk { flds 0 1 2 0 1 .z32 with sc := .core, rm := 2 }, .spwt (flds 0 1 2 0 0 .z32),
      .atom { flds 7 4 6 0 0 .s32 with sc := .device }, .acas { flds 7 4 6 8 0 .b32 with sc := .core, rm := 3 },
      .red { flds 0 4 6 0 5 .b32 with sc := .domain, rm := 2 }, .txb { flds 0 0 0 0 1 .b8 with ext := .imm32 0x80 },
      .txa { flds 0 0 0 0 0 .b8 with ext := .imm32 7 }, .txc (flds 0 0 0 0 0 .b8), .ld (flds 7 4 0 0 0 .b32),
      .st (flds 0 4 7 0 0 .b32), .fopen (flds 0 4 0 3 0 .b8), .sopen (flds 0 4 0 3 0 .b8), .fget (flds 7 0 0 1 2 .z32),
      .fget (flds 7 0 0 1 0 .z32), .fseek (flds 0 0 6 1 0 .z32), .snext (flds 7 0 0 1 0 .b32), .snext (flds 8 0 0 1 1 .b64),
      .draw { flds 16 0 0 0 0x25 .b8 with x := 1 }, .draw (flds 16 0 0 0 4 .b8), .append (flds 0 16 0 0 4 .b8),
      .bndset { flds 0 0 0 0 0 .s32 with ext := .imm32 9 }, .nestq { flds 4 0 0 0 4 .b64 with ext := .imm32 31 }] : List Instr),
    i.wellFormed = true ∧ gth.ready ⟨false, 7⟩ (usesOf i) = .go ∧ txth.ready ⟨false, 7⟩ (usesOf i) = .go ∧
      irth.ready ⟨false, 7⟩ (usesOf i) = .go ∧ escth.ready ⟨false, 7⟩ (usesOf i) = .go := by decide +kernel

/-- R293 to R295: a thread with nothing outstanding, and one with a store not yet acknowledged. -/
theorem witness_fences : (one gth).crew me.crew = some (crewOf gth) ∧ gth.tx.state ≠ .transactional ∧ (one gth).loadsOf me = [] ∧
    (one gth).released me = true ∧ gth.errs = [] ∧ (one { gth with unack := 1 }).released me = false ∧
    canonical (gth.globalAddr (flds 0 4 0 0 0 .b8)).toNat = true ∧ gth.unack = 0 ∧ gth.unackNc = 0 ∧
    (one gth).deltaPending me = false ∧ (tgOf (one gth) va .read false).peer = false ∧ (tgOf (one gth) va .read false).kind ≠ .io ∧
    (stOf (one gth) va .read false).lineDirty (tgOf (one gth) va .read false).pa = false := by decide +kernel

/-- R208, R209: a page of HBM that is not owned, and one that is; marks of the last lines of LOCAL. -/
theorem witness_prefetch :
    ((one (th [])).translate 0 0 0 .read false).1.toOption.isNone = true ∧
    (let s : State := { one (th []) with owners := owned }
     (s.translate 0 0 0 .read false).1 = .ok ⟨0, .pma, false⟩ ∧ regionOf 0 ≠ .capacity) ∧
    (let t := th [(1, BitVec.ofNat 32 (Config.localBytes - 256)), (2, 2)]
     (t.reg 1).toNat % 128 = 0 ∧ (t.reg 1).toNat + 128 * (t.srcBi (flds 0 1 2 0 0 .z32) .z32).toNat ≤ (crewOf t).rcd.localBytes ∧
       t.tx.state ≠ .transactional ∧ (one t).released me = true ∧ 0 < (t.srcBi (flds 0 1 2 0 0 .z32) .z32).toNat ∧
       (one t).localEmpty 1 (t.reg 1).toNat 256 = false) := by decide +kernel

/-- R211: atomics of one thread, at device scope and at core scope. -/
theorem witness_atomics :
    (let f : Fields := { flds 7 4 6 0 0 .s32 with sc := .device, rm := 3 }
     (one gth).Access (stOf (one gth) va .write true) me gth (.atom f) f 4 .write true (crewOf gth) (tgOf (one gth) va .write true)) ∧
    (let s1 := stOf (one gth) va .write true
     let tg := tgOf (one gth) va .write true
     gth.tx.state ≠ .transactional ∧ s1.released me = true ∧ gth.errs = [] ∧ s1.acqPending me = false ∧
       (s1.arenaOf 0 va).isNone = true ∧ s1.readPending me .global tg.pa 4 = false ∧ tg.kind ≠ .io ∧ tg.peer = false ∧
       gotBytes (s1.readNow me (crewOf gth) gth va 4 tg false).1 = true) := by
  refine ⟨access gth _ _ _ _ _ ?_ ?_ ?_ ?_, ?_⟩ <;> decide +kernel

/-- R304: no escalation, escalation with a free token, with a held one, and a nested TXB. -/
theorem witness_txb : (th []).tx.state = .outside ∧ ¬ ((1 : Nat) = 1 ∧ (th []).txthr.toNat ≤ (th []).tx.count) ∧
    escth.tx.state = .outside ∧ escth.txthr.toNat ≤ escth.tx.count ∧ ((one escth).walker 0).trump.holder = none ∧
    ((one escth).walker 0).trump.fifo = [] ∧
    (((one escth).onWalker 0 (fun w => { w with trump := { w.trump with holder := some ⟨5, 0⟩ } })).walker 0).trump.holder ≠ none ∧
    0 < Config.trumpFifo ∧ (th []).rendKey = none ∧ escth.rendKey = none ∧ txth.rendKey = none ∧ irth.rendKey = none ∧ txth.tx.state = .transactional ∧ irth.tx.state = .irrevocable ∧
    (one txth).thread me = some txth := by decide +kernel

/-- R310: a transaction that prepares without a conflict and writes one byte, and one that meets one. -/
def wrth : Thread := { txth with tx := { txth.tx with writes := [(va / 8, some (5, 1))] } }
def prepth : Thread := { wrth with tx := { wrth.tx with prepared := some (0, 0), pact := [0] } }
theorem witness_commit : wrth.tx.prepared = none ∧ irth.tx.prepared = none ∧ (one wrth).commitWaits wrth.tx = false ∧
    (∀ t ∈ [txth, irth, wrth, prepth], t.ready (flds 0 0 0 0 0 .b8).g (usesOf (.txc (flds 0 0 0 0 0 .b8))) = .go) ∧
    prepth.tx.prepared = some (0, 0) ∧ prepth.tx.writes.wf = true ∧ prepth.rendKey = none ∧
    (∀ st ∈ prepth.tx.stores, regionOf st.1 ≠ .view ∧ (one prepth).ownedBy (ownerCode 0) st.1 = true) ∧
    (one wrth).crew me.crew = some (crewOf wrth) ∧ (crewOf wrth).loc.isSome = true ∧ wrth.rendKey = none ∧
    (one wrth).commitBehind (crewOf wrth) wrth.tx = false ∧ (one wrth).checks = [] ∧ (one irth).released me = true ∧ (one wrth).released me = true ∧ wrth.errs = [] ∧ wrth.tx.pact = [] ∧
    (one wrth).prepare me 0 wrth.tx = none ∧ wrth.tx.writes.wf = true ∧ (∀ st ∈ wrth.tx.stores, regionOf st.1 ≠ .view) ∧
    (let t : Thread := { txth with tx := { txth.tx with reads := [(va / 8, some 1)] } }
     ((one t).prepare me 0 t.tx).isSome = true) := by decide +kernel

/-- R305: a store and a load of a transaction. -/
theorem witness_tx_access :
    (one txth).Access (stOf (one txth) va .write false) me txth (.st (flds 0 4 7 0 0 .b32)) (flds 0 4 7 0 0 .b32) 4 .write false
      (crewOf txth) (tgOf (one txth) va .write false) ∧
    (one txth).Access (stOf (one txth) va .read false) me txth (.ld (flds 7 4 0 0 0 .b32)) (flds 7 4 0 0 0 .b32) 4 .read false
      (crewOf txth) (tgOf (one txth) va .read false) ∧
    (tgOf (one txth) va .read false).kind = .pma ∧ (tgOf (one txth) va .read false).peer = false ∧
    txOk ((stOf (one txth) va .write false).txStore me 0 txth.tx va [0, 0, 0, 0]) = true ∧
    txOk ((stOf (one txth) va .read false).txLoad me (crewOf txth) txth.tx va 4) = true ∧
    (stOf (one txth) va .read false).acqPending me = false ∧ ((stOf (one txth) va .read false).arenaOf 0 va).isNone = true ∧
    ((stOf (one txth) va .write false).arenaOf 0 va).isNone = true := by
  refine ⟨access txth _ _ _ _ _ ?_ ?_ ?_ ?_, access txth _ _ _ _ _ ?_ ?_ ?_ ?_, ?_⟩ <;> decide +kernel

/-- R215 to R218: an open that reads its descriptor; an index that FSEEK reads; cursors at their end and before it. -/
theorem witness_cursors :
    (∀ n ∈ [4, 32], (one gth).ReadsNow (stOf (one gth) va .read false) me gth (crewOf gth) va n (tgOf (one gth) va .read false)) ∧
    (gth.globalAddr (flds 0 4 0 3 0 .b8)).toNat = va ∧
    ((th []).fibres.get 1).len.toNat ≤ ((th []).fibres.get 1).pos.toNat ∧
    ((th []).streams.get 1).count0.toNat * ((th []).streams.get 1).count1.toNat ≤ ((th []).streams.get 1).n ∧
    (let x : Fibre := { (default : Fibre) with idx := BitVec.ofNat 64 va, len := 1, isOpen := true }
     x.pos.toNat < x.len.toNat ∧ x.len.toNat = x.pos.toNat + 1 ∧ (x.idx + BitVec.ofNat 64 (4 * x.pos.toNat)).toNat = va ∧
       va % (tyBytes .b32 * vecCount 0) = 0 ∧ vecCount 0 = 1 ∧
       leValue ((stOf (one gth) va .read false).bytesSeen (crewOf gth) (tgOf (one gth) va .read false) 4) = 0) ∧
    (let y : Stream := { (default : Stream) with count0 := 3, count1 := 2, n := 5 }
     y.n < y.count0.toNat * y.count1.toNat) := by
  refine ⟨?_, by decide +kernel⟩
  intro n hn
  simp only [List.mem_cons, List.not_mem_nil, or_false] at hn
  rcases hn with rfl | rfl <;> unfold State.ReadsNow <;> decide +kernel

/-- R147: a queue with one work entry, and an empty one. -/
theorem witness_draw :
    (let s : State := (one gth).onWalker 0 (fun w => { w with queues := w.queues.set 0 [workEntry 5 [1, 2, 3]] })
     (∃ e ∈ (s.walker 0).queue 0, e.point = none) ∧ s.crew 1 = some (crewOf gth) ∧ s.acqPending me = false) ∧
    (∀ e ∈ ((one gth).walker 0).queue 0, e.point ≠ none) ∧ (one gth).acqPending me = false ∧ gth.tx.state ≠ .transactional := by
  decide +kernel

/-- R148 to R150: a queue with room, a walked level, an identifier that is free. -/
theorem witness_work : ((one gth).walker 0).room 0 ≠ 0 ∧ ((one gth).walker 0).packetWaits 0 = false ∧
    (let c : Crew := { crewOf gth with rcd := { (crewOf gth).rcd with walk := 1 } }
     (0 : BitVec 8).toNat < c.rcd.walk) ∧ gth.retired = false ∧ (one gth).released me = true ∧ gth.errs = [] ∧
    ((one gth).walker 0).nest 31 = none := by decide +kernel

/-! ### Matrix operations and cards -/

/-- A card of the thread `me` in its core's ring. -/
def aCard (kind : CardKind) : Card := { blankCard with id := 7, core := 0, who := me, fn := 0, kind := kind }
def mp : MatPar := {
  m := 33, n := 32, k := 32, etype := 0, scaled := false, acc := false, slot := 2, row := 0, col := 224, state := 0, ascale := 0
  bscale := 0, metaAddr := 0, nz := 0, srcA := .band [], srcB := .band [] }
def started (k : Card) : Card := { k with started := true }
/-- A device with cards in its rings. -/
def withCards (ks : List Card) : State := { one (th []) with cards := ks }

/-- R222: blocks that are misaligned, beyond LOCAL, broken, and well formed with scratchpad operands. -/
theorem witness_matrix_issue : (∀ i ∈ ([.mma (flds 0 2 20 22 0 .b8), .mmas (flds 0 2 20 22 1 .b8), .mrsc (flds 0 2 20 22 3 .b8)] :
      List Instr), i.wellFormed = true ∧ matrixCase i ≠ none ∧ (th []).ready ⟨false, 7⟩ (usesOf i) = .go) ∧
    (th [(2, 32)]).reg 2 = 32 ∧ ((32 : Word).toNat % 64 ≠ 0) ∧
    (crewOf (th [])).rcd.localBytes < Config.localBytes + 64 ∧ Config.localBytes % 64 = 0 ∧
    (one (th [])).localEmpty 1 0 64 = false ∧ (one (th [])).acqPending me = false ∧ (th []).tx.state ≠ .transactional ∧
    blockPar { kind := .mma, nz := 0, steps := 0 } (leBytes 64 32) = none ∧
    (blockPar { kind := .mma, nz := 0, steps := 0 } (leBytes 64 0)).isSome = true ∧ (scratchOf 0 0).isSome = true := by
  simp only [matrixCase]; decide +kernel

/-- R230, R233: a started matrix card with one block of 32 rows and one row left. -/
theorem witness_matrix_block : ∀ n ∈ [0, 32],
    (let k : Card := { started (aCard .mma) with mat := some mp, finalRows := n }
     let s := withCards [k]
     s.cards.find? (·.id == 7) = some k ∧ k.mat = some mp ∧ s.crew k.who.crew = some (crewOf (th [])) ∧ k.started = true ∧
       k.finalRows < mp.m ∧ mp.col + mp.n ≤ 256) := by decide +kernel

/-- R234 to R237: the last cells of the last row. -/
theorem witness_accumulators : (∀ i ∈ ([.accrd (flds 12 1 2 0 0 .f16), .accwr (flds 0 1 12 2 0 .f16), .accz (flds 0 1 2 0 0 .b8),
      .wmark (flds 9 0 0 0 3 .b8), .mwait (flds 0 0 0 0 15 .b8)] : List Instr),
      i.wellFormed = true ∧ (th []).ready ⟨false, 7⟩ (usesOf i) = .go) ∧
    (let c := crewOf (th [])
     (254 : Nat) % (vecCount 0 * 2) = 0 ∧ Config.accRows - 1 < c.rcd.accRows ∧ 254 + 2 ≤ 256 ∧
       c.rowReset.get (Config.accRows - 1) = false ∧ (one (th [])).rowPending 1 (Config.accRows - 1) = false ∧
       (Config.accRows - 1) + 1 ≤ c.rcd.accRows) ∧
    ∀ x, Config.accRows - 1 ≤ x → x < Config.accRows - 1 + 1 → (one (th [])).rowPending 1 x = false := by
  refine ⟨by decide +kernel, by decide +kernel, ?_⟩
  intro x h1 h2
  have : x = Config.accRows - 1 := by omega
  subst this; decide +kernel

/-- R256, R257: barrier objects at the end of LOCAL, misaligned, and beyond it; BINIT counts at both ends. -/
theorem witness_barriers : (∀ i ∈ ([.binit (flds 0 1 2 0 0 .z32), .barr { flds 0 1 2 0 0 .z32 with sc := .core, rm := 2 },
      .bwait (flds 0 1 2 0 0 .z32)] : List Instr), i.wellFormed = true ∧ (th []).ready ⟨false, 7⟩ (usesOf i) = .go) ∧
    (Config.localBytes - 16) % 16 = 0 ∧ Config.localBytes - 16 + 16 ≤ (crewOf (th [])).rcd.localBytes ∧ (8 : Nat) % 16 ≠ 0 ∧
    Config.localBytes % 16 = 0 ∧ (crewOf (th [])).rcd.localBytes < Config.localBytes + 16 ∧ (one (th [])).acqPending me = false ∧
    (1 : Nat) ≤ 65535 ∧ (th []).tx.state ≠ .transactional ∧ (one (th [])).released me = true ∧
    (let o : BarObj := { bytes := 0, expect := 1, pend := 1, phase := 0, flags := 2 }
     o.flags.getLsbD 1 = true ∧ o.flags.getLsbD 0 = false) := by decide +kernel

/-- R252 to R254: copies of 64 bytes and of none; KICK with a record that is no tensor copy. -/
theorem witness_copies : (∀ i ∈ ([.cpyl { flds 0 4 6 8 0 .z32 with ext := .imm32 0x100 },
      .cpym { flds 0 4 6 8 1 .z32 with ext := .imm32 0x100 }, .kick (flds 0 1 0 0 0 .b8),
      .cpyt { flds 0 4 6 10 4 .b8 with ext := .imm64 0x100 }, .coll { flds 0 1 0 0 0 .b8 with sc := .device, rm := 2 },
      .cwait { flds 0 0 0 0 0 .z32 with ext := .imm32 0 }] : List Instr),
      i.wellFormed = true ∧ (th []).ready ⟨false, 7⟩ (usesOf i) = .go) ∧
    (copyForm (th [(8, 64)]) [] (.cpyl { flds 0 4 6 8 0 .z32 with ext := .imm32 0x100 })).isSome = true ∧
    (copyForm (th [(8, 64)]) [] (.cpym { flds 0 4 6 8 1 .z32 with ext := .imm32 0x100 })).isSome = true ∧
    (copyForm (th []) (leBytes 128 0) (.kick (flds 0 1 0 0 0 .b8))).isSome = true ∧ ((th []).reg 8).toNat = 0 ∧
    ((th []).reg 1).toNat % 128 = 0 ∧ 0 + 128 ≤ (crewOf (th [])).rcd.localBytes ∧ (one (th [])).localEmpty 1 0 128 = false ∧
    (one (th [])).acqPending me = false := by decide +kernel

/-- Reads a run as `State.ReadRun` says, where no line of it is in the L1. -/
def readRun (s : State) (r : ThreadRef) (th : Thread) (c : Crew) : Nat → Addr → Option (State × List Byte)
  | 0, _ => some (s, [])
  | n + 1, va =>
    match s.l1Look r c th va.toNat 64 with
    | (none, s0) =>
      match s0.translate c.cluster c.fn va.toNat .read false with
      | (.ok tg, s1) =>
        match s1.readNow r c th va.toNat 64 tg (th.tx.state == .irrevocable) with
        | (.ok b, s2) =>
          if s.crew r.crew = some c ∧ s0.crew r.crew = some c ∧ va.toNat % 64 = 0 ∧ s1.viewBusy tg.pa = false then
            (readRun s2 r th c n (va + 64)).map (fun x => (x.1, b ++ x.2))
          else none
        | _ => none
      | _ => none
    | _ => none

theorem readRun_spec (r : ThreadRef) (th : Thread) (c : Crew) : ∀ (n : Nat) (s : State) (va : Addr) (t : State)
    (bs : List Byte), readRun s r th c n va = some (t, bs) → s.ReadRun r th c n va t bs := by
  intro n
  induction n with
  | zero => intro s va t bs h; simp only [readRun, Option.some.injEq, Prod.mk.injEq] at h; exact ⟨h.1.symm, h.2.symm⟩
  | succ n ih =>
    intro s va t bs h
    simp only [readRun] at h
    split at h <;> try cases h
    rename_i s0 h0
    split at h <;> try cases h
    rename_i tg s1 h1
    split at h <;> try cases h
    rename_i b s2 h3
    split at h <;> try cases h
    rename_i hc
    simp only [Option.map_eq_some_iff, Prod.mk.injEq] at h
    obtain ⟨⟨t', rest⟩, hr, rfl, rfl⟩ := h
    exact ⟨s2, b, rest, hc.1, hc.2.2.1, .inr ⟨s0, s1, tg, h0, hc.2.1, h1, hc.2.2.2, h3⟩, ih _ _ _ _ hr, rfl⟩

theorem readRun_meets (s : State) (r : ThreadRef) (th : Thread) (c : Crew) (n : Nat) (va : Addr) (p : List Byte → Bool)
    (h : ((readRun s r th c n va).map (fun x => p x.2)) = some true) : ∃ t bs, s.ReadRun r th c n va t bs ∧ p bs = true := by
  cases e : readRun s r th c n va with
  | none => rw [e] at h; cases h
  | some x => rw [e] at h; exact ⟨x.1, x.2, readRun_spec _ _ _ _ _ _ _ _ e, by simpa using h⟩

/-- A layout record at `va`: one dimension of one box of 16 bytes. -/
def layoutMem : FMap Byte := [(va, 0x10), (va + 8, 1), (va + 16, 16), (va + 128, 16)]
/-- R247 to R252: a record of zeros, which is broken, and a whole one; the card lands in local memory. -/
theorem witness_tensor_copies :
    (let f : Fields := { flds 0 4 6 10 4 .b8 with ext := .imm64 0x100 }
     let k : Card := { blankCard with kind := .tensor, dir := 0, cls := 1, scales := false, laddr := (gth.reg 6).toNat, sdst := 0 }
     let g : CardForm := { plainForm k (extLow f) with record := gth.pair f.a }
     gth.ready f.g (usesOf (.cpyt f)) = .go ∧ gth.tx.state ≠ .transactional ∧ g.misaligned = false ∧
       (one gth).formOut 1 (crewOf gth) g = false ∧ g.refused (crewOf gth) = false) ∧
    (∃ t bs, (one gth).ReadRun me gth (crewOf gth) 4 (gth.pair 4) t bs ∧ layoutOf bs = none) ∧
    ∃ t bs l, ({ one gth with home := layoutMem } : State).ReadRun me gth (crewOf gth) 4 (gth.pair 4) t bs ∧
      layoutOf bs = some l ∧ 10 + l.dims ≤ (crewOf gth).rcd.regs ∧ gth.full ((List.range l.dims).map (10 + ·)) = true := by
  refine ⟨by decide +kernel, ?_, ?_⟩
  · obtain ⟨t, bs, h, hp⟩ := readRun_meets (one gth) me gth (crewOf gth) 4 (gth.pair 4) (fun bs => (layoutOf bs).isNone)
      (by decide +kernel)
    exact ⟨t, bs, h, by simpa using hp⟩
  · obtain ⟨t, bs, h, hp⟩ := readRun_meets { one gth with home := layoutMem } me gth (crewOf gth) 4 (gth.pair 4)
      (fun bs => (layoutOf bs).any (fun l => decide (10 + l.dims ≤ (crewOf gth).rcd.regs) &&
        gth.full ((List.range l.dims).map (10 + ·)))) (by decide +kernel)
    cases e : layoutOf bs with
    | none => rw [e] at hp; cases hp
    | some l =>
      rw [e] at hp
      simp only [Option.any_some, Bool.and_eq_true, decide_eq_true_eq] at hp
      exact ⟨t, bs, l, h, e, hp⟩

/-- A record of a collective card, the crew that holds it at local address 0, and a device of rank 5 whose function 0 has
one group. -/
def collRecord : List Byte := [4, 0, 0, 0, 255, 255, 255, 255] ++ List.replicate 120 0
def collCrew (copies : Nat) : Crew :=
  { crewOf (th []) with lmem := FMap.setList (β := Option Byte) [] 0 (collRecord.map some)
                        rcd := { (crewOf (th [])).rcd with copies := copies } }
def collS (copies : Nat) (home : FMap Byte) : State :=
  { one (th []) with crews := [(1, some (collCrew copies))], home := home
                     regs := [((Reg.cgbase 0).key, some (BitVec.ofNat 64 (codeBase + 1))), (Reg.domcfg.key, some 0x80000005)] }

/-- R261, R336, R337: no room for copies; a table entry that names no member; one that names this device. -/
theorem witness_collective_cards :
    (let f : Fields := { flds 0 1 0 0 0 .b8 with sc := .device, rm := 2 }
     (th []).ready f.g (usesOf (.coll f)) = .go) ∧
    (∀ n ∈ [0, 1], (collS n []).crew 1 = some (collCrew n) ∧ (collS n []).thread me = some (th []) ∧
      (collS n []).released me = true ∧ ((th []).reg 1).toNat % 128 = 0 ∧
      ((th []).reg 1).toNat + 128 ≤ (collCrew n).rcd.localBytes ∧ (collS n []).localEmpty 1 ((th []).reg 1).toNat 128 = false ∧
      (collS n []).acqPending me = false ∧ (collCrew n).localBytes 1 0 128 = collRecord ∧
      (cardForm collRecord).card.kind = .collective ∧ (cardForm collRecord).misaligned = false ∧
      (collS n []).formOut 1 (collCrew n) (cardForm collRecord) = false ∧ (cardForm collRecord).refused (collCrew n) = (n == 0)) ∧
    ((match (collS 1 []).groupEntry 0 0 with | .error e => some e | .ok _ => none) = some .layoutBad) ∧
    (((collS 1 [(codeBase, 1), (codeBase + 0x40, 5)]).groupEntry 0 0).toOption = some [5]) ∧
    ((collS 1 []).cards.filter (fun k => k.who.crew == 1 && !k.kind.isMatrix)).length < (collCrew 1).rcd.copies ∧
    ((collS 1 []).cards.filter (·.core == (collCrew 1).core)).length < Config.ringSlots := by decide +kernel

/-- R255: CWAIT. -/
theorem witness_cwait : (let f : Fields := { flds 0 0 0 0 0 .z32 with ext := .imm32 0 }
    (th []).ready f.g (usesOf (.cwait f)) = .go ∧ f.sc = .none) ∧ (one (th [])).crew me.crew = some (crewOf (th [])) := by
  decide +kernel

/-- A linear copy of 64 bytes, from `va` of the capacity tier to local address 0. -/
def lin : Card := { aCard .linear with dir := 0, src := BitVec.ofNat 64 va, dst := 0, bytes := 64 }

/-- R220, R243: a matrix card and a copy that start next, and a copy that waits for a predecessor. -/
theorem witness_card_start : ∀ k ∈ [aCard .mma, lin, aCard .mrsc, { lin with preds := [3] }],
    (withCards [k]).cards.find? (·.id == 7) = some k ∧ ((withCards [k]).cards.map (·.id)).Nodup ∧
      (withCards [k]).startsNext k = k.preds.isEmpty := by decide +kernel

/-- The accesses of a line that goes out. -/
def linesOk (o : LineOut) : List (Nat × Target) := match o with | .ok rs _ => rs | _ => []
def isOk : LineOut → Bool | .ok _ [] => true | _ => false

/-- R245, R256, R259: the one line of a started copy is ready and paid for. -/
theorem witness_landing_line :
    (let k := started lin
     let s := withCards [k]
     let xs := runIn 0 k.dst.toNat k.bytes
     let sectors := (xs.map (fun x => (k.src.toNat + (x - k.dst.toNat)) / 64)).dedup
     let o := s.lineGoes k (k.core / 4) sectors []
     s.cards.find? (·.id == 7) = some k ∧ k.started = true ∧ k.paused = false ∧ k.kind = .linear ∧ k.dir = 0 ∧
       (s.unlanded k)[0]? = some (k.who.crew, 0) ∧ k.who.crew ≠ 0 ∧ isOk o.1 = true ∧
       o.2.2.crew k.who.crew = some (crewOf (th [])) ∧ (∀ x ∈ linesOk o.1, x.2.peer = false) ∧ ∀ x ∈ xs, (o.2.2.arenaOf k.fn (k.src.toNat + (x - k.dst.toNat))).isNone = true) := by decide +kernel

/-- R220, R233, R243: a matrix card with all rows final and with one row left; a copy whose line has landed. -/
theorem witness_card_complete :
    (∀ n ∈ [33, 32], (let k : Card := { started (aCard .mma) with mat := some mp, finalRows := n }
      (withCards [k]).cards.find? (·.id == 7) = some k ∧ k.mat = some mp ∧ (decide (mp.m ≤ k.finalRows)) = (n == 33))) ∧
    (let k : Card := { started lin with landed := [(1, 0)] }
     (withCards [k]).cards.find? (·.id == 7) = some k ∧ k.mat = none ∧ k.kind ≠ .collective ∧ (withCards [k]).writes = [] ∧ k.started = true ∧
       ∀ t ∈ (withCards [k]).targets k, t ∈ k.landed) ∧
    (let k : Card := { started (aCard .collective) with sent := [0, 1] }
     let s : State := { withCards [k] with insts := [⟨0, k.group, k.inst, some 7, [], 0, false⟩] }
     s.cards.find? (·.id == 7) = some k ∧ k.mat = none ∧ s.writes = [] ∧ s.collStage k = some .over ∧
       s.crew k.who.crew = some (crewOf (th [])) ∧ (crewOf (th [])).loc.isSome = true) := by decide +kernel

/-- A device that translates for function 0 through a table that lists nothing. -/
def missing (k : Card) : State :=
  { withCards [k] with regs := [((Reg.fsatp 0).key, some (BitVec.ofNat 64 (10 * 2 ^ 60 + codeBase / 4096 + 16)))] }

/-- What the first line of a card that stops finds. -/
def stopOf (s : State) (k : Card) : Option (Option Cause × Nat) :=
  (s.cardOuts k).findSome? (fun o => match o.1 with | .page _ va => some (none, va) | .fault c va => some (some c, va) | _ => none)

/-- R246, R351: a copy whose page is missing, with a free request and with none. -/
theorem witness_card_page :
    (let k := started lin
     let full : FMap (Option Nat) := (List.range Config.cardRequests).map (fun i => (i, some 3))
     (missing k).anyCard 7 = some k ∧ k.req = none ∧ k.id = 7 ∧ k.paused = false ∧
       (missing { k with paused := true, miss := some (1, va) }).anyCard 7 = some { k with paused := true, miss := some (1, va) } ∧ stopOf (missing k) k = some (none, va) ∧
       (missing k).freeRequest 0 = some 0 ∧
       ({ missing k with funcs := [(0, { (default : FuncSt) with cardReqs := full })] } : State).freeRequest 0 = none) := by
  decide +kernel

/-- R243, R246: a copy that reads a frame of another owner. -/
theorem witness_card_abandon :
    (let k : Card := { started lin with src := 0 }
     let s := withCards [k]
     s.cards.find? (·.id == 7) = some k ∧ k.started = true ∧ k.kind = .linear ∧ k.global = false ∧ k.req = none ∧
       s.crew 1 = some (crewOf (th [])) ∧ (crewOf (th [])).loc.isSome = true ∧ (crewOf (th [])).save = none ∧
       (∀ e ∈ s.crewList, e.2.lineReplay = []) ∧ stopOf s k = some (some .owner, 0)) := by decide +kernel

/-- R240: a matrix card that started at cycle 0, at its limit. -/
theorem witness_engine_reset :
    (let k : Card := { started (aCard .mma) with mat := some mp }
     let s : State := { withCards [k] with fab := 2 ^ 16 * Config.fabPerCycle }
     s.hungCard 0 = some k ∧ s.crews.wf = true ∧ s.crew k.who.crew = some (crewOf (th [])) ∧
       ((crewOf (th [])).loc.map (·.1)) = some 0 ∧ (crewOf (th [])).save = none ∧
       ∀ x ∈ s.cards, x.kind.isMatrix = true → x.core = 0 → x.who.crew = k.who.crew) := by decide +kernel

/-- R259, R260: the last cluster. -/
theorem witness_token_tick : Config.clusters - 1 < Config.clusters ∧ (64 : Nat) < 65 := by decide

/-! ### Host queues and packets -/

/-- A packet of queue 2 with the words given, its queue, and a device whose function 0 runs with that queue. -/
def pkt (ws : List DWord) : Packet := {
  id := 5, queue := 2, idx := 0, words := ws ++ List.replicate (8 - ws.length) 0, block := 0, begun := false, stalled := false
  copied := 0, nests := [], code := 0, ask := none }
def q0 : Queue := { queueOf [] 0 0 with base := BitVec.ofNat 64 va, logN := 4, logSlots := 6, kept := 1 }
def qOf (ps : List Packet) : Queue := { q0 with packets := ps }
def hostS (x : Queue) : State := { State.reset with
  parts := [(0, { (default : PartSt) with running := some 0, len := 1 })], funcs := [(0, { (default : FuncSt) with queues := [(2, some x)] })] }
def begunP (p : Packet) : Packet := { p with begun := true }
/-- A packet whose accesses raise no error begins next. -/
theorem begins (s : State) (ty : Nat) (x : Queue) (p : Packet)
    (h : s.begins 0 = true ∧ s.packetBusy 0 p = false ∧ (s.func 0).chosen = some 2 ∧ s.queue 0 2 = some x ∧ x.next = some p ∧ p.get 0 1 = ty ∧
      (s.onFunc 0 (fun k => { k with lastQueue := 2 })).accessCode 0 p = 0) : s.Begins 0 2 ty x p := h
/-- The value and the state of an access. -/
def got {ε α : Type} (x : Except ε α × State) : Option α := x.1.toOption
def err {ε α : Type} (x : Except ε α × State) : Option ε := match x.1 with | .error e => some e | .ok _ => none

/-- R37, R40: an enabled queue and one that is not; the last register, of the last function; values of 8 and 4 bytes. -/
theorem witness_notify : (64 : Nat) ≤ 64 ∧ (0x7F8 : Nat) < 0x800 ∧ sizeOk 8 = true ∧ sizeOk 4 = true ∧
    (hostS q0).queue 0 (0x10 / 8) = some q0 ∧ (hostS q0).queue 0 (0x7F8 / 8) = none ∧ (0x10 : Nat) % 8 = 0 ∧
    ¬ ((2 ^ 32 : DWord).toNat < 2 ^ 32) ∧ 2 ^ 31 ≤ ((0 : Word) - q0.kept).toNat ∧ q0.segmented = false ∧
    2 ^ q0.logSlots < ((65 : Word) - q0.cidx).toNat ∧ ¬ (2 ^ 31 ≤ ((65 : Word) - q0.kept).toNat) ∧
    ¬ (2 ^ q0.logSlots < ((64 : Word) - q0.cidx).toNat) := by decide

/-- R38, R39: a descriptor of 64 slots, one of zeros, and a table that cannot be read. -/
theorem witness_queue_commands :
    (let at_ (home : FMap Byte) (base : Nat) : State := { State.reset with
        home := home, regs := [((Reg.qtbase 0).key, some (BitVec.ofNat 64 base))] }
     let d := va + 64 * 2 + 0x18
     (got ((at_ [(d, 0x0C), (d + 1, 1)] va).enabledQueue 0 2)).isSome = true ∧ err ((at_ [] va).enabledQueue 0 2) = some 2 ∧
       err ((at_ [] 0).enabledQueue 0 2) = some 1 ∧ (at_ [] 0).queue 0 2 = none ∧ (hostS q0).queue 0 2 = some q0 ∧
       (¬ ∃ id ∈ ((at_ [] 0).func 0).busyOn, ∃ p ∈ ((at_ [] 0).func 0).leftovers, p.id = id) ∧
       (let k : FuncSt := { (default : FuncSt) with leftovers := [begunP (pkt [5])], busyOn := [5] }
        let s : State := { State.reset with funcs := [(0, k)] }
        ∃ id ∈ (s.func 0).busyOn, ∃ p ∈ (s.func 0).leftovers, p.id = id)) := by
  decide +kernel

/-- R40 to R43: a slot that can be read, and one that cannot. -/
theorem witness_slots :
    (let y : Queue := { q0 with base := 0 }
     (hostS q0).queue 0 2 = some q0 ∧ (hostS q0).fnRuns 0 = true ∧ q0.cidx ≠ q0.kept ∧ q0.drained = none ∧
       (∀ p ∈ q0.packets, p.begun = true ∧ p.stalled = false) ∧ (hostS q0).unitBusy 0 q0.slot = false ∧ (hostS y).unitBusy 0 y.slot = false ∧ q0.segmented = false ∧
       ((got ((hostS q0).unitRead 0 q0.slot 64)).map (fun b =>
         let p := packetOf 1 2 q0 b
         (q0.publishes p, p.staticCode, q0.badEnd p))) = some (false, 0, false) ∧
       err ((hostS y).unitRead 0 y.slot 64) = some .owner) := by decide +kernel

/-- R48: a packet without STAT; one with a STATADDR of the capacity tier, and one with an address that faults. -/
theorem witness_status_words :
    (pkt []).stat = false ∧ (pkt [0x200, BitVec.ofNat 64 va]).stat = true ∧
    (got ((hostS q0).translateUnit 0 (pkt [0x200, BitVec.ofNat 64 va]).statAddr .write)).map (fun tg =>
      (tg.peer, regionOf tg.pa, tg.pa % 8, (hostS q0).unformable tg.pa, (hostS q0).unitHeld tg.pa 8)) =
        some (false, .capacity, 0, false, false) ∧
    ((hostS q0).arenaOf 0 va).isNone = true ∧
    (let s : State := { hostS q0 with lost := [0, 1], owners := owned }
     (s.arenaOf 0 (pkt [0x200]).statAddr).isNone = true ∧
     (got (s.translateUnit 0 (pkt [0x200]).statAddr .write)).map (fun tg =>
       (tg.peer, regionOf tg.pa, tg.pa % 8, s.unformable tg.pa, s.unitHeld tg.pa 8)) = some (false, .hbm, 0, true, false)) ∧
    err ((hostS q0).translateUnit 0 (pkt [0x200, 0x40]).statAddr .write) = some .owner := by decide +kernel

/-- Packets of each type that begin next. -/
def v64 : DWord := BitVec.ofNat 64 va
theorem witness_begins : ∀ ws ∈ ([[0], [1, 0, 1], [1, 0, v64], [2, 0, v64, 1], [3, 0, v64, v64 + 4096, 1],
      [4, 0, v64, 7, 0x8300 ], [4, 0, v64, 7, 0x9F0501], [5, 0, v64, 0, 0xFF, 0], [6, 0, 1], [7, 0, v64, 6], [8, 0, v64]] : List (List DWord)),
    (hostS (qOf [pkt ws])).Begins 0 2 (pkt ws).type (qOf [pkt ws]) (pkt ws) := by
  intro ws h
  refine begins _ _ _ _ ?_
  revert ws; decide +kernel

/-- A nest record of one walked level and one thread. -/
def recMem : FMap Byte := [(va + 0xC, 1), (va + 0xD, 0x20), (va + 0x2E, 24)]
def fullW : Walker := { (default : Walker) with
  nests := (List.range Config.nests).map (fun i => (i, some (newNest i 0 2 (recordOf [])))) }
def stalledP (ws : List DWord) : Packet := { begunP (pkt ws) with stalled := true }
/-- R31, R47, R53, R67: identifiers free and none; records well formed, of an empty walked space and of one point, and not; stalls
that end. -/
theorem witness_install_append :
    (pkt [1, 0, 1]).get 0x10 8 % 256 ≠ 0 ∧ (pkt [1, 0, v64]).get 0x10 8 % 256 = 0 ∧
    ((hostS q0).walker 0).freeId = some 0 ∧ fullW.freeId = none ∧ (hostS q0).partOf 0 = 0 ∧
    (∀ h ∈ [0, 1], (got (({ hostS q0 with home := recMem.set (va + 0x24) h } : State).readRecord 0 va)).map (fun r =>
      (newNest 1 0 2 r).hasPoint (newNest 1 0 2 r).outer []) = some (h == 1)) ∧
    (err ((hostS q0).readRecord 0 va)).isSome = true ∧ (pkt [1, 0, v64]).stat = false ∧
    ((hostS (qOf [stalledP [1, 0, v64]])).func 0).stalledPacket 2 1 = some (stalledP [1, 0, v64]) ∧
    (hostS (qOf [stalledP [1, 0, v64]])).fnRuns 0 = true ∧
    (got ((hostS q0).unitReads 0 va 32 1)).isSome = true ∧
    ((hostS (qOf [stalledP [2, 0, v64, 1]])).func 0).stalledPacket 2 2 = some (stalledP [2, 0, v64, 1]) ∧
    (let w : Walker := { (default : Walker) with waits := [(0, 2)] }
     w.waits.find? (·.1 == 0) = some (0, 2) ∧ 1 ≤ Config.dealEntries - (w.queue 0).length) := by decide +kernel

/-- R47, R50: a COPY under way, at its begin, with source and destination apart; a WAIT that has read its word. -/
def copyP : Packet := pkt [3, 0, v64, v64 + 4096, 1]
theorem witness_data_packets :
    (hostS (qOf [begunP copyP])).beginsNext 0 2 3 = false ∧ (hostS (qOf [])).beginsNext 0 2 3 = false ∧
    (∀ n ∈ [0, 1, 2], (let s := hostS (qOf (List.replicate n (begunP copyP)))
      (((s.func 0).leftovers ++ ((s.queue 0 2).map (·.packets)).getD []).filter (fun p => p.queue == 2 && p.begun && !p.stalled &&
        p.get 0 1 == 3 && decide (p.copied < p.size) && p.code == 0 && s.copyGoes 0 p && !s.packetBusy 0 p)).length = n)) ∧
    copyP.get 0x10 8 + copyP.size ≤ copyP.get 0x18 8 ∧
    (match ((hostS (qOf [begunP copyP])).pieceIn 0 copyP).1 with | .ok bs => some bs.length | _ => none) = some copyP.piece ∧
    copyP.copied + copyP.piece ≤ copyP.size ∧
    (let s0 := ((hostS q0).translateUnit 0 va .read).2
     (got ((hostS q0).translateUnit 0 va .read)).map (·.peer) = some false ∧
       got (s0.translateUnit 0 va .read) = got ((hostS q0).translateUnit 0 va .read) ∧ s0.runBad va copyP.piece = false ∧
       (s0.arenaOf 0 va).isNone = true) ∧
    (got ((hostS q0).translateUnit 0 (va + 4096) .write)).isSome = true ∧
    (got ((hostS q0).unitRead 0 va 8)).map leValue = some 0 ∧
    (let w := begunP (pkt [5, 0, v64, 0, 0xFF, 0])
     ((hostS (qOf [w])).func 0).underWay 2 5 (fun p => p.copied == 0) = some w ∧ (hostS (qOf [w])).fnRuns 0 = true ∧
       (hostS (qOf [w])).packetBusy 0 w = false) := by
  decide +kernel

/-- R43, R44: free lists with room, and full; a drained segment. -/
theorem witness_links :
    (let x : Queue := { q0 with segmented := true, freeList := v64 + 64, flCap := 1 }
     let y : Queue := { x with drained := some v64 }
     let p := pkt [7, 0, v64, 6]
     (match ((hostS x).returnSegment 0 2 (x.follow p) x.seg).1 with | .done => true | _ => false) = true ∧
       (hostS y).queue 0 2 = some y ∧ (hostS y).fnRuns 0 = true ∧
       (match ((hostS y).returnSegment 0 2 y v64).1 with | .done => true | _ => false) = true ∧
       (let z : Queue := { x with flHead := 1 }
        (hostS z).unitBusy 0 z.freeList.toNat = false ∧
        (hostS z).unitBusy 0 (z.freeList.toNat + 0x10 + 8 * (z.flHead.toNat % z.flCap)) = false ∧
        (got ((hostS z).unitRead 0 (z.freeList.toNat + 4) 4)).map (fun b => (z.flHead - BitVec.ofNat 32 (leValue b)).toNat) =
          some z.flCap)) := by decide +kernel

/-- R46 to R49: packets of each type with nothing outstanding, and one that took an error. -/
theorem witness_finished : ∀ p ∈ [begunP (pkt [0]), { begunP copyP with copied := 1 }, begunP (pkt [4, 0, v64, 7, 0x9F0300]),
      { begunP (pkt [5, 0, v64, 0, 0xFF, 0]) with copied := 1 }, { begunP (pkt [6, 0, 1]) with nests := [4] },
      { begunP copyP with code := 0x23 }],
    (let s := hostS (qOf [p])
     (List.range 9).findSome? (fun ty => (s.func 0).underWay 2 ty (fun p => p.id == 5)) = some p ∧
       (s.part (s.partOf 0)).running = some 0 ∧ s.packetBusy 0 p = false ∧ (∀ w ∈ s.writes, w.by_ ≠ .packet 0 p.id) ∧ p.begun = true ∧ p.stalled = false ∧
       (p.type = 3 → p.code = 0 → p.copied = p.size) ∧
       ∀ i, i < Config.nests → (s.walker (s.partOf 0)).nest i = none) := by decide +kernel

/-! ### The walker, crews and partitions -/

/-- A level of the walk, a nest of two walked levels with a dependence on the row before, and the device that walks it. -/
def lvl (lo hi : Int) : Level := { lo := lo, hi := hi, loc := [0, 0, 0], hic := [0, 0, 0], spread := false, scope := 3, domain := 0 }
def rec2 (hi : Int) : NestRec := { (default : NestRec) with
  lvls := 2, walk := 2, threads := 1, regs := 8, levels := [lvl 0 3, lvl 0 hi], deps := [[1, 0]] }
def nest2 (hi : Int) : Nest := newNest 3 0 2 (rec2 hi)
def row2 (t : Int) : Row := { nest := 4, tuple := [t], lo := 0, hi := 2, wm := 0, done := 0, issued := 0, closed := false }
def walkW (n : Nest) (rows : List Row) : Walker := { (default : Walker) with nests := [(4, some n)], rows := rows }
def walkS (w : Walker) : State := { one (th []) with
  parts := [(0, { (default : PartSt) with running := some 0 })], walkers := [(0, w)]
  regs := [((Reg.fframe 0).key, some 8)] }

/-- R53: a pointer at the start, and one behind a tuple. -/
theorem witness_opening_pointer : (nest2 2).ptr = some [] ∧ ([] : List Int).length ≤ (nest2 2).outer ∧
    (nest2 2).nextTuple = some [0] ∧ ({ nest2 2 with ptr := some [2] } : Nest).nextTuple = some [2] ∧
    ({ nest2 2 with ptr := some [3] } : Nest).nextTuple = none := by decide +kernel

/-- R53: a tuple with points and one without. -/
theorem witness_row_open : ∀ hi ∈ [2, 0],
    (let w := walkW (nest2 hi) []
     (walkS w).walks 0 = some 0 ∧ firstOf w.opens (roundRobin w.rrOpen) = some (4, [0]) ∧ w.nest 4 = some (nest2 hi) ∧
       (decide (((nest2 hi).bounds (nest2 hi).hi (nest2 hi).outer [0]).2 ≤ ((nest2 hi).bounds (nest2 hi).hi (nest2 hi).outer [0]).1)) =
         (hi == 0)) := by decide +kernel

/-- R54: the first and the last point of a window. -/
theorem witness_retirement : ∀ j ∈ [(0 : Int), 63], (row2 0).lo + (row2 0).wm ≤ j ∧ j < (row2 0).lo + (row2 0).wm + 64 := by decide

/-- R55 to R57: the next point of the older of two rows. -/
theorem witness_point_release :
    (let w := walkW (nest2 2) [{ row2 0 with issued := 1 }, row2 1]
     (walkS w).walks 0 = some 0 ∧ w.nest 4 = some (nest2 2) ∧
       firstOf w.releasable (roundRobin w.rrRel) = some (4, { row2 0 with issued := 1 }, 1)) := by decide +kernel

/-- R54, R139: a crew whose threads have retired or left. -/
theorem witness_retire : ∀ t ∈ [{ th [] with retired := true }, { th [] with status := .exited }],
    (let c := { crewOf t with nest := 4 }
     let s : State := { walkS (walkW (nest2 2) [row2 0]) with crews := [(1, some c)] }
     s.crew 1 = some c ∧ c.holdsPoint = true ∧ c.loc.isSome = true ∧ c.frame ≠ 8192 ∧
       (∀ t ∈ c.threadList, t.2.retired = true ∨ t.2.status = .exited ∧ t.2.unack = 0 ∧ t.2.unackNc = 0) ∧
       (s.part c.part).running = some c.fn ∧ (s.walker 0).nest c.nest = some (nest2 2)) := by decide +kernel

/-- R59, R149: a BNDSET under way, of a crew that holds its point and of one that does not; values below and above. -/
theorem witness_bounds_rise : ∀ b ∈ [true, false],
    (let t : Thread := { th [] with status := .bndset 1 9 0x48 }
     let c := { crewOf t with nest := 4, holdsPoint := b }
     let s : State := { walkS (walkW (nest2 2) [row2 0]) with crews := [(1, some c)] }
     s.crew 1 = some c ∧ s.thread me = some t ∧ c.loc.isSome = true ∧ c.save = none ∧ s.walks c.part = some c.fn ∧
       (s.walker 0).nest c.nest = some (nest2 2) ∧ 1 < (nest2 2).hi.length ∧ (1 : Int) ≤ (nest2 2).hi.getD 1 0 ∧
       (nest2 2).hi.getD 1 0 < (9 : Int) ∧ (∃ r ∈ (s.walker 0).rows, r.nest = c.nest ∧ r.closed = false)) := by decide +kernel

/-- A nest that is over, with its completion write to come. -/
def overN (done : Nat) : Nest := { nest2 2 with ptr := some [3], rcd := { (rec2 2) with doneAddr := BitVec.ofNat 64 done } }
/-- R31, R61: no DONEADDR, one that takes the write, one that faults; a completion write that has been performed. -/
theorem witness_nest_completion :
    (∀ d ∈ [0, va, 0x40], (let s := walkS (walkW (overN d) [])
      s.walks 0 = some 0 ∧ (s.walker 0).nest 4 = some (overN d) ∧ (overN d).finishing = false ∧ (overN d).nextTuple = none ∧
        (∀ r ∈ (s.walker 0).rows, r.nest ≠ 4) ∧ (overN d).held = 0)) ∧
    (got ((walkS default).translateUnit 0 va .write)).isSome = true ∧ err ((walkS default).translateUnit 0 0x40 .write) = some .owner ∧
    (let w : Write := { aWrite va [0] with by_ := .completion 0 4 3, stage := .home }
     let s : State := { walkS (walkW { overN va with finishing := true } []) with writes := [w] }
     s.walks 0 = some 0 ∧ (s.walker 0).nest 4 = some { overN va with finishing := true } ∧ (overN va).uid = 3 ∧
       s.partOf 0 = 0 ∧ s.writes.find? (s.completionSettled 0 4) = some w ∧ w.by_ = .completion 0 4 3) := by
  decide +kernel

/-- A point entry, and a device whose deal queue 0 holds it. -/
def pEntry : Entry := { key := 5, passed := 0, point := some { coords := [0, 1], nest := 4, place := 0, unit := 0 }, payload := [] }
/-- R63, R66, R29: a core that draws the entry, and one that takes a point of a resident nest. -/
theorem witness_crew_start :
    (let w := { walkW (nest2 2) [row2 0] with queues := [(0, [pEntry])] }
     let s : State := { walkS w with crews := [] }
     s.startsFor 0 = some 0 ∧ s.serves 0 = 0 ∧ s.startQueue 0 0 0 = some 0 ∧
       drawn ((s.walker 0).queue 0) (s.eligibleAt 0 0 0) 0 = some (0, pEntry) ∧
       (pEntry.point.bind w.rcdOf) = some (rec2 2)) ∧
    (let n : Nest := { nest2 2 with rcd := { rec2 2 with resident := true, deps := [] } }
     let s : State := { walkS (walkW n [row2 0]) with crews := [] }
     s.startsFor 0 = some 0 ∧ ((s.residentPoints 0 0 0)[7 % (s.residentPoints 0 0 0).length]?).isSome = true) := by
  decide +kernel

/-- R139: a crew that has ended. -/
theorem witness_ended_crew :
    (let c : Crew := { crewOf { th [] with status := .exited } with ended := true, holdsPoint := false }
     let s : State := { one (th []) with crews := [(1, some c)] }
     s.crew 1 = some c ∧ c.loc = some (0, 0) ∧ c.ended = true ∧ c.holdsPoint = false ∧ c.save = none ∧
       (∀ t ∈ c.threadList, t.2.unack = 0 ∧ t.2.unackNc = 0) ∧ (∀ x ∈ s.cards, x.who.crew ≠ 1 ∧ 1 ∉ x.receivers) ∧
       (∀ e ∈ s.crewList, ∀ x ∈ e.2.cards, 1 ∉ x.receivers) ∧ c.lineReplay = [] ∧ s.unitHeld (s.frameAt c) 3 = false) := by decide +kernel

/-- Slice table entries that name functions 0 and 1, both of partition 0. -/
def sliceS (es : List Nat) (sw : Bool) (inc : Option Nat) : State := { one (th []) with
  parts := [(0, { running := some 0, slice := 0, since := 0, len := 1, switching := sw, incoming := inc })]
  fab := 10 * Config.fabPerUs
  regs := [((Reg.vfpart 0).key, some 0x80000000), ((Reg.vfpart 1).key, some 0x80000000)] ++
    es.zipIdx.map (fun (e : Nat × Nat) => ((Reg.pslice 0 e.2).key, some (BitVec.ofNat 64 e.1))) }
/-- R77, R78: no entry; idle functions only; the running function next; another one next. -/
theorem witness_slices : (∀ es ∈ [[], [0xC0000001], [0x80000001], [0x80000001, 0x80010001]],
      ((sliceS es false none).part 0).running = some 0 ∧ ((sliceS es false none).part 0).switching = false ∧
        ((sliceS es false none).part 0).since + ((sliceS es false none).part 0).len * 10 * Config.fabPerUs ≤ (sliceS es false none).fab) ∧
    (sliceS [] false none).anySlice 0 = none ∧ (sliceS [0xC0000001] false none).anySlice 0 = some (0, 0) ∧
    (sliceS [0xC0000001] false none).nextSlice 0 = none ∧ (sliceS [0x80000001] false none).nextSlice 0 = some (0, 0) ∧
    (sliceS [0x80000001, 0x80010001] false none).nextSlice 0 = some (1, 1) ∧
    (sliceS [] false none).crew 1 = some (crewOf (th [])) ∧ (crewOf (th [])).ended = false := by decide +kernel

/-- R62, R77, R78: a switch whose outgoing function has left its cores, to nobody and to function 1; a vacant partition. -/
theorem witness_switches : (∀ inc ∈ [none, some 1],
      (let s : State := { sliceS [0x80010001] true inc with crews := [] }
       (s.part 0).running = some 0 ∧ (s.part 0).switching = true ∧ s.switchedOut 0 = true ∧ (s.part 0).incoming = inc ∧
         s.field (.vfpart 1) 31 1 = 1 ∧ s.field (.vfpart 1) 0 4 = 0 ∧ ((s.storeShare 0 0).func 1).shareHeld = false)) ∧
    (let s : State := { sliceS [0x80010001] true (some 1) with
        crews := [], funcs := [(1, { (default : FuncSt) with share := walkW (nest2 2) [], shareHeld := true })], poison := [(65536, true)]
        regs := ((Reg.vfsave 1).key, some 0x400000) :: (sliceS [0x80010001] true (some 1)).regs }
     (s.func 1).shareHeld = true ∧ (s.storeShare 0 0).badIn (s.saveSector 1) (2 ^ 16) ≠ []) ∧
    (let s : State := { sliceS [0x80010001] false none with parts := [] }
     (s.part 0).running = none ∧ 0 < s.parts' ∧ s.nextSlice 0 = some (0, 1) ∧ (s.func 1).shareHeld = false) := by decide +kernel

/-- Two partitions; PKITTY of the first lends to the second, whose walker waits for room that no frame slot gives. -/
def kittyS (c : ClusterSt) : State := { State.reset with
  regs := [(Reg.devstat.key, some 0x80000000), (Reg.pcfg.key, some 1), ((Reg.pkitty 0).key, some (BitVec.ofNat 64 (2 ^ 33 + 4096)))]
  parts := [(1, { (default : PartSt) with running := some 2 })]
  walkers := [(1, { walkW (nest2 2) [] with queues := [(0, [pEntry])] })], fab := Config.fabPerUs
  clusters := [(40, c)] }
/-- R72, R73: the first kitty cluster of a partition, idle, lent and revoked; PREVOKE's last bit. -/
theorem witness_kitty :
    (let s := kittyS { (default : ClusterSt) with idle := true }
     s.kittyEmpty 40 = true ∧ s.clusterPart 40 = 0 ∧
       (s.cluster 40).idleSince + max 1 (min 1000 (s.field (.pkitty (s.clusterPart 40)) 12 10)) * Config.fabPerUs ≤ s.fab ∧
       s.borrower 0 = some 1 ∧ (s.kitty 0).find? (fun k => (s.cluster k).idle && s.kittyEmpty k) = some 40 ∧
       s.ready = true ∧ 0 < s.parts' ∧ (0x8000 : BitVec 16).getLsbD 15 = true) ∧
    (let s := kittyS { (default : ClusterSt) with lent := some 1, revoking := true }
     (s.cluster 40).lent = some 1 ∧ (s.cluster 40).revoking = true ∧ ∀ e ∈ s.crewList, e.2.loc.isSome = true → e.2.cluster ≠ 40) ∧
    (let c : Crew := { crewOf (th []) with loc := some (160, 0) }
     let s : State := { kittyS { (default : ClusterSt) with lent := some 1 } with crews := [(1, some c)] }
     (s.cluster 40).lent = some 1 ∧ (s.cluster 40).revoking = false ∧ s.crew 1 = some c ∧ c.loc.isSome = true ∧ c.cluster = 40 ∧
       c.ended = false) := by decide +kernel

/-- R69, R357: the cluster of a crew fails. -/
theorem witness_cluster_fail : (0 : Nat) < Config.clusters ∧ ((one (th [])).cluster 0).failed = false ∧
    (one (th [])).crew 1 = some (crewOf (th [])) ∧ (crewOf (th [])).loc.isSome = true ∧ (crewOf (th [])).cluster = 0 := by decide +kernel

/-- R76, R78, R80: writes that are taken and that are refused; a change that waits for BUSY. -/
theorem witness_partition_registers :
    (let s : State := readyS
     s.ready = true ∧ (1 : Word).getLsbD 30 = false ∧ (0 : Nat) = s.field .pcfg 0 3 ∧ (1 : Nat) ≠ s.field .pcfg 0 3 ∧
       (∀ f, f < 64 → s.field (.vfpart f) 31 1 = 0) ∧ s.field .pcfg 31 1 = 0 ∧ (s.part 0).running ≠ some 63 ∧
       s.hasNests 63 = false ∧ s.field (.vfpart 63) 31 1 = 0 ∧ 1 < 2 ^ 4 ∧ s.parts' = 1) ∧
    (let s : State := { readyS with regs := [(Reg.devstat.key, some 0x80000000), (Reg.pcfg.key, some 0x80000000)] }
     s.field .pcfg 31 1 = 1 ∧ s.writes = []) := by decide +kernel

/-- A device whose calendar gives its last slot alone to partition 0. -/
def oneSlot : State := { readyS with
  regs := (Reg.devstat.key, some 0x80000000) :: (List.range 64).map (fun i => ((Reg.cal i).key, some (if i = 63 then 0x10 else 0))) }
def lastSlot (v : Word) : State := oneSlot.setReg (.cal 63) ((Reg.cal 63).merge (oneSlot.reg (.cal 63)) (v.setWidth 64))
/-- R76: that slot written again, and taken away. -/
theorem witness_calendar : oneSlot.ready = true ∧ oneSlot.parts' = 1 ∧
    (∀ p, p < 1 → ∃ j, j < 64 ∧ (lastSlot 0x10).field (.cal j) 4 1 = 1 ∧ (lastSlot 0x10).field (.cal j) 0 4 = p) ∧
    ¬ ∀ p, p < 1 → ∃ j, j < 64 ∧ (lastSlot 0).field (.cal j) 4 1 = 1 ∧ (lastSlot 0).field (.cal j) 0 4 = p := by decide +kernel

/-! ### Translation registers, saves, commands, resets -/

/-- A device whose start-up is complete, with registers of its own. -/
def regS (rs : List (Reg × Nat)) : State := { one (th []) with
  regs := (Reg.devstat.key, some 0x80000000) :: rs.map (fun r => (r.1.key, some (BitVec.ofNat 64 r.2))) }

/-- R192: TLBI free and busy, with each scope. -/
theorem witness_tlbi : (regS []).ready = true ∧ (regS []).field .tlbi 63 1 = 0 ∧
    ∀ sc ∈ [0, 1, 2, 3], (regS [(.tlbi, 2 ^ 63 + sc * 2 ^ 61)]).field .tlbi 63 1 = 1 ∧
      ((regS [(.tlbi, 2 ^ 63 + sc * 2 ^ 61)]).reg .tlbi).toNat / 2 ^ 61 % 4 = sc := by decide +kernel

/-- R196: every refusal, READ of the last frame, SET of the last frame to function 0 and to nobody, and its end. -/
def foVal (op owner n f : Nat) : DWord := BitVec.ofNat 64 (op * 2 ^ 56 + owner * 2 ^ 48 + n * 2 ^ 24 + f)
theorem witness_focmd :
    (regS []).field .focmd 63 1 = 0 ∧ (foVal 3 0 0 0).toNat / 2 ^ 56 % 4 = 3 ∧
    Config.hbmFrames ≤ (foVal 2 0 0 Config.hbmFrames).toNat % 2 ^ 24 ∧
    Config.hbmFrames < (foVal 1 2 1 Config.hbmFrames).toNat % 2 ^ 24 + 1 ∧
    (foVal 1 66 1 0).toNat / 2 ^ 48 % 256 = 66 ∧ ¬ ((65 : Nat) = 0 ∨ 66 ≤ (65 : Nat) ∧ (65 : Nat) ≤ 254) ∧
    ¬ ((255 : Nat) = 0 ∨ 66 ≤ (255 : Nat) ∧ (255 : Nat) ≤ 254) ∧
    (regS []).firmwareIn (Config.hbmFrames - 1) 1 = false ∧
    ({ regS [] with owners := [(7, some 0)] } : State).firmwareIn 7 1 = true ∧
    (let v := foVal 1 2 1 (Config.hbmFrames - 1)
     let s := regS [(.focmd, (foStatus true 1 v).toNat)]
     s.field .focmd 63 1 = 1 ∧ s.reg .focmd = foStatus true 1 v ∧ s.frameBusy (Config.hbmFrames - 1) 1 = false) ∧
    (let v := foVal 1 255 2 (Config.hbmFrames - 2)
     let s := regS [(.focmd, (foStatus true 1 v).toNat)]
     s.reg .focmd = foStatus true 1 v ∧ s.frameBusy (Config.hbmFrames - 2) 1 = false) := by
  decide +kernel

/-- R161, R162: window 15 turned on from rest, refused while it has no size, while BUSY, and turned off. -/
theorem witness_windows :
    (let rest := regS [(.vbase 15, 0x10000000000), (.vsize 15, 65536 * 4)]
     (15 : Nat) < 16 ∧ (0x80000011 : Word).getLsbD 29 = false ∧ (0x80000011 : Word).getLsbD 31 = true ∧
       rest.field (.wctl 15) 31 1 ≠ 1 ∧ rest.field (.wctl 15) 30 1 ≠ 1 ∧ rest.fwinRefused 15 0x80000011 = false ∧
       (regS []).fwinRefused 15 0x80000011 = true) ∧
    (let busy := regS [(.wctl 15, 0x40000000)]
     busy.field (.wctl 15) 31 1 ≠ 1 ∧ busy.field (.wctl 15) 30 1 = 1 ∧ busy.viewWrites 15 = false) ∧
    (let on := regS [(.wctl 15, 0xC0000011)]
     on.field (.wctl 15) 31 1 = 1 ∧ on.field (.wctl 15) 30 1 = 1) ∧
    (let on := regS [(.wctl 15, 0x80000011)]
     (0x11 : Word).getLsbD 31 = false ∧ on.field (.wctl 15) 31 1 = 1 ∧ on.field (.wctl 15) 30 1 ≠ 1 ∧
       ((0x11 : Word).setWidth 64 &&& (0x13 : DWord)) = on.reg (.wctl 15) &&& 0x13) := by decide +kernel

/-- A request to save of a kind, and a crew in its frame with one. -/
def saveQ (kind : Nat) : SaveReq := {
  kind := kind, cause := .perm, code := 0, tid := some 0, pc := BitVec.ofNat 64 codeBase, faddr := 0, faulters := [0]
  next := BitVec.ofNat 64 (codeBase + 8), deferred := false, dest := [] }
def saved (state kind : Nat) (q : Option SaveReq) : Crew :=
  { crewOf (th []) with loc := none, fst := { (default : FrameInfo) with state := state, kind := kind, req := q } }

/-- R344: a save of each kind. -/
theorem witness_save : ∀ kind ∈ [1, 2, 3, 4, 5],
    (let c : Crew := { crewOf (th []) with save := some (saveQ kind) }
     let s : State := { one (th []) with crews := [(1, some c)] }
     s.crew 1 = some c ∧ c.loc = some (0, 0) ∧ c.save = some (saveQ kind) ∧ c.threads.wf = true ∧
       (∀ x ∈ s.cards, x.kind.isMatrix = true → x.started = true → x.who.crew ≠ 1) ∧
       (∀ x ∈ s.cards, x.kind.isMatrix = true → 1 ∉ x.receivers) ∧ ∀ m ∈ s.marks, m.line / 2 ^ 14 ≠ s.frameAt c / 2 ^ 21) := by
  decide +kernel

/-- Without poison, spoilt check values and lost stacks no sector is bad. -/
theorem sectorBad_of_clean (s : State) (pa : Nat) (h : s.poison = []) (h' : s.checks = []) (h'' : s.lost = []) :
    s.sectorBad pa = false := by
  have e : ∀ k, FMap.get ([] : FMap Bool) k = false := fun _ => rfl
  have e' : ∀ k, FMap.get ([] : FMap Word) k = 0 := fun _ => rfl
  simp [State.sectorBad, State.checkFails, State.unformable, State.isLost, h, h', h'', e, e']

/-- R346, R349, R391: a crew that may be restored, with a frame that reads well and one that does not, and with a held fault. -/
theorem witness_restore :
    (let c : Crew := { saved 2 3 none with fst := { (saved 2 3 none).fst with held := [saveQ 2] }, replay := [aLoad va] }
     let s : State := { walkS default with crews := [(1, some c)] }
     let t : State := { s with veil := [⟨s.frameAt c + 4096, s.frameAt c + 4096 + frameRegions, c.fst.seed⟩] }
     t.crew 1 = some c ∧ t.restorable 0 c = true ∧ t.FrameReads c ∧ c.fst.held.head? = some (saveQ 2) ∧
       (let p : State := { s with poison := [(s.frameAt c / 64 + 2 ^ 15 - 1, true)] }
        p.restorable 0 c = true ∧ p.badIn (p.frameAt c / 64) (2 ^ 15) ≠ [])) := by
  refine ⟨rfl, by decide +kernel, ⟨fun k _ _ => ?_, by decide +kernel⟩, rfl, by decide +kernel, by decide +kernel⟩
  exact sectorBad_of_clean _ _ rfl rfl rfl

/-- R350, R352: rings disabled, unreadable, full and with room; a message due; a ring enabled, and resized while enabled. -/
def ringS (base ctl head : Nat) : State := { regS [(.frbase 0, base), (.frctl 0, ctl)] with
  funcs := [(0, { (default : FuncSt) with records := [List.replicate 64 1], written := 1, frHead := BitVec.ofNat 32 head })] }
theorem witness_fault_ring :
    ((ringS va 0 0).func 0).records = [List.replicate 64 1] ∧ (ringS va 0 0).field (.frctl 0) 31 1 = 0 ∧
    (ringS va 0x80000004 0).field (.frctl 0) 31 1 = 1 ∧ (ringS va 0x80000004 0).field (.frctl 0) 0 4 = 4 ∧
    ((ringS va 0x80000004 0).reg (.frbase 0)).toNat = va ∧
    (∀ b ∈ [0, va], (ringS b 0x80000004 0).unitBusy 0 b = false ∧ (ringS b 0x80000004 15).unitBusy 0 (b + 0x40 + 64 * 15) = false) ∧
    err ((ringS 0 0x80000004 0).unitRead 0 4 4) = some .owner ∧
    (got ((ringS va 0x80000004 16).unitRead 0 (va + 4) 4)).map (fun b => ((16 : Word) - BitVec.ofNat 32 (leValue b)).toNat) = some 16 ∧
    (got ((ringS va 0x80000004 15).unitRead 0 (va + 4) 4)).map (fun b => ((15 : Word) - BitVec.ofNat 32 (leValue b)).toNat) = some 15 ∧
    ((ringS va 0x80000004 15).unitPoke 0 (va + 0x40 + 64 * 15) (List.replicate 64 1)).1 = none ∧
    ((ringS va 0 0).func 0).written ≠ 0 ∧ ((ringS va 0 0).func 0).msiAt = 0 ∧ (0x80000004 : Word).getLsbD 31 = true ∧
    (let s1 := (ringS va 0 0).setReg (.frctl 0) ((Reg.frctl 0).merge ((ringS va 0 0).reg (.frctl 0)) ((0x80000004 : Word).setWidth 64))
     (got (s1.unitRead 0 (s1.reg (.frbase 0)).toNat 4)).isSome = true) ∧
    max 4 ((0x80000005 : Word).toNat % 16) ≠ max 4 ((ringS va 0x80000004 0).field (.frctl 0) 0 4) := by decide +kernel

/-- A CREWCMD value. -/
def cmdV (gen op h : Nat) : DWord := BitVec.ofNat 64 (gen * 2 ^ 48 + op * 2 ^ 32 + h)
def savedS (c : Crew) : State := { one (th []) with crews := [(1, some c)] }
/-- R354, R360: every command of a crew and of a card, and ones that are dropped. -/
theorem witness_commands :
    (let c := saved 3 2 (some (saveQ 2))
     let p := saved 3 1 (some (saveQ 1))
     (∀ op ∈ [1, 2, 3], (savedS c).command 0 (cmdV 0 op 0) = .crew 1 c) ∧ (∀ op ∈ [4, 5], (savedS p).command 0 (cmdV 0 op 0) = .crew 1 p) ∧
       (savedS c).crew 1 = some c ∧ (savedS c).command 0 (cmdV 1 1 0) = .nothing ∧ (savedS c).command 0 (cmdV 0 0 0) = .nothing ∧
       (savedS c).command 0 (cmdV 0 4 0) = .nothing ∧ (savedS c).command 0 (cmdV 0 1 8191) = .nothing ∧
       c.fst.req = some (saveQ 2) ∧ (saveQ 2).faulters = [0] ∧ c.thread 0 = some (th []) ∧ (th []).pc = (saveQ 2).pc ∧ c.replay = [] ∧
       (∀ l ∈ (savedS c).loads, l.who.crew ≠ 1)) ∧
    (let s : State := { withCards [{ started lin with paused := true, req := some 255 }] with
        funcs := [(0, { (default : FuncSt) with cardReqs := [(255, some 7)] })] }
     ∀ op ∈ [4, 5], s.command 0 (cmdV 0 op 0x80FF) = .card 7) := by decide +kernel

/-- R51, R359: a function with a crew, beside one of another function. -/
theorem witness_flr : (64 : Nat) ≤ 64 ∧ (one (th [])).crews.wf = true ∧
    ({ one (th []) with crews := [(1, some (crewOf (th []))), (2, some { crewOf (th []) with fn := 64 })] } : State).crew 2 =
      some { crewOf (th []) with fn := 64 } := by decide +kernel

/-! ### Links, peers, control -/

/-- A device of rank 5 with registers of its own. -/
def rankS (rs : List (Reg × Nat)) : State := regS ((.domcfg, 0x80000005) :: rs)

/-- R323, R326: both ends of the ranks and ports; ranks of one group and of two. -/
theorem witness_wiring : (0 : Nat) < 320 ∧ (319 : Nat) < 320 ∧ (17 : Nat) < 18 ∧ (0 : Nat) / 16 = 15 / 16 ∧ (0 : Nat) / 16 ≠ 319 / 16 := by
  decide

/-- R324 to R327: ports that are down, up with lanes, and retraining. -/
theorem witness_ports :
    (let s := rankS []
     s.ready = true ∧ s.rank = some 5 ∧ s.portUp 17 = false ∧ wiredTo 5 17 = ((wiredTo 5 17).1, (wiredTo 5 17).2) ∧ wiredTo 5 17 ≠ (5, 17) ∧
       ∀ t, t < 320 → t ≠ 5 → s.asks t = false) ∧
    (∀ l ∈ [0xFF, 0x80], (let s := rankS [(.wport 17, 0x80000000 + l * 2 ^ 8 + 1)]
      s.portUp 17 = true ∧ bitOf (s.field (.wport 17) 8 8) 7 = true ∧ (s.field (.wport 17) 8 8 - 2 ^ 7 = 0 ↔ l = 0x80))) ∧
    (({ rankS [] with ports := [(17, { (default : Port) with retraining := true })] } : State).port 17).retraining = true := by
  refine ⟨⟨by decide +kernel, by decide +kernel, by decide +kernel, rfl, by decide +kernel, fun t _ _ => rfl⟩, by decide +kernel,
    by decide +kernel⟩

/-- R323, R326, R327: a route inside a group and one to another, over links that stand; a device whose own ports are all down,
with a request outstanding to a target whose route changes, and with none. -/
theorem witness_routes :
    (∀ t ∈ [7, 319], ((rankS []).routeFrom 5 6 t).isSome = true) ∧
    (let s : State := { rankS [] with loads := [{ aLoad (6 * 2 ^ 42) with space := .peer, tag := some 9 }], posted := [9] }
     s.rank = some 5 ∧ s.routeFrom 5 5 6 ≠ s.routeHeld 5 6 ∧ s.asks 6 = true) ∧
    ∀ t, (rankS []).asks t = false :=
  ⟨by decide +kernel, by decide +kernel, fun _ => rfl⟩

/-- A flit, with its check made right. -/
def flit (f : Flit) : Flit := { f with crc := flitCrc f }
def flit0 (seq : BitVec 12) (kind : BitVec 4) : Flit :=
  flit { crc := 0, seq := seq, ack := 0xFFF, cls := 0, poison := false, nak := false, kind := kind, body := List.replicate 56 0 }
/-- R329: a broken flit, an IDLE one, one in sequence and one out of it; an acknowledgement of one flit. -/
theorem witness_flits :
    (let s := rankS [(.wport 17, 0x8000FF08)]
     s.portUp 17 = true ∧ (s.port 17).retraining = false ∧ flitSound { flit0 1 1 with poison := true } = false ∧
       flitSound (flit0 0 0) = true ∧ (flit0 0 0).kind = 0 ∧ flitSound (flit0 1 1) = true ∧ (flit0 1 1).kind = 1 ∧
       (flit0 1 1).seq = (s.port 17).rxLast + 1 ∧ flitSound (flit0 2 2) = true ∧ (flit0 2 2).seq ≠ (s.port 17).rxLast + 1) ∧
    (let p : Port := { (default : Port) with peerAck := 0xFFE, replay := [flit0 0 1] }
     ((flit0 0 0).ack - p.peerAck).toNat ≤ p.replay.length ∧ p.replay.length ≤ 1024) := by decide +kernel

/-- A request to this device from rank 6, which is let in and acts for function 0. -/
def req (op : Byte) (size : Byte) (addr aux : Nat) (data : List Byte) : PeerPacket := {
  addr := BitVec.ofNat 64 addr, src := 6, dst := 5, tag := 9, op := op, size := size, func := 0, sc := 0, cls := 0, hops := 0
  deadline := 0, aux := BitVec.ofNat 32 aux, chk0 := 0, chk1 := 0, data := data }
def servS : State := { rankS [(.inrank 0, 2 ^ 6), (.inown 0, 2)] with owners := owned }
/-- R331 to R333: an operation that is none; a rank that is not let in; a READ, a WRITE and an atomic of the frame's owner. -/
theorem witness_peer_requests : servS.rank = some (req 1 0 0 0 []).dst.toNat ∧ (req 4 0 0 0 []).op.toNat = 4 ∧
    (∀ p ∈ [req 1 7 8 0 [], req 1 127 128 0 [], req 2 0 65535 0 [1], req 3 7 65528 0xB00 (List.replicate 8 1)], servS.peerWaits p = false) ∧
    ({ servS with marks := [⟨0, me, true⟩] } : State).peerWaits (req 1 7 8 0 []) = true ∧
    (servS.peerWaits { req 2 0 65535 0 [1] with poison := true } = false ∧
      servS.peerFails { req 2 0 65535 0 [1] with poison := true } = none) ∧
    ({ servS with owners := [] } : State).peerFails (req 1 7 8 0 []) = some .owner ∧
    (rankS []).letsIn 6 = false ∧ servS.peerFails (req 1 127 128 0 []) = none ∧
    servS.peerFails (req 2 0 65535 0 [1]) = none ∧ regionOf 65535 = .hbm ∧ (req 2 0 65535 0 [1]).aux.getLsbD 0 = false ∧
    servS.peerFails (req 3 7 65528 0xB00 (List.replicate 8 1)) = none ∧
    (pktAtom (req 3 7 65528 0xB00 (List.replicate 8 1))).map (·.2) = some 8 ∧ servS.runBad 65528 8 = false := by decide +kernel

/-- R330: packets of no bytes, of 24, of 25 and of a masked write. -/
theorem witness_packet_bytes : ∀ p ∈ [req 1 127 0 0 [], req 2 23 0 0 (List.replicate 24 5), req 2 24 0 0 (List.replicate 25 5),
    req 2 127 0 1 (List.replicate 144 5)], p.data.length = carried p.op p.size p.aux := by decide +kernel
/-- R330: Table 18-4's bytes: 24 in the HEAD and 56 in a DATA flit, and the packet comes back. -/
theorem test_packet_flits : (flitsOf (req 2 80 0x40 0 (List.replicate 81 5)) false).map (·.kind) = [1, 2, 2] ∧
    parsePacket ((flitsOf (req 2 80 0x40 0 (List.replicate 81 5)) false).flatMap (·.body)) = req 2 80 0x40 0 (List.replicate 81 5) := by
  decide +kernel

/-- R331 to R335: requests of ours that wait, and one that has timed out. -/
def peerL : Load := { aLoad 0 with space := .peer, tag := some 9 }
def peerW (a : Option AtomOp) : Write := { aWrite 0 [0, 0, 0, 0] with space := .peer, tag := some 9, atom := a }
def anAtom : AtomOp := { op := 0, ty := .s32, b := 1, c := 0, d := some 7, acq := .none }
theorem witness_answers :
    (let s : State := { one gth with loads := [peerL], fab := 10 * Config.fabPerUs }
     s.peerLoad 9 = some peerL ∧ peerL.cmp = none ∧ [1, 2, 3, (4 : Byte)].length = peerL.width * peerL.count ∧ s.peerStore 9 = none ∧
       peerL.sent + max 10 (s.field .peerto 0 20) * Config.fabPerUs = max 10 (s.field .peerto 0 20) * Config.fabPerUs) ∧
    (let s : State := { one gth with loads := [peerL], fab := 2 ^ 60, posted := [9] }
     s.peerStore 9 = none ∧ s.peerLoad 9 = some peerL ∧ 9 ∈ s.posted ∧ peerL.sent + max 10 (s.field .peerto 0 20) * Config.fabPerUs ≤ s.fab) ∧
    (let w : Write := { peerW none with id := 10 }
     ({ one gth with writes := [peerW none, w] } : State).peerStores 9 = [peerW none, w] ∧ w.by_ = .thread me) ∧
    (∀ a ∈ [none, some anAtom], ({ one gth with writes := [peerW a] } : State).peerStore 9 = some (peerW a) ∧
      (peerW a).by_ = .thread me ∧ (peerW a).atom = a) ∧
    (let s : State := { one gth with expired := [(9, 5)] }
     s.peerStore 9 = none ∧ s.peerLoad 9 = none ∧ s.strays = [] ∧ (s.askingCard 9).isNone = true ∧ (s.askingPacket 9).isNone = true ∧
       (9, 5) ∈ s.expired) := by decide +kernel

/-- R337: an instance that is open, one that is not yet joined, and one that has waited for COLLTO. -/
def inst : CollInst := { fn := 0, group := 0, inst := 0, card := none, shares := [], startAt := 0, late := false }
theorem witness_instances :
    ({ one (th []) with insts := [inst] } : State).instOf 0 0 0 = some inst ∧ (one (th [])).instOf 64 0 0 = none ∧
    ((one (th [])).func 64).collCount.get 0 ≤ 0 ∧ (319 : Nat) < 320 ∧
    (let s : State := { one (th []) with insts := [inst], fab := 2 ^ 60 }
     inst.startAt + max 1 (s.field .collto 0 16) * 1000 * Config.fabPerUs ≤ s.fab) := by decide +kernel

/-- R13: the last die; a device that runs and one in a halt. -/
theorem witness_thermal : (6 : Nat) < 7 ∧ (one (th [])).thalt = false ∧ (regS [(.devstat, 0x84000000)]).thalt = false ∧
    ({ one (th []) with regs := [(Reg.devstat.key, some 0x84000000)] } : State).thalt = true ∧ (one (th [])).cc.op ≠ 3 := by
  decide +kernel

/-- R361, R370: each end of calibration, and memory initialisation. -/
def phaseS (n : Nat) (cc : Firmware) : State := { State.reset with regs := [(Reg.devstat.key, some (BitVec.ofNat 64 (n * 2 ^ 16)))], cc := cc }
def img (v svn lo hi : Nat) : Image :=
  { version := BitVec.ofNat 32 v, svn := BitVec.ofNat 32 svn, stMin := lo, stMax := hi, digest := 7, signer := some 0, body := 7 }
theorem witness_start_up : (phaseS 1 { (default : Firmware) with flash := some (img 3 1 0 0), minSvn := 1 }).phase = 1 ∧
    (phaseS 1 { (default : Firmware) with flash := some (img 3 1 0 0), minSvn := 1 }).cc.fusedKey = 0 ∧
    (img 3 1 0 0).signer = some 0 ∧ (img 3 1 0 0).body = (img 3 1 0 0).digest ∧ (1 : Word).toNat ≤ (img 3 1 0 0).svn.toNat ∧
    ¬ ((2 : Word).toNat ≤ (img 3 1 0 0).svn.toNat) ∧
    (phaseS 2 default).phase = 2 ∧ (phaseS 2 default).lost = [] ∧ (255 : Nat) < 256 ∧ State.reset.cc.op ≠ 3 := by
  decide +kernel

/-- R362, R363: a packet boundary, a packet that has begun, a standby complex and none. -/
theorem witness_failover : (regS []).ready = true ∧ (regS []).packetBoundary = true ∧ (regS []).standby = false ∧
    ({ regS [] with funcs := [(0, { (default : FuncSt) with leftovers := [begunP (pkt [4])] })] } : State).packetBoundary = false ∧
    (let s : State := { one (th []) with regs := [(Reg.devstat.key, some 0x90000000)] }
     s.standby = true ∧ ∀ e ∈ s.cc.table.regs, tableKey e.1 = true) := by decide +kernel

/-- R364 to R366: the device before start-up is complete; at rest; and at the end of each command. -/
def fwS (op : Nat) (cc : Firmware) : State := { State.reset with
  regs := [(Reg.devstat.key, some 0x90000000), (Reg.fwstat.key, some 1)], cc := { cc with op := op } }
theorem witness_live_update :
    State.reset.ready = false ∧ (regS []).ready = true ∧ (regS []).fwBusy = false ∧ ((regS []).stagedImage 2).isSome = true ∧
    (({ regS [] with poison := [(0, true)] } : State).stagedImage 2).isNone = true ∧ (0x10000002 : Word).toNat / 2 ^ 28 = 1 ∧
    (0x0 : Word).toNat / 2 ^ 28 = 0 ∧ 5 ≤ (0x50000000 : Word).toNat / 2 ^ 28 ∧
    (∀ i ∈ [img 4 1 0 0, { img 4 1 0 0 with signer := none }, img 4 0 0 0],
      (let s := fwS 1 { (default : Firmware) with cand := some i, minSvn := 1 }
       s.fwBusy = true ∧ s.cc.op = 1 ∧ s.standby = true ∧ s.cc.cand = some i)) ∧
    (let s := fwS 2 { (default : Firmware) with staged := true, img1 := some (img 4 1 0 0) }
     s.fwBusy = true ∧ s.cc.op = 2 ∧ s.standby = true ∧ s.cc.staged = true ∧ s.mayHandOver = true ∧ s.other = some (img 4 1 0 0) ∧
       (img 4 1 0 0).stMin ≤ s.cc.table.version ∧ s.cc.table.version ≤ (img 4 1 0 0).stMax) ∧
    (fwS 3 default).fwBusy = true ∧ (fwS 3 default).cc.op = 3 ∧ (fwS 4 default).cc.op = 4 := by decide +kernel

/-- R367 to R369: a conversation that is open, one after a change of roles, and a late answer that is owed. -/
def ask : SpdmRequest := { port := 1, nonce := 5, slot := 0, sm2 := true, sm3 := true, late := false }
def talkS (c : Spdm) : State := fwS 0 { (default : Firmware) with
  img0 := some (img 3 1 0 0), img1 := some (img 4 1 0 0), spdm := [(1, c)] }
theorem witness_attestation : ask.port < 2 ∧ ask.late = false ∧ (talkS default).running = some (img 3 1 0 0) ∧
    ((talkS default).cc.spdm.get ask.port).resynch = false ∧ ((talkS default).cc.spdm.get ask.port).owed = false ∧
    (let s := talkS { (default : Spdm) with resynch := true, owed := true }
     (s.cc.spdm.get ask.port).resynch = true ∧ (s.cc.spdm.get ask.port).owed = true ∧ s.other = some (img 4 1 0 0)) := by
  decide +kernel

/-- R4, R370: plain registers of BAR 0 and BAR 4 at their addresses; an address without a register. -/
theorem witness_registers : (Reg.at 0 64 0x800 = some (.qtbase 64) ∧ (Reg.qtbase 64).place.2.2 = 0x800) ∧
    (∀ r ∈ [Reg.cgbase 64, .miss 64 2, .peerto, .collto, .fwstage, .tbcfg 64, .inown 63, .inrank 9, .vfsave 63], Reg.at 4 64 r.place.2.2 = some r) ∧
    (regS []).ready = true ∧ State.reset.ready = false ∧ regReached 4 64 0x3900 ≠ some .fwctl ∧ sizeOk 8 = true ∧
    regReached 4 64 0xFFF8 = none ∧ (Reg.fsatp 0).key ≠ (Reg.fsatp 1).key ∧
    (State.reset.setReg (.fsatp 0) 5).parts' = State.reset.parts' := by decide +kernel

/-- R94: a fetch that faults. -/
theorem witness_illegal_fetch : (one (th [])).cur.crew = me.crew ∧ (one (th [])).cur.members = [me.tid] ∧
    (one (th [])).thread me = some (th []) ∧ (one (th [])).crew me.crew = some (crewOf (th [])) ∧ (crewOf (th [])).save = none ∧
    (th []).tx.state ≠ .transactional := by decide +kernel

/-! ### The step, the words, the invariants -/

/-- What `step` fetches at a state on which no unit has anything to do: the bytes left of the fetch block. -/
def fetchedBytes (s : State) : Option (List Byte) :=
  match s.roused.pickMove with
  | (none, s1) => s1.select.bind (fun s2 =>
      match s2.crew s2.cur.crew with
      | some c =>
        let pc := s2.cur.pc.toNat
        if pc % 4 ≠ 0 ∨ pc % 32 = 28 then none
        else
          match ({ s2 with cur := { s2.cur with next := successor s2.cur.pc 4 } } : State).translate c.cluster c.fn
            (pc / 32 * 32) .fetch false with
          | (.ok tg, s3) =>
            if tg.peer = true then (s3.fetchPeer c (pc / 32 * 32) tg.pa).1.map (fun b => b.drop (pc % 32))
            else if s3.homeBusy tg.pa = false ∧ s3.ownedBy (ownerCode c.fn) tg.pa = true ∧ s3.runBad tg.pa 32 = false then
              some ((s3.fetchBlock c.core c.fn (pc / 32 * 32) tg.pa).1.drop (pc % 32))
            else none
          | _ => none
      | none => none)
  | _ => none

/-- R85, R93, R94: an agenda with power and without; nothing to do; a unit's event; a group whose fetch decodes, whose
registers lie beyond REGS, and which is no instruction. -/
theorem witness_step :
    (let i : Instr := .thermalWarn 0
     let s : State := { State.reset with agenda := [i] }
     s.agenda = i :: [] ∧ s.powered = true ∧ ({ s with powered := false } : State).powered = false ∧ i ≠ .powerOnReset) ∧
    (State.reset.agenda = [] ∧ State.reset.powered = true ∧ State.reset.roused.pickMove = (none, State.reset) ∧
      State.reset.select = none ∧ ({ State.reset with powered := false } : State).powered = false) ∧
    (let s : State := { hostS q0 with parts := [(0, { (default : PartSt) with running := some 0, len := 1 })] }
     s.agenda = [] ∧ s.powered = true ∧ s.roused.pickMove.1 = some (.slotRead 0 2)) ∧
    (let s := State.reset.withFetchWord 64 0x010000002020DC05
     (fetchedBytes s).map decode = some (.ok (.iadd (flds 3 1 2 0 0 .s32))) ∧
       (Instr.iadd (flds 3 1 2 0 0 .s32)).regsOk plainCrew.rcd.regs = true) ∧
    (let c : Crew := { plainCrew with threads := [(0, some (plainThread (BitVec.ofNat 64 (codeBase + 28))))] }
     let s : State := { State.reset with crews := [(1, some c)] }
     s.roused.pickMove.1 = none ∧ ((s.roused.pickMove.2.select).map (fun s2 => s2.cur.pc.toNat % 32)) = some 28) ∧
    (Instr.iadd (flds 24 1 2 0 0 .s32)).regsOk 24 = false ∧
    (fetchedBytes (State.reset.withFetchWord 64 0x1C01)).map decode = some (.error .illegal) := by decide +kernel

/-- R82, R83: well-formed instructions of each length, and bytes that decode. -/
theorem witness_encodings : (∀ i ∈ ([.iadd (flds 3 1 2 0 0 .s32), .bra { flds 0 0 0 0 0 .b8 with ext := .imm32 0xFFFFFFC0 },
      .movi { flds 126 0 0 0 0 .b64 with d := 124, ext := .imm64 (BitVec.allOnes 64) }] : List Instr),
      i.wellFormed = true ∧ i.fields.isSome = true) ∧
    decode (leBytes 8 0x010000002020DC05) = .ok (.iadd (flds 3 1 2 0 0 .s32)) := by decide +kernel

/-- The canonical form holds of the states that the tests use. -/
theorem witness_crews_wf : CrewsWf (one (th [(3, 7)])) := by
  refine ⟨by decide, ?_⟩
  intro e he c hc
  simp only [one, List.mem_singleton] at he
  subst he
  simp only [Option.some.injEq] at hc
  subst hc
  refine ⟨by decide, ?_⟩
  intro q hq t ht
  simp only [List.mem_singleton] at hq
  subst hq
  simp only [Option.some.injEq] at ht
  subst ht
  decide

/-- The step from a state of both invariants answers a next state. -/
theorem witness_invariant_steps : MemInv State.reset ∧ ∃ t, step State.reset = .next t := ⟨by decide, _, rfl⟩
end Sys2Proof.Machine.Tests
end

section
/-!
What a register instruction does to the one thread of its group: the form of its result (a word, a pair, a predicate) from
the write that its entry of `intEffect` or `threadEffect` makes.
-/
namespace Sys2Proof.Machine
open Sys2Proof

/-- An integer instruction issues the update that its entry of `intEffect` gives. -/
theorem exec_of_intEffect {i : Instr} {f : Fields} {upd : Thread → Thread} (h : intEffect i = some (f, upd)) (s : State) :
    exec i s = .next (s.regOp i f.g upd) := by
  unfold intEffect at h
  split at h <;> cases h <;> rfl

/-- A compare, predicate or cursor instruction issues the update that its entry of `threadEffect` gives. -/
theorem exec_of_threadEffect {i : Instr} {f : Fields} {upd : Thread → Thread} (h : threadEffect i = some (f, upd))
    (s : State) : exec i s = .next (s.regOp i f.g upd) := by
  unfold threadEffect at h
  split at h <;> cases h <;> rfl

/-- The fields of a well-formed instruction have a type of its row (R93). -/
theorem Instr.ty_mem_of_wellFormed {i : Instr} {f : Fields} {sh : Shape} (hf : i.fields = some f) (hs : i.shape = some sh)
    (h : i.wellFormed = true) : f.ty ∈ sh.tys := by
  simp only [Instr.wellFormed, hf, hs, Shape.ok, Bool.and_eq_true, List.contains_iff_mem] at h
  tauto

/-- A well-formed instruction whose row has types of 32 and 64 bits alone. -/
theorem Instr.tyWidth_of_wellFormed {i : Instr} {f : Fields} {sh : Shape} (hf : i.fields = some f)
    (hs : i.shape = some sh) (ht : (sh.tys.all fun ty => tyWidth ty == 32 || tyWidth ty == 64) = true)
    (h : i.wellFormed = true) : tyWidth f.ty = 32 ∨ tyWidth f.ty = 64 := by
  simpa using List.all_eq_true.1 ht _ (Instr.ty_mem_of_wellFormed hf hs h)

/-- The words of a well-formed instruction have a length of its row (R82). -/
theorem Instr.len_mem_of_wellFormed {i : Instr} {f : Fields} {sh : Shape} (hf : i.fields = some f) (hs : i.shape = some sh)
    (h : i.wellFormed = true) : f.ext.len ∈ sh.lens := by
  simp only [Instr.wellFormed, hf, hs, Shape.ok, Bool.and_eq_true, List.contains_iff_mem] at h
  tauto

section
variable {s : State} {r : ThreadRef} {th : Thread} {i : Instr} {g : Guard} {upd : Thread → Thread}

/-- The one thread of a group takes its update and goes on; every other thread and the rest of the state stay. -/
theorem updated_of_regOp (h : s.Single r th i g) (hx : exec i s = .next (s.regOp i g upd)) :
    ∃ t, exec i s = .next t ∧ s.OnlyThread t r ∧ t.thread r = some ((upd th).advance s.cur.next) := by
  have hth : s.thread r = some th := h.2.2.1
  exact ⟨_, by rw [hx, State.regOp_single h], State.onlyThread_putThread hth _, State.thread_putThread_self hth _⟩

theorem wordResult_of_setReg {d : BitVec 7} {v : Word} (h : s.Single r th i g) (hx : exec i s = .next (s.regOp i g upd))
    (hu : upd th = th.setReg d v) : WordResult i s r th d v := by
  obtain ⟨t, ht, hs, hr⟩ := updated_of_regOp h hx
  rw [hu] at hr
  exact ⟨t, _, ht, hs, hr, by rw [Thread.setReg_eq]; rfl, Thread.setReg_get th d v⟩

theorem pairResult_of_setPair {d : BitVec 7} {v : DWord} (h : s.Single r th i g)
    (hx : exec i s = .next (s.regOp i g upd)) (hu : upd th = th.setPair d v) : PairResult i s r th d v := by
  obtain ⟨t, ht, hs, hr⟩ := updated_of_regOp h hx
  rw [hu] at hr
  exact ⟨t, _, ht, hs, hr, by rw [Thread.setPair_eq]; rfl, Thread.setPair_get th d v⟩

theorem predResult_of_setPred {d : BitVec 3} {v : Bool} (h : s.Single r th i g) (hx : exec i s = .next (s.regOp i g upd))
    (hu : upd th = th.setPred d v) : PredResult i s r th d v := by
  obtain ⟨t, ht, hs, hr⟩ := updated_of_regOp h hx
  rw [hu] at hr
  exact ⟨t, _, ht, hs, hr, by rw [Thread.setPred_eq]; rfl, Thread.setPred_get th d v⟩

theorem bitsResult_of_putRaw {f : Fields} {v : DWord} (h : s.Single r th i g) (hx : exec i s = .next (s.regOp i g upd))
    (hu : upd th = th.putRaw f.d f.ty.is64 v) : BitsResult i s r th f v := by
  unfold Thread.putRaw at hu
  unfold BitsResult
  split at hu
  · next h64 => rw [if_pos h64]; exact pairResult_of_setPair h hx hu
  · next h64 => rw [if_neg h64]; exact wordResult_of_setReg h hx hu

/-- An integer result of a type of 32 or 64 bits. -/
theorem intResult_of_putInt {f : Fields} {x : Int} (hw : tyWidth f.ty = 32 ∨ tyWidth f.ty = 64) (h : s.Single r th i g)
    (hx : exec i s = .next (s.regOp i g upd)) (hu : upd th = th.putInt f.d f.ty x) : IntResult i s r th f x :=
  bitsResult_of_putRaw h hx (by rw [hu, Thread.putInt_raw _ _ _ hw])

end

theorem tyWidth_of_is64 {ty : Ty} (h : ty.is64 = true) : tyWidth ty = 64 := by
  cases ty <;> simp [Ty.is64, tyWidth] at *

/-- A result counts by its low bits, as many as its type has. -/
theorem BitsResult.congr {i : Instr} {s : State} {r : ThreadRef} {th : Thread} {f : Fields} {v x : DWord}
    (hw : tyWidth f.ty = 32 ∨ tyWidth f.ty = 64) (hv : ∀ k < tyWidth f.ty, v.getLsbD k = x.getLsbD k)
    (h : BitsResult i s r th f v) : BitsResult i s r th f x := by
  unfold BitsResult at *
  split at h
  · next h64 =>
    have : v = x := BitVec.eq_of_getLsbD_eq fun k hk => hv k (by rw [tyWidth_of_is64 h64]; exact hk)
    rwa [if_pos h64, ← this]
  · next h64 =>
    have : v.setWidth 32 = x.setWidth 32 := BitVec.eq_of_getLsbD_eq fun k hk => by
      simp only [BitVec.getLsbD_setWidth, hk, decide_true, Bool.true_and]
      exact hv k (by omega)
    rwa [if_neg h64, ← this]

end Sys2Proof.Machine
end

section
/-!
IDIV and IREM on every operand (R122).
-/
namespace Sys2Proof.Machine
open Sys2Proof

theorem ofInt_eq_of_emod_eq {n : Nat} {x y : Int} (h : x % 2 ^ n = y % 2 ^ n) : BitVec.ofInt n x = BitVec.ofInt n y :=
  BitVec.eq_of_toNat_eq (by simp [BitVec.toNat_ofInt, h])

/-- An integer result counts modulo 2^w (R119). -/
theorem IntResult.congr {i : Instr} {s : State} {r : ThreadRef} {th : Thread} {f : Fields} {x y : Int}
    (hw : tyWidth f.ty = 32 ∨ tyWidth f.ty = 64) (hxy : x % 2 ^ tyWidth f.ty = y % 2 ^ tyWidth f.ty)
    (h : IntResult i s r th f x) : IntResult i s r th f y := by
  refine BitsResult.congr hw (fun k hk => ?_) h
  obtain hw | hw := hw <;> rw [hw] at hxy hk
  · have hbit (z : Int) : (BitVec.ofInt 64 z).getLsbD k = (BitVec.ofInt 32 z).getLsbD k := by
      simp [← ofInt_setWidth, hk]
    rw [hbit, hbit, ofInt_eq_of_emod_eq hxy]
  · rw [ofInt_eq_of_emod_eq hxy]

/-- The quotient min_TY / −1, which no signed type holds, is min_TY modulo 2^w. -/
theorem neg_tyMin_emod {ty : Ty} (hs : tySigned ty = true) : -tyMin ty % 2 ^ tyWidth ty = tyMin ty % 2 ^ tyWidth ty := by
  cases ty <;> simp [tySigned] at hs <;> decide

/-- IDIV's value by R122, modulo 2^w: truncated, but for a divisor of zero and for min_TY / −1. -/
theorem valIdiv_emod (t : Thread) (f : Fields) :
    valIdiv t f % 2 ^ tyWidth f.ty =
      (if t.intB f = 0 then (if tySigned f.ty then -1 else tyMax f.ty)
        else if tySigned f.ty ∧ t.intA f = tyMin f.ty ∧ t.intB f = -1 then tyMin f.ty
        else (t.intA f).tdiv (t.intB f)) % 2 ^ tyWidth f.ty := by
  unfold valIdiv
  by_cases hb : t.intB f = 0
  · rw [if_pos hb, if_pos hb]
  · rw [if_neg hb, if_neg hb]
    split
    · next hov =>
      obtain ⟨hs, ha, hb⟩ := hov
      rw [ha, hb, Int.tdiv_neg, Int.tdiv_one, neg_tyMin_emod hs]
    · rfl

/-- IREM's value by R122: a − q · b, and 0 for min_TY / −1. -/
theorem valIrem_eq (t : Thread) (f : Fields) :
    valIrem t f =
      if t.intB f = 0 then t.intA f
      else if tySigned f.ty ∧ t.intA f = tyMin f.ty ∧ t.intB f = -1 then 0
      else t.intA f - (t.intA f).tdiv (t.intB f) * t.intB f := by
  unfold valIrem
  by_cases hb : t.intB f = 0
  · rw [if_pos hb, if_pos hb]
  · rw [if_neg hb, if_neg hb]
    split
    · next hov =>
      obtain ⟨-, -, hb⟩ := hov
      rw [hb, Int.tmod_neg, Int.tmod_one]
    · rw [Int.tmod_def, Int.mul_comm]

/-- Settles O4: the quotient and the remainder are those of R122, the quotient modulo 2^w. -/
theorem divisionTruncatesTowardZero : Obligations.DivisionTruncatesTowardZero := by
  intro f s r th a b q m
  constructor
  · intro h hwf
    have hw := Instr.tyWidth_of_wellFormed rfl rfl rfl hwf
    exact IntResult.congr hw (valIdiv_emod th f) (intResult_of_putInt hw h (exec_of_intEffect rfl s) rfl)
  · intro h hwf
    have hw := Instr.tyWidth_of_wellFormed rfl rfl rfl hwf
    exact intResult_of_putInt hw h (exec_of_intEffect rfl s) (congrArg (th.putInt f.d f.ty) (valIrem_eq th f))

end Sys2Proof.Machine
end

section
/-!
Shifts and rotations bit by bit (R123): the bits of an integer, of its product and quotient by a power of two, and of the
integer that a register stands for under a type (R158).
-/
namespace Sys2Proof.Machine
open Sys2Proof

theorem testBit_eq_ediv_emod (x : Int) (k : Nat) : x.testBit k = decide (x / 2 ^ k % 2 = 1) := by
  have hpow : ((2 : Int) ^ k) = ((2 ^ k : Nat) : Int) := by push_cast; rfl
  cases x with
  | ofNat m =>
    simp only [Int.testBit, Nat.testBit_eq_decide_div_mod_eq, hpow, Int.ofNat_eq_natCast]
    congr 1
    norm_cast
  | negSucc m =>
    have hneg : Int.negSucc m / 2 ^ k = -((m / 2 ^ k : Nat) + 1 : Int) := by
      rw [hpow, Int.negSucc_ediv _ (by positivity)]; norm_cast
    simp only [Int.testBit, Nat.testBit_eq_decide_div_mod_eq, hneg, ← decide_not]
    congr 1
    simp only [eq_iff_iff]
    omega

theorem testBit_mul_two_pow (x : Int) (n k : Nat) :
    (x * 2 ^ n).testBit k = (decide (n ≤ k) && x.testBit (k - n)) := by
  simp only [testBit_eq_ediv_emod]
  by_cases h : n ≤ k
  · rw [show (2 : Int) ^ k = 2 ^ (k - n) * 2 ^ n by rw [← pow_add]; congr 1; omega,
      Int.mul_ediv_mul_of_pos_left _ _ (by positivity)]
    simp [h]
  · rw [show (2 : Int) ^ n = 2 ^ (n - k - 1) * 2 * 2 ^ k by rw [← pow_succ, ← pow_add]; congr 1; omega,
      ← mul_assoc, Int.mul_ediv_cancel _ (by positivity), ← mul_assoc, Int.mul_emod_left]
    simp [h]

theorem testBit_ediv_two_pow (x : Int) (n k : Nat) : (x / 2 ^ n).testBit k = x.testBit (k + n) := by
  rw [testBit_eq_ediv_emod, testBit_eq_ediv_emod, Int.ediv_ediv_of_nonneg (by positivity), ← pow_add, Nat.add_comm]

theorem getLsbD_ofInt (n : Nat) (x : Int) (k : Nat) : (BitVec.ofInt n x).getLsbD k = (decide (k < n) && x.testBit k) := by
  cases x with
  | ofNat m => simp [Int.testBit, BitVec.getLsbD_ofNat]
  | negSucc m =>
    rw [BitVec.ofInt_negSucc_eq_not_ofNat, BitVec.getLsbD_not, BitVec.getLsbD_ofNat, Int.testBit]
    cases decide (k < n) <;> rfl

/-- The bits of the integer that a register stands for: its own below the type's width, and copies of the sign above. -/
theorem testBit_tyInt (ty : Ty) (v : DWord) (k : Nat) :
    (tyInt ty v).testBit k =
      if k < tyWidth ty then v.getLsbD k else tySigned ty && v.getLsbD (tyWidth ty - 1) := by
  have hw : 0 < tyWidth ty := by cases ty <;> decide
  unfold tyInt
  generalize tyWidth ty = w at *
  have hu : v.toNat % 2 ^ w < 2 ^ w := Nat.mod_lt _ (Nat.two_pow_pos w)
  have hbit (j : Nat) : (v.toNat % 2 ^ w).testBit j = (decide (j < w) && v.getLsbD j) := Nat.testBit_mod_two_pow ..
  have hmsb : v.getLsbD (w - 1) = decide (2 ^ (w - 1) ≤ v.toNat % 2 ^ w) := by
    have := BitVec.msb_eq_decide (v.setWidth w)
    rwa [BitVec.msb_eq_getLsbD_last, BitVec.toNat_setWidth, BitVec.getLsbD_setWidth, decide_eq_true (by omega),
      Bool.true_and] at this
  rw [hmsb]
  generalize v.toNat % 2 ^ w = u at *
  by_cases hneg : tySigned ty ∧ 2 ^ (w - 1) ≤ u
  · have hsub : (u : Int) - 2 ^ w = Int.negSucc (2 ^ w - (u + 1)) := by
      rw [Int.negSucc_eq]; push_cast [Nat.succ_le_of_lt hu]; ring
    rw [if_pos hneg, hsub]
    by_cases hk : k < w <;> simp [Int.testBit, Nat.testBit_two_pow_sub_succ hu, hbit, hneg, hk]
  · have hsign : (tySigned ty && decide (2 ^ (w - 1) ≤ u)) = false := by simpa using hneg
    rw [if_neg hneg, hsign]
    by_cases hk : k < w <;> simp [Int.testBit, hbit, hk]

/-- The bits of SHL's value (R123). -/
theorem testBit_valShl (t : Thread) (f : Fields) {k : Nat} (hk : k < tyWidth f.ty) :
    (valShl t f).testBit k = (decide (t.shiftCount f ≤ k) && (t.srcA f).getLsbD (k - t.shiftCount f)) := by
  unfold valShl
  dsimp only
  split
  · next hn => simp [Int.testBit, show ¬ t.shiftCount f ≤ k by omega]
  · rw [testBit_mul_two_pow, Thread.intA, testBit_tyInt, if_pos (by omega)]

/-- The bits of SHR's value (R123). -/
theorem testBit_valShr (t : Thread) (f : Fields) (k : Nat) :
    (valShr t f).testBit k =
      if k + t.shiftCount f < tyWidth f.ty then (t.srcA f).getLsbD (k + t.shiftCount f)
      else tySigned f.ty && (t.srcA f).getLsbD (tyWidth f.ty - 1) := by
  rw [valShr, testBit_ediv_two_pow, Thread.intA, testBit_tyInt]
  split
  · next h => rw [Nat.min_eq_left (by omega), if_pos (by omega)]
  · next h => rw [if_neg (by omega)]

/-- A rotation to the left by `l` bits among `w`, bit by bit. -/
theorem testBit_rotl {a w l k : Nat} (ha : a < 2 ^ w) (hl : l < w) (hk : k < w) :
    ((a * 2 ^ l + a / 2 ^ (w - l)) % 2 ^ w).testBit k = a.testBit ((k + (w - l)) % w) := by
  have hlow : a / 2 ^ (w - l) < 2 ^ l := by
    rw [Nat.div_lt_iff_lt_mul (Nat.two_pow_pos _), ← Nat.pow_add, Nat.add_sub_cancel' hl.le]; exact ha
  rw [Nat.testBit_mod_two_pow, decide_eq_true hk, Bool.true_and, Nat.mul_comm, Nat.testBit_two_pow_mul_add _ hlow]
  split
  · rw [Nat.testBit_div_two_pow, Nat.mod_eq_of_lt (by omega)]
  · rw [show k + (w - l) = k - l + w by omega, Nat.add_mod_right, Nat.mod_eq_of_lt (by omega)]

/-- The bits of ROT's value (R123). -/
theorem getLsbD_valRot (t : Thread) (f : Fields) {k : Nat} (hk : k < tyWidth f.ty) :
    (valRot t f).getLsbD k =
      (t.srcA f).getLsbD ((if f.fn = 1 then k + t.shiftCount f % tyWidth f.ty
        else k + (tyWidth f.ty - t.shiftCount f % tyWidth f.ty)) % tyWidth f.ty) := by
  have h64 : tyWidth f.ty ≤ 64 := by cases f.ty <;> decide
  unfold valRot
  dsimp only
  generalize tyWidth f.ty = w at *
  have hn : t.shiftCount f % w < w := Nat.mod_lt _ (by omega)
  have hl : (if f.fn = 1 then (w - t.shiftCount f % w) % w else t.shiftCount f % w) < w := by
    split
    · exact Nat.mod_lt _ (by omega)
    · exact hn
  rw [BitVec.getLsbD_ofNat, decide_eq_true (by omega), Bool.true_and,
    testBit_rotl (Nat.mod_lt _ (Nat.two_pow_pos w)) hl hk, Nat.testBit_mod_two_pow,
    decide_eq_true (Nat.mod_lt _ (by omega)), Bool.true_and]
  generalize t.shiftCount f % w = n at *
  split
  · congr 1
    by_cases h0 : n = 0
    · rw [h0, Nat.sub_zero, Nat.mod_self, Nat.sub_zero, Nat.add_mod_right, Nat.add_zero]
    · rw [Nat.mod_eq_of_lt (show w - n < w by omega), Nat.sub_sub_self hn.le]
  · rfl

/-- An integer result, given by the bits of its type. -/
theorem bitsResult_of_putInt {s : State} {r : ThreadRef} {th : Thread} {i : Instr} {g : Guard} {upd : Thread → Thread}
    {f : Fields} {z : Int} {x : DWord} (hw : tyWidth f.ty = 32 ∨ tyWidth f.ty = 64) (h : s.Single r th i g)
    (hx : exec i s = .next (s.regOp i g upd)) (hu : upd th = th.putInt f.d f.ty z)
    (hbits : ∀ k < tyWidth f.ty, z.testBit k = x.getLsbD k) : BitsResult i s r th f x := by
  refine BitsResult.congr hw (fun k hk => ?_) (intResult_of_putInt hw h hx hu)
  rw [getLsbD_ofInt, decide_eq_true (by omega), Bool.true_and, hbits k hk]

/-- Settles O5: each result has, below the width of its type, the bits that R123 gives it. -/
theorem shiftsAndRotationsByAnyCount : Obligations.ShiftsAndRotationsByAnyCount := by
  intro f s r th x w n a
  refine ⟨fun h hwf hx => ?_, fun h hwf hx => ?_, fun h hwf hx => ?_⟩
  all_goals
    have hw := Instr.tyWidth_of_wellFormed rfl rfl rfl hwf
    have hbit (k : Nat) (hk : k < tyWidth f.ty) := hx k (by omega)
  · refine bitsResult_of_putInt hw h (exec_of_intEffect rfl s) rfl fun k hk => ?_
    rw [testBit_valShl th f hk, hbit k hk, decide_eq_true hk, Bool.true_and]
    rfl
  · refine bitsResult_of_putInt hw h (exec_of_intEffect rfl s) rfl fun k hk => ?_
    rw [testBit_valShr, hbit k hk, decide_eq_true hk, Bool.true_and]
    rfl
  · refine BitsResult.congr hw (fun k hk => ?_) (bitsResult_of_putRaw h (exec_of_intEffect rfl s) rfl)
    rw [getLsbD_valRot th f hk, hbit k hk, decide_eq_true hk, Bool.true_and]
    rfl

end Sys2Proof.Machine
end

section
/-!
Tables of three inputs (R124), and predicates to and from registers (R131).
-/
namespace Sys2Proof.Machine
open Sys2Proof

/-- Gathering the terms of a list that a test selects: a bit is set where a selected term sets it. -/
theorem getLsbD_foldl_or (p : Nat → Bool) (term : Nat → DWord) (l : List Nat) (acc : DWord) (k : Nat) :
    (l.foldl (fun acc j => if p j then acc ||| term j else acc) acc).getLsbD k =
      (acc.getLsbD k || l.any fun j => p j && (term j).getLsbD k) := by
  induction l generalizing acc with
  | nil => simp
  | cons j l ih =>
    rw [List.foldl_cons, ih, List.any_cons]
    cases p j <;> simp [Bool.or_assoc]

theorem getLsbD_ite_not (c : Prop) [Decidable c] (a : DWord) {k : Nat} (hk : k < 64) :
    (if c then a else ~~~a).getLsbD k = (a.getLsbD k == decide c) := by
  split <;> simp [*]

/-- A truth table of three inputs acts on each bit alone (R124). -/
theorem getLsbD_table3 (fn : BitVec 8) (a b c : DWord) {k : Nat} (hk : k < 64) :
    (table3 fn a b c).getLsbD k = tableBit fn (a.getLsbD k) (b.getLsbD k) (c.getLsbD k) := by
  have hr : List.range 8 = [0, 1, 2, 3, 4, 5, 6, 7] := rfl
  rw [table3, getLsbD_foldl_or, hr, tableBit]
  simp only [BitVec.getLsbD_and, getLsbD_ite_not _ _ hk]
  cases a.getLsbD k <;> cases b.getLsbD k <;> cases c.getLsbD k <;> simp

/-- The predicates as a number (R131). -/
theorem predBits_eq_ofBits (t : Thread) : t.predBits = Nat.ofBits fun k : Fin 7 => t.preds.get k := by
  simp [Thread.predBits, Nat.ofBits_succ, List.range_succ]
  omega

theorem getLsbD_predBits (t : Thread) (k : Nat) :
    (BitVec.ofNat 32 t.predBits).getLsbD k = (decide (k < 7) && t.preds.get k) := by
  rw [BitVec.getLsbD_ofNat, predBits_eq_ofBits, Nat.testBit_ofBits]
  by_cases h : k < 7
  · simp [h, show k < 32 by omega]
  · simp [h]

/-- Predicate `n` of p0 to p6 reads as written. -/
theorem Thread.setPred_ofNat_get (t : Thread) {n : Nat} (hn : n < 7) (v : Bool) (k : Nat) :
    (t.setPred (BitVec.ofNat 3 n) v).preds.get k = if k = n then v else t.preds.get k := by
  have hnat : (BitVec.ofNat 3 n).toNat = n := by rw [BitVec.toNat_ofNat, Nat.mod_eq_of_lt (by omega)]
  have hne : BitVec.ofNat 3 n ≠ 7 := fun h => by
    have : n = 7 := hnat.symm.trans (congrArg BitVec.toNat h)
    omega
  rw [Thread.setPred_get, hnat]
  simp only [hne, ne_eq, not_false_eq_true, true_and]

/-- Writing the predicates that a mask selects, from p0 up: each takes its own value, the rest of the thread stays. -/
theorem foldl_setPred (t : Thread) (mask val : Nat → Bool) {n : Nat} (hn : n ≤ 7) :
    let u := (List.range n).foldl (fun (u : Thread) k => if mask k then u.setPred (BitVec.ofNat 3 k) (val k) else u) t
    u = { t with preds := u.preds } ∧
      ∀ k, u.preds.get k = if k < n ∧ mask k = true then val k else t.preds.get k := by
  induction n with
  | zero => exact ⟨rfl, fun k => by simp⟩
  | succ n ih =>
    obtain ⟨hframe, hget⟩ := ih (by omega)
    simp only [List.range_succ, List.foldl_append, List.foldl_cons, List.foldl_nil]
    generalize (List.range n).foldl _ t = u at *
    by_cases hm : mask n = true
    · rw [if_pos hm]
      refine ⟨?_, fun k => ?_⟩
      · rw [Thread.setPred_eq, hframe]
      · rw [Thread.setPred_ofNat_get u (by omega), hget]
        by_cases hk : k = n
        · simp [hk, hm]
        · simp [hk, show k < n + 1 ↔ k < n by omega]
    · rw [if_neg hm]
      refine ⟨hframe, fun k => ?_⟩
      rw [hget]
      by_cases hk : k = n
      · simp [hk, hm]
      · simp [show k < n + 1 ↔ k < n by omega]

/-- Settles O6: LOP3 and PLOP look their inputs up bit by bit; P2G writes the number of the predicates, and G2P the
predicates that its mask selects. -/
theorem tablesAndPredicateTransfers : Obligations.TablesAndPredicateTransfers := by
  constructor
  · intro f s r th
    constructor
    · intro h hwf x hx
      have hw := Instr.tyWidth_of_wellFormed rfl rfl rfl hwf
      refine BitsResult.congr hw (fun k hk => ?_) (bitsResult_of_putRaw h (exec_of_intEffect rfl s) rfl)
      have hk64 : k < 64 := by omega
      rw [hx k hk64]
      exact getLsbD_table3 f.fn _ _ _ hk64
    · intro h hwf
      exact predResult_of_setPred h (exec_of_threadEffect rfl s) rfl
  · intro f s r th
    constructor
    · intro h hwf x hx
      have hval : BitVec.ofNat 32 th.predBits = x := BitVec.eq_of_getLsbD_eq fun k _ => by rw [getLsbD_predBits, hx]
      exact wordResult_of_setReg h (exec_of_threadEffect rfl s) (congrArg (th.setReg f.d) hval)
    · intro h hwf
      obtain ⟨t, ht, hs, hr⟩ := updated_of_regOp h (exec_of_threadEffect rfl s)
      obtain ⟨hframe, hget⟩ := foldl_setPred th (th.srcBi f .b32).getLsbD (th.reg f.a).getLsbD (Nat.le_refl 7)
      exact ⟨t, _, ht, hs, hr, by rw [hframe]; rfl, hget⟩

end Sys2Proof.Machine
end

section
/-!
IADDC: a sum with a carry in and a carry out (R127).
-/
namespace Sys2Proof.Machine
open Sys2Proof

/-- A word read as a 64-bit source. -/
theorem toNat_setWidth_word_lt (v : Word) : (v.setWidth 64).toNat < 2 ^ 32 := by
  rw [BitVec.toNat_setWidth_of_le (by decide)]
  exact v.isLt

/-- A register, or a pair for a 64-bit operand, holds a number of its type's width. -/
theorem Thread.raw_toNat_lt (t : Thread) {ty : Ty} (hw : tyWidth ty = 32 ∨ tyWidth ty = 64) (k : BitVec 7) :
    (t.raw ty.is64 k).toNat < 2 ^ tyWidth ty := by
  have hty : tyWidth ty = if ty.is64 then 64 else 32 := by cases ty <;> simp [tyWidth, Ty.is64] at *
  rw [hty, Thread.raw]
  split
  · exact (t.pair k).isLt
  · exact toNat_setWidth_word_lt (t.reg k)

/-- Source B of an unsigned type, a register or an IMM32, holds a number of its type's width (R90). -/
theorem Thread.srcBi_toNat_lt (t : Thread) {f : Fields} (hty : f.ty = .z32 ∨ f.ty = .z64) (hlen : f.ext.len ≠ .l128) :
    (t.srcBi f f.ty).toNat < 2 ^ tyWidth f.ty := by
  have hw : tyWidth f.ty = 32 ∨ tyWidth f.ty = 64 := by rcases hty with h | h <;> simp [h, tyWidth]
  unfold Thread.srcBi
  split
  · exact t.raw_toNat_lt hw _
  · next hext =>
    cases he : f.ext with
    | none => exact absurd he hext
    | imm64 v => simp [he, Ext.len] at hlen
    | imm32 v =>
      have hsgn : ¬ (f.ty = .s64 ∨ f.ty = .b64) := by rcases hty with h | h <;> simp [h]
      rw [immRaw, if_neg hsgn]
      exact (toNat_setWidth_word_lt v).trans_le (Nat.pow_le_pow_right (by decide) (by omega))

/-- The sum of IADDC over its operands as they stand, each within its width; code 7 names no carry (R127). -/
theorem sumIaddc_eq (t : Thread) {f : Fields} (hty : f.ty = .z32 ∨ f.ty = .z64) (hlen : f.ext.len ≠ .l128) :
    sumIaddc t f =
      (t.srcA f).toNat +
        (if f.fn.getLsbD 6 then 2 ^ tyWidth f.ty - 1 - (t.srcBi f f.ty).toNat else (t.srcBi f f.ty).toNat) +
        (if f.fn.extractLsb' 0 3 = 7 then 0 else (t.preds.get (f.fn.extractLsb' 0 3).toNat).toNat) := by
  have hw : tyWidth f.ty = 32 ∨ tyWidth f.ty = 64 := by rcases hty with h | h <;> simp [h, tyWidth]
  unfold sumIaddc
  dsimp only
  have ha : (t.srcA f).toNat < 2 ^ tyWidth f.ty := t.raw_toNat_lt hw f.a
  rw [Nat.mod_eq_of_lt ha, Nat.mod_eq_of_lt (t.srcBi_toNat_lt hty hlen)]
  congr 1
  split
  · rfl
  · next h => rw [Thread.pred, if_neg h]

theorem Thread.setPred_regs (t : Thread) (p : BitVec 3) (v : Bool) : (t.setPred p v).regs = t.regs := by
  rw [Thread.setPred_eq]

theorem Thread.putInt_eq (t : Thread) (d : BitVec 7) (ty : Ty) (x : Int) :
    t.putInt d ty x = { t with regs := (t.putInt d ty x).regs } := by
  unfold Thread.putInt
  split
  · exact Thread.setPair_eq ..
  · exact Thread.setReg_eq ..

/-- The registers after an unsigned result of 32 or 64 bits. -/
theorem Thread.putInt_natCast_get (t : Thread) (d : BitVec 7) {ty : Ty} (hty : ty = .z32 ∨ ty = .z64) (x k : Nat) :
    (t.putInt d ty x).regs.get k =
      if d ≠ 127 ∧ k = d.toNat then BitVec.ofNat 32 x
      else if d ≠ 127 ∧ ty = .z64 ∧ k = d.toNat + 1 then BitVec.ofNat 32 (x / 2 ^ 32) else t.regs.get k := by
  rcases hty with rfl | rfl
  · have hword : intWord .z32 x = BitVec.ofNat 32 x := BitVec.ofInt_natCast 32 x
    rw [Thread.putInt, if_neg (by decide), Thread.setReg_get, hword]
    simp
  · have hlo : (BitVec.ofInt 64 x).extractLsb' 0 32 = BitVec.ofNat 32 x := by
      apply BitVec.eq_of_toNat_eq; simp
    have hhi : (BitVec.ofInt 64 x).extractLsb' 32 32 = BitVec.ofNat 32 (x / 2 ^ 32) := by
      apply BitVec.eq_of_toNat_eq; simp [Nat.shiftRight_eq_div_pow]; omega
    rw [Thread.putInt, if_pos (by decide), Thread.setPair_get, hlo, hhi]
    simp

/-- Settles O7: the sum of R127 goes to the destination modulo 2^w, and its carry to the predicate that FN[5:3] names. -/
theorem carriesTravelThroughPredicates : Obligations.CarriesTravelThroughPredicates := by
  intro f s r th h hwf w a b cin x
  have hty : f.ty = .z32 ∨ f.ty = .z64 := by simpa using Instr.ty_mem_of_wellFormed rfl rfl hwf
  have hlen : f.ext.len ≠ .l128 := fun e => by
    have := Instr.len_mem_of_wellFormed rfl rfl hwf
    simp [e] at this
  have hsum : sumIaddc th f = x := sumIaddc_eq th hty hlen
  obtain ⟨t, ht, hs, hr⟩ := updated_of_regOp h (exec_of_intEffect rfl s)
  rw [hsum] at hr
  refine ⟨t, _, ht, hs, hr, ?_, fun k => ?_, fun k => ?_⟩
  · rw [Thread.setPred_eq, Thread.putInt_eq]; rfl
  · rw [Thread.advance, Thread.setPred_regs]
    exact Thread.putInt_natCast_get th f.d hty x k
  · rw [Thread.advance, Thread.setPred_get, Thread.putInt_eq]

end Sys2Proof.Machine
end

section
/-!
Compares: the conditions on an order, and their combination with a predicate (R130).
-/
namespace Sys2Proof.Machine
open Sys2Proof

/-- The conditions eq, ne, lt, le, gt, ge in terms of "less" and "equal". -/
def condOf (k : Nat) (lt eq : Bool) : Bool :=
  if k = 0 then eq else if k = 1 then !eq else if k = 2 then lt else if k = 3 then lt || eq
  else if k = 4 then !lt && !eq else !lt

theorem ordCond_eq_condOf (k : Nat) (o : Int) : ordCond k o = condOf k (decide (o < 0)) (decide (o = 0)) := by
  have hle : decide (o ≤ 0) = (decide (o < 0) || decide (o = 0)) := by
    rw [← Bool.decide_or, decide_eq_decide]; omega
  have hgt : decide (0 < o) = (!decide (o < 0) && !decide (o = 0)) := by
    rw [← decide_not, ← decide_not, ← Bool.decide_and, decide_eq_decide]; omega
  have hge : decide (0 ≤ o) = !decide (o < 0) := by
    rw [← decide_not, decide_eq_decide]; omega
  rw [ordCond, condOf, hle, hgt, hge]
  rfl

theorem intCond_eq_condOf (k : Nat) (a b : Int) : intCond k a b = condOf k (decide (a < b)) (decide (a = b)) := by
  have hlt : (a - b < 0) = (a < b) := by rw [eq_iff_iff]; omega
  have heq : (a - b = 0) = (a = b) := by rw [eq_iff_iff]; omega
  simp only [intCond, ordCond_eq_condOf, hlt, heq]

theorem floatCond_eq_condOf (k : Nat) (a b : Fp) :
    floatCond k a b =
      let nan := decide (a = .nan) || decide (b = .nan)
      let ord (k : Nat) := condOf k (decide (a.cmp b < 0)) (decide (a.cmp b = 0))
      if k = 6 then !nan else if k = 7 then nan else if k < 6 then !nan && ord k else nan || ord (k - 8) := by
  simp only [floatCond, ordCond_eq_condOf]
  rfl

/-- The condition code FN[3:0]. -/
theorem toNat_condField (fn : BitVec 8) : (fn.extractLsb' 0 4).toNat = fn.toNat % 16 := by
  simp

/-- Settles O8: each condition is the one of R130 on its order, and its combination is the model's own. -/
theorem comparesCombineWithAPredicate : Obligations.ComparesCombineWithAPredicate := by
  intro f s r th q comb rel k
  have hk : f.fn.toNat % 16 = k := (toNat_condField f.fn).symm
  constructor
  · intro h _ a b
    refine predResult_of_setPred h (exec_of_threadEffect rfl s) ?_
    rw [intCond_eq_condOf, hk]
    rfl
  · intro h _ a b nan ord
    refine predResult_of_setPred h (exec_of_threadEffect rfl s) ?_
    rw [floatCond_eq_condOf, hk]
    rfl

end Sys2Proof.Machine
end

section
/-!
CVTI: its value by source (R167), and its register image by destination type (R158).
-/
namespace Sys2Proof.Machine
open Sys2Proof

/-- A floating-point instruction or a conversion issues the update that its entry of `numEffect` gives. -/
theorem exec_of_numEffect {i : Instr} {f : Fields} {upd : Thread → Thread} (h : numEffect i = some (f, upd)) (s : State) :
    exec i s = .next (s.regOp i f.g upd) := by
  unfold numEffect at h
  split at h <;> cases h <;> rfl

/-- Under a type of 32 bits too, a register image is the integer reduced to its type and extended (R158). -/
theorem intWord_eq_ofInt_tyInt (ty : Ty) (x : Int) : intWord ty x = BitVec.ofInt 32 (tyInt ty (BitVec.ofInt 64 x)) := by
  unfold intWord
  split
  · next hw =>
    refine BitVec.eq_of_getLsbD_eq fun k hk => ?_
    have hbit : (tyInt ty (BitVec.ofInt 64 x)).testBit k = x.testBit k := by
      rw [testBit_tyInt, if_pos (by omega), getLsbD_ofInt, decide_eq_true (by omega), Bool.true_and]
    rw [getLsbD_ofInt, getLsbD_ofInt, hbit]
  · rfl

/-- An integer result of any type: a pair of 64 bits, or the register image of a type of at most 32 (R119, R158). -/
theorem pairOrWordResult_of_putInt {s : State} {r : ThreadRef} {th : Thread} {i : Instr} {g : Guard}
    {upd : Thread → Thread} {d : BitVec 7} {ty : Ty} {x : Int} (h : s.Single r th i g)
    (hx : exec i s = .next (s.regOp i g upd)) (hu : upd th = th.putInt d ty x) :
    if ty.is64 then PairResult i s r th d (BitVec.ofInt 64 x)
    else WordResult i s r th d (BitVec.ofInt 32 (tyInt ty (BitVec.ofInt 64 x))) := by
  unfold Thread.putInt at hu
  split at hu
  · next h64 => rw [if_pos h64]; exact pairResult_of_setPair h hx hu
  · next h64 => rw [if_neg h64, ← intWord_eq_ofInt_tyInt]; exact wordResult_of_setReg h hx hu

section
variable {t : Thread} {f : Fields}

/-- An integer source is exact, and clamps under `.sat` alone. -/
theorem valCvti_of_int (h : (cvtSrc f).isFloat = false) :
    valCvti t f =
      if f.x = 1 then tyClamp f.ty (tyInt (cvtSrc f) (t.raw (cvtSrc f).is64 f.a))
      else tyInt (cvtSrc f) (t.raw (cvtSrc f).is64 f.a) := by
  simp [valCvti, h]

theorem valCvti_of_nan (h : (cvtSrc f).isFloat = true) (hn : numOf (cvtSrc f) (t.reg f.a) = .nan) : valCvti t f = 0 := by
  simp [valCvti, h, hn]

theorem valCvti_of_inf {n : Bool} (h : (cvtSrc f).isFloat = true) (hn : numOf (cvtSrc f) (t.reg f.a) = .inf n) :
    valCvti t f = if n then tyMin f.ty else tyMax f.ty := by
  simp [valCvti, h, hn]

theorem valCvti_of_fin {n : Bool} {m : Nat} {e : Int} (h : (cvtSrc f).isFloat = true)
    (hn : numOf (cvtSrc f) (t.reg f.a) = .fin n m e) : valCvti t f = tyClamp f.ty (intOf f.rm n m e) := by
  simp [valCvti, h, hn]

end

/-- Settles O10: the write of CVTI has the register image of its value, and the value is R167's for each kind of source. -/
theorem conversionsRoundAndClamp : Obligations.ConversionsRoundAndClamp := by
  intro f s r th h _ src clamp put
  have hput {x : Int} (hx : valCvti th f = x) : put x :=
    pairOrWordResult_of_putInt h (exec_of_numEffect rfl s) (congrArg (th.putInt f.d f.ty) hx)
  refine ⟨fun hsrc => ?_, fun hsrc hn => ?_, fun hsrc n hn => ?_, fun hsrc n m e hn => ?_⟩
  · exact hput (valCvti_of_int hsrc)
  · exact hput (valCvti_of_nan hsrc hn)
  · exact hput (valCvti_of_inf hsrc hn)
  · exact hput (valCvti_of_fin hsrc hn)

end Sys2Proof.Machine
end
